-- ==== Sys2Proof/Word.lean ====
section
/-!
DEFINITION. Sys2Proof/Word.lean: the word types of Setre 2.0 and the keyed-list type of the state.
-/
namespace Sys2Proof

/-- A 64-bit value: a warp register in one lane, the value of a token (R14, R77). -/
abbrev Word := BitVec 64

/-- A 32-bit slot, read or literal word of a block (R34). -/
abbrev Insn := BitVec 32

/-- A set of lanes of one declared warp, bit L for lane L (R12). -/
abbrev Lanes := BitVec 64

/-- One 128-byte line, byte k in bits 8k+7 to 8k (R6). -/
abbrev Line := BitVec 1024

/-- One 64-byte record, byte k in bits 8k+7 to 8k (R241, R284). -/
abbrev Rec64 := BitVec 512

/-- A finite map keyed by numbers: pairs with keys strictly rising. -/
abbrev NMap (α : Type) := List (Nat × α)

end Sys2Proof
end

