-- ==== Sys2Proof/Syntax.lean ====
section
/-!
DEFINITION. Sys2Proof/Syntax.lean: the instructions of Setre 2.0 and the events of the part, one constructor for
each row of the opcode table. A slot instruction carries the fields of its word (R46); an event carries what the
event names.
-/
namespace Sys2Proof

/-- TYPE of a hall-link transaction, codes 0x01 to 0x08 (R345). -/
inductive TxnType where
  | read | write | atomic | readData | writeAck | atomicResult | invalidate | invalidateAck
  deriving DecidableEq, Repr

/-- A hall-link transaction: the header fields of R345 and its data slots, laid on the line.
`mask` names the bytes of the line that a write carries (log entry 21); `pois` the poisoned sectors that data carries
(R360). -/
structure Txn where
  type : TxnType
  tag : Nat
  ctx : Nat
  sect : BitVec 4
  aop : BitVec 3
  a64 : Bool
  acas : Bool
  af32 : Bool
  key : Nat
  pa : Nat
  data : Line
  mask : BitVec 128
  pois : BitVec 4
  deriving DecidableEq, Repr

/-- What one HSL message asks or answers (R357, R358). -/
inductive HKind where
  | load | store | atomic | disc | clean | loadDone | storeDone | atomicDone
  deriving DecidableEq, Repr

/-- One message of the load-store domain: a request of package `src` to package `dst`, or its completion.
`tag` is the end-to-end tag of R358. -/
structure HMsg where
  kind : HKind
  src : Nat
  dst : Nat
  tag : Nat
  ctx : Nat
  key : Nat
  pa : Nat
  size : Nat
  aop : BitVec 3
  acas : Bool
  af32 : Bool
  data : Line
  mask : BitVec 128
  poisoned : Bool
  deriving DecidableEq, Repr

/-- One HSL flit: numbered like a hall-link flit (R346, R357). -/
structure HFlit where
  seq : Nat
  msgs : List HMsg
  ack : Option Nat
  nak : Option Nat
  deriving DecidableEq, Repr

/-- Where an uncorrected storage error strikes (R360). -/
inductive ErrLoc where
  | l1 (core line : Nat)
  | hallLine (hall line : Nat)
  | hallStore (hall gid sector : Nat)
  | gallery (line sector : Nat)
  | hbm (line sector : Nat)
  | scratch (wg word : Nat)
  | tile (wg elem : Nat)
  | staging (ctx idx : Nat)
  deriving DecidableEq, Repr

/-- The role the host driver gives a stage queue (R322, R331). -/
inductive QRole where
  | stage | entry | alcove
  deriving DecidableEq, Repr

/-- What the host driver sets when it creates a context; patience in hall clocks and ceiling in ns have the defaults of R32. -/
structure CtxConfig where
  root : Nat
  emu : Option Nat
  trap : Option Nat
  faultBase : Nat
  faultLog2 : Nat
  faultCtl : Nat
  recipeBase : Nat
  recipeCount : Nat
  patience : Nat := 65536
  ceiling : Nat := 10000000
  supervisor : Bool
  servicer : Option Nat
  spillPool : Nat
  deriving DecidableEq, Repr

/-- The instructions (rows with an encoding) and the events (rows without) of spec/opcode_table.json. -/
inductive Instr where
  | mov (pm : BitVec 2) (tb : BitVec 9) (ta : BitVec 9)  -- MOV (R127)
  | void (pm : BitVec 2) (tb : BitVec 9) (ta : BitVec 9)  -- VOID (R127)
  | pick (pm : BitVec 2) (tb : BitVec 9) (ta : BitVec 9)  -- PICK (R128)
  | genk (pm : BitVec 2) (bank : BitVec 4) (wd : BitVec 8) (t : BitVec 9)  -- GENK (R126)
  | genl (pm : BitVec 2) (md : BitVec 3) (tb : BitVec 9) (ta : BitVec 9) (lit0 : BitVec 32) (lit1 : BitVec 32)  -- GENL (R125)
  | sreg (pm : BitVec 2) (imm : BitVec 12) (t : BitVec 9)  -- SREG (R129)
  | swreg (pm : BitVec 2) (imm : BitVec 12)  -- SWREG (R130)
  | shfl (pm : BitVec 2) (md : BitVec 3) (tb : BitVec 9) (ta : BitVec 9)  -- SHFL (R144)
  | vote (pm : BitVec 2) (md : BitVec 3) (tb : BitVec 9) (ta : BitVec 9)  -- VOTE (R145)
  | redx (pm : BitVec 2) (md : BitVec 3) (tb : BitVec 9) (ta : BitVec 9)  -- REDX (R146)
  | scanx (pm : BitVec 2) (md : BitVec 3) (tb : BitVec 9) (ta : BitVec 9)  -- SCANX (R146)
  | elect (pm : BitVec 2) (tb : BitVec 9) (ta : BitVec 9)  -- ELECT (R147)
  | emret (pm : BitVec 2)  -- EMRET (R176)
  | yield (pm : BitVec 2)  -- YIELD (R175)
  | trap (pm : BitVec 2) (imm : BitVec 12)  -- TRAP (R174)
  | fresume (pm : BitVec 2)  -- FRESUME (R177)
  | gen (imm : BitVec 20) (t : BitVec 9)  -- GEN (R124)
  | genf (imm : BitVec 20) (t : BitVec 9)  -- GENF (R124)
  | add (pm : BitVec 2) (md : BitVec 3) (tb : BitVec 9) (ta : BitVec 9)  -- ADD (R131)
  | sub (pm : BitVec 2) (md : BitVec 3) (tb : BitVec 9) (ta : BitVec 9)  -- SUB (R131)
  | addi (pm : BitVec 2) (imm : BitVec 12) (t : BitVec 9)  -- ADDI (R131)
  | mul (pm : BitVec 2) (md : BitVec 3) (tb : BitVec 9) (ta : BitVec 9)  -- MUL (R131)
  | mulh (pm : BitVec 2) (md : BitVec 3) (tb : BitVec 9) (ta : BitVec 9)  -- MULH (R131)
  | mad (pm : BitVec 2) (md : BitVec 3) (tb : BitVec 9) (ta : BitVec 9)  -- MAD (R131)
  | div (pm : BitVec 2) (md : BitVec 3) (tb : BitVec 9) (ta : BitVec 9)  -- DIV (R132)
  | rem (pm : BitVec 2) (md : BitVec 3) (tb : BitVec 9) (ta : BitVec 9)  -- REM (R132)
  | min (pm : BitVec 2) (md : BitVec 3) (tb : BitVec 9) (ta : BitVec 9)  -- MIN (R133)
  | max (pm : BitVec 2) (md : BitVec 3) (tb : BitVec 9) (ta : BitVec 9)  -- MAX (R133)
  | abs (pm : BitVec 2) (md : BitVec 3) (tb : BitVec 9) (ta : BitVec 9)  -- ABS (R133)
  | neg (pm : BitVec 2) (md : BitVec 3) (tb : BitVec 9) (ta : BitVec 9)  -- NEG (R133)
  | and (pm : BitVec 2) (md : BitVec 3) (tb : BitVec 9) (ta : BitVec 9)  -- AND (R134)
  | or (pm : BitVec 2) (md : BitVec 3) (tb : BitVec 9) (ta : BitVec 9)  -- OR (R134)
  | xor (pm : BitVec 2) (md : BitVec 3) (tb : BitVec 9) (ta : BitVec 9)  -- XOR (R134)
  | andn (pm : BitVec 2) (md : BitVec 3) (tb : BitVec 9) (ta : BitVec 9)  -- ANDN (R134)
  | not (pm : BitVec 2) (md : BitVec 3) (tb : BitVec 9) (ta : BitVec 9)  -- NOT (R134)
  | shl (pm : BitVec 2) (md : BitVec 3) (tb : BitVec 9) (ta : BitVec 9)  -- SHL (R135)
  | shr (pm : BitVec 2) (md : BitVec 3) (tb : BitVec 9) (ta : BitVec 9)  -- SHR (R135)
  | sar (pm : BitVec 2) (md : BitVec 3) (tb : BitVec 9) (ta : BitVec 9)  -- SAR (R135)
  | rotl (pm : BitVec 2) (md : BitVec 3) (tb : BitVec 9) (ta : BitVec 9)  -- ROTL (R135)
  | shli (pm : BitVec 2) (w64 : BitVec 1) (cnt : BitVec 6) (t : BitVec 9)  -- SHLI (R136)
  | shri (pm : BitVec 2) (w64 : BitVec 1) (cnt : BitVec 6) (t : BitVec 9)  -- SHRI (R136)
  | sari (pm : BitVec 2) (w64 : BitVec 1) (cnt : BitVec 6) (t : BitVec 9)  -- SARI (R136)
  | bfx (pm : BitVec 2) (md : BitVec 3) (tb : BitVec 9) (ta : BitVec 9)  -- BFX (R137)
  | bfi (pm : BitVec 2) (md : BitVec 3) (tb : BitVec 9) (ta : BitVec 9)  -- BFI (R137)
  | popc (pm : BitVec 2) (md : BitVec 3) (tb : BitVec 9) (ta : BitVec 9)  -- POPC (R138)
  | clz (pm : BitVec 2) (md : BitVec 3) (tb : BitVec 9) (ta : BitVec 9)  -- CLZ (R138)
  | ctz (pm : BitVec 2) (md : BitVec 3) (tb : BitVec 9) (ta : BitVec 9)  -- CTZ (R138)
  | brev (pm : BitVec 2) (md : BitVec 3) (tb : BitVec 9) (ta : BitVec 9)  -- BREV (R138)
  | sel (pm : BitVec 2) (tb : BitVec 9) (ta : BitVec 9)  -- SEL (R139)
  | cmpeq (pm : BitVec 2) (md : BitVec 3) (tb : BitVec 9) (ta : BitVec 9)  -- CMPEQ (R140)
  | cmpne (pm : BitVec 2) (md : BitVec 3) (tb : BitVec 9) (ta : BitVec 9)  -- CMPNE (R140)
  | cmplt (pm : BitVec 2) (md : BitVec 3) (tb : BitVec 9) (ta : BitVec 9)  -- CMPLT (R140)
  | cmple (pm : BitVec 2) (md : BitVec 3) (tb : BitVec 9) (ta : BitVec 9)  -- CMPLE (R140)
  | cmpeqi (pm : BitVec 2) (imm : BitVec 12) (t : BitVec 9)  -- CMPEQI (R140)
  | cmplti (pm : BitVec 2) (imm : BitVec 12) (t : BitVec 9)  -- CMPLTI (R140)
  | lea (pm : BitVec 2) (md : BitVec 3) (tb : BitVec 9) (ta : BitVec 9)  -- LEA (R141)
  | andi (pm : BitVec 2) (imm : BitVec 12) (t : BitVec 9)  -- ANDI (R134)
  | ori (pm : BitVec 2) (imm : BitVec 12) (t : BitVec 9)  -- ORI (R134)
  | xori (pm : BitVec 2) (imm : BitVec 12) (t : BitVec 9)  -- XORI (R134)
  | sext (pm : BitVec 2) (md : BitVec 3) (tb : BitVec 9) (ta : BitVec 9)  -- SEXT (R141)
  | zext (pm : BitVec 2) (md : BitVec 3) (tb : BitVec 9) (ta : BitVec 9)  -- ZEXT (R141)
  | byteperm (pm : BitVec 2) (tb : BitVec 9) (ta : BitVec 9)  -- BYTEPERM (R142)
  | fadd (pm : BitVec 2) (md : BitVec 3) (tb : BitVec 9) (ta : BitVec 9)  -- FADD (R150)
  | fsub (pm : BitVec 2) (md : BitVec 3) (tb : BitVec 9) (ta : BitVec 9)  -- FSUB (R150)
  | fmul (pm : BitVec 2) (md : BitVec 3) (tb : BitVec 9) (ta : BitVec 9)  -- FMUL (R150)
  | ffma (pm : BitVec 2) (md : BitVec 3) (tb : BitVec 9) (ta : BitVec 9)  -- FFMA (R150)
  | fdiv (pm : BitVec 2) (md : BitVec 3) (tb : BitVec 9) (ta : BitVec 9)  -- FDIV (R150)
  | fsqrt (pm : BitVec 2) (md : BitVec 3) (tb : BitVec 9) (ta : BitVec 9)  -- FSQRT (R150)
  | fmin (pm : BitVec 2) (md : BitVec 3) (tb : BitVec 9) (ta : BitVec 9)  -- FMIN (R151)
  | fmax (pm : BitVec 2) (md : BitVec 3) (tb : BitVec 9) (ta : BitVec 9)  -- FMAX (R151)
  | fabs (pm : BitVec 2) (tb : BitVec 9) (ta : BitVec 9)  -- FABS (R152)
  | fneg (pm : BitVec 2) (tb : BitVec 9) (ta : BitVec 9)  -- FNEG (R152)
  | fcmp (pm : BitVec 2) (md : BitVec 3) (tb : BitVec 9) (ta : BitVec 9)  -- FCMP (R153)
  | fclass (pm : BitVec 2) (tb : BitVec 9) (ta : BitVec 9)  -- FCLASS (R154)
  | frnd (pm : BitVec 2) (md : BitVec 3) (tb : BitVec 9) (ta : BitVec 9)  -- FRND (R155)
  | fscale (pm : BitVec 2) (md : BitVec 3) (tb : BitVec 9) (ta : BitVec 9)  -- FSCALE (R156)
  | dadd (pm : BitVec 2) (md : BitVec 3) (tb : BitVec 9) (ta : BitVec 9)  -- DADD (R157)
  | dsub (pm : BitVec 2) (md : BitVec 3) (tb : BitVec 9) (ta : BitVec 9)  -- DSUB (R157)
  | dmul (pm : BitVec 2) (md : BitVec 3) (tb : BitVec 9) (ta : BitVec 9)  -- DMUL (R157)
  | dfma (pm : BitVec 2) (md : BitVec 3) (tb : BitVec 9) (ta : BitVec 9)  -- DFMA (R157)
  | ddiv (pm : BitVec 2) (md : BitVec 3) (tb : BitVec 9) (ta : BitVec 9)  -- DDIV (R158)
  | dsqrt (pm : BitVec 2) (md : BitVec 3) (tb : BitVec 9) (ta : BitVec 9)  -- DSQRT (R158)
  | dcmp (pm : BitVec 2) (md : BitVec 3) (tb : BitVec 9) (ta : BitVec 9)  -- DCMP (R153)
  | dminmax (pm : BitVec 2) (md : BitVec 3) (tb : BitVec 9) (ta : BitVec 9)  -- DMINMAX (R157)
  | faddX2 (pm : BitVec 2) (md : BitVec 3) (tb : BitVec 9) (ta : BitVec 9)  -- FADD_X2 (R159)
  | fsubX2 (pm : BitVec 2) (md : BitVec 3) (tb : BitVec 9) (ta : BitVec 9)  -- FSUB_X2 (R159)
  | fmulX2 (pm : BitVec 2) (md : BitVec 3) (tb : BitVec 9) (ta : BitVec 9)  -- FMUL_X2 (R159)
  | ffmaX2 (pm : BitVec 2) (md : BitVec 3) (tb : BitVec 9) (ta : BitVec 9)  -- FFMA_X2 (R159)
  | fdotX2 (pm : BitVec 2) (md : BitVec 3) (tb : BitVec 9) (ta : BitVec 9)  -- FDOT_X2 (R116)
  | haddX4 (pm : BitVec 2) (md : BitVec 3) (tb : BitVec 9) (ta : BitVec 9)  -- HADD_X4 (R160)
  | hmulX4 (pm : BitVec 2) (md : BitVec 3) (tb : BitVec 9) (ta : BitVec 9)  -- HMUL_X4 (R160)
  | hfmaX4 (pm : BitVec 2) (md : BitVec 3) (tb : BitVec 9) (ta : BitVec 9)  -- HFMA_X4 (R160)
  | baddX4 (pm : BitVec 2) (md : BitVec 3) (tb : BitVec 9) (ta : BitVec 9)  -- BADD_X4 (R160)
  | bmulX4 (pm : BitVec 2) (md : BitVec 3) (tb : BitVec 9) (ta : BitVec 9)  -- BMUL_X4 (R160)
  | bfmaX4 (pm : BitVec 2) (md : BitVec 3) (tb : BitVec 9) (ta : BitVec 9)  -- BFMA_X4 (R160)
  | cvtF2i (pm : BitVec 2) (md : BitVec 3) (tb : BitVec 9) (ta : BitVec 9)  -- CVT_F2I (R164)
  | cvtI2f (pm : BitVec 2) (md : BitVec 3) (tb : BitVec 9) (ta : BitVec 9)  -- CVT_I2F (R163)
  | cvtF2f (pm : BitVec 2) (md : BitVec 3) (tb : BitVec 9) (ta : BitVec 9)  -- CVT_F2F (R163)
  | cvtI2i (pm : BitVec 2) (md : BitVec 3) (tb : BitVec 9) (ta : BitVec 9)  -- CVT_I2I (R164)
  | cvtH2f (pm : BitVec 2) (md : BitVec 3) (tb : BitVec 9) (ta : BitVec 9)  -- CVT_H2F (R163)
  | cvtF2d (pm : BitVec 2) (tb : BitVec 9) (ta : BitVec 9)  -- CVT_F2D (R163)
  | cvtD2f (pm : BitVec 2) (md : BitVec 2) (tb : BitVec 9) (ta : BitVec 9)  -- CVT_D2F (R163)
  | ncvtH (pm : BitVec 2) (md : BitVec 3) (tb : BitVec 9) (ta : BitVec 9)  -- NCVT_H (R165)
  | ncvtB (pm : BitVec 2) (md : BitVec 3) (tb : BitVec 9) (ta : BitVec 9)  -- NCVT_B (R165)
  | ncvtE4 (pm : BitVec 2) (md : BitVec 3) (tb : BitVec 9) (ta : BitVec 9)  -- NCVT_E4 (R165)
  | ncvtE5 (pm : BitVec 2) (md : BitVec 3) (tb : BitVec 9) (ta : BitVec 9)  -- NCVT_E5 (R165)
  | ncvtF4 (pm : BitVec 2) (md : BitVec 3) (tb : BitVec 9) (ta : BitVec 9)  -- NCVT_F4 (R165)
  | ncvtSc (pm : BitVec 2) (md : BitVec 3) (tb : BitVec 9) (ta : BitVec 9)  -- NCVT_SC (R165)
  | ncvtI8 (pm : BitVec 2) (md : BitVec 3) (tb : BitVec 9) (ta : BitVec 9)  -- NCVT_I8 (R165)
  | ncvtI4 (pm : BitVec 2) (md : BitVec 3) (tb : BitVec 9) (ta : BitVec 9)  -- NCVT_I4 (R165)
  | rcp (pm : BitVec 2) (md : BitVec 3) (tb : BitVec 9) (ta : BitVec 9)  -- RCP (R161)
  | rsq (pm : BitVec 2) (md : BitVec 3) (tb : BitVec 9) (ta : BitVec 9)  -- RSQ (R161)
  | exp2 (pm : BitVec 2) (md : BitVec 3) (tb : BitVec 9) (ta : BitVec 9)  -- EXP2 (R161)
  | log2 (pm : BitVec 2) (md : BitVec 3) (tb : BitVec 9) (ta : BitVec 9)  -- LOG2 (R161)
  | sin (pm : BitVec 2) (md : BitVec 3) (tb : BitVec 9) (ta : BitVec 9)  -- SIN (R161)
  | cos (pm : BitVec 2) (md : BitVec 3) (tb : BitVec 9) (ta : BitVec 9)  -- COS (R161)
  | tanh (pm : BitVec 2) (md : BitVec 3) (tb : BitVec 9) (ta : BitVec 9)  -- TANH (R161)
  | pack (pm : BitVec 2) (md : BitVec 3) (tb : BitVec 9) (ta : BitVec 9)  -- PACK (R166)
  | unpack (pm : BitVec 2) (md : BitVec 3) (tb : BitVec 9) (ta : BitVec 9)  -- UNPACK (R167)
  | mres (pm : BitVec 2) (md : BitVec 3) (tb : BitVec 9) (ta : BitVec 9)  -- MRES (R226)
  | mrel (pm : BitVec 2)  -- MREL (R227)
  | mma (pm : BitVec 2) (md : BitVec 3) (tb : BitVec 9) (ta : BitVec 9)  -- MMA (R229)
  | mman (pm : BitVec 2) (md : BitVec 3) (tb : BitVec 9) (ta : BitVec 9)  -- MMAN (R229)
  | mmanp (pm : BitVec 2) (md : BitVec 3) (tb : BitVec 9) (ta : BitVec 9)  -- MMANP (R229)
  | mzero (pm : BitVec 2) (tb : BitVec 9) (ta : BitVec 9)  -- MZERO (R230)
  | mcom (pm : BitVec 2) (tb : BitVec 9) (ta : BitVec 9)  -- MCOM (R234)
  | mwait (pm : BitVec 2) (tb : BitVec 9) (ta : BitVec 9)  -- MWAIT (R235)
  | mprog (pm : BitVec 2) (tb : BitVec 9) (ta : BitVec 9)  -- MPROG (R237)
  | mstat (pm : BitVec 2) (tb : BitVec 9) (ta : BitVec 9)  -- MSTAT (R238)
  | recdef (pm : BitVec 2) (md : BitVec 3) (tb : BitVec 9) (ta : BitVec 9)  -- RECDEF (R398)
  | recpin (pm : BitVec 2) (tb : BitVec 9) (ta : BitVec 9)  -- RECPIN (R250)
  | recunpin (pm : BitVec 2) (tb : BitVec 9) (ta : BitVec 9)  -- RECUNPIN (R250)
  | recdrop (pm : BitVec 2) (tb : BitVec 9) (ta : BitVec 9)  -- RECDROP (R250)
  | recdone (pm : BitVec 2)  -- RECDONE (R251)
  | recmat (pm : BitVec 2) (tb : BitVec 9) (ta : BitVec 9)  -- RECMAT (R250)
  | bri (pm : BitVec 2) (off : BitVec 21)  -- BRI (R169)
  | br (pm : BitVec 2)  -- BR (R169)
  | calli (pm : BitVec 2) (imm : BitVec 12) (t : BitVec 9)  -- CALLI (R169)
  | call (pm : BitVec 2) (tb : BitVec 9) (ta : BitVec 9)  -- CALL (R169)
  | ret (pm : BitVec 2)  -- RET (R171)
  | exit (pm : BitVec 2)  -- EXIT (R172)
  | binit (pm : BitVec 2) (md : BitVec 3)  -- BINIT (R181)
  | barv (pm : BitVec 2) (md : BitVec 3) (tb : BitVec 9) (ta : BitVec 9)  -- BARV (R181)
  | bard (pm : BitVec 2) (md : BitVec 3)  -- BARD (R181)
  | bwait (pm : BitVec 2) (md : BitVec 3) (tb : BitVec 9) (ta : BitVec 9)  -- BWAIT (R181)
  | bar (pm : BitVec 2) (md : BitVec 3) (tb : BitVec 9) (ta : BitVec 9)  -- BAR (R181)
  | bexpect (pm : BitVec 2) (md : BitVec 3)  -- BEXPECT (R181)
  | launch (pm : BitVec 2) (md : BitVec 3) (tb : BitVec 9) (ta : BitVec 9)  -- LAUNCH (R186)
  | trig (pm : BitVec 2)  -- TRIG (R188)
  | depwait (pm : BitVec 2) (tb : BitVec 9) (ta : BitVec 9)  -- DEPWAIT (R189)
  | qput (pm : BitVec 2) (md : BitVec 3) (tb : BitVec 9) (ta : BitVec 9)  -- QPUT (R242)
  | qtake (pm : BitVec 2) (md : BitVec 3) (tb : BitVec 9) (ta : BitVec 9)  -- QTAKE (R243)
  | qclose (pm : BitVec 2)  -- QCLOSE (R244)
  | qstat (pm : BitVec 2) (tb : BitVec 9) (ta : BitVec 9)  -- QSTAT (R245)
  | qbind (pm : BitVec 2)  -- QBIND (R246)
  | ld (pm : BitVec 2) (mos : BitVec 5) (md : BitVec 3) (off : BitVec 4) (t : BitVec 9)  -- LD (R193)
  | ldO (pm : BitVec 2) (mos : BitVec 5) (md : BitVec 3) (off : BitVec 4) (t : BitVec 9)  -- LD_O (R193)
  | lda32 (pm : BitVec 2) (mos : BitVec 5) (md : BitVec 3) (off : BitVec 4) (t : BitVec 9)  -- LDA_32 (R195)
  | lda64 (pm : BitVec 2) (mos : BitVec 5) (md : BitVec 3) (off : BitVec 4) (t : BitVec 9)  -- LDA_64 (R195)
  | lds (pm : BitVec 2) (mos : BitVec 5) (md : BitVec 3) (off : BitVec 4) (t : BitVec 9)  -- LDS (R193)
  | ldsFe (pm : BitVec 2) (mos : BitVec 5) (md : BitVec 3) (off : BitVec 4) (t : BitVec 9)  -- LDS_FE (R199)
  | ldc (pm : BitVec 2) (mos : BitVec 5) (md : BitVec 3) (off : BitVec 4) (t : BitVec 9)  -- LDC (R193)
  | ldt (pm : BitVec 2) (mos : BitVec 5) (md : BitVec 3) (off : BitVec 4) (t : BitVec 9)  -- LDT (R193)
  | ldk (pm : BitVec 2) (mos : BitVec 5) (off : BitVec 4) (t : BitVec 9)  -- LDK (R194)
  | st (pm : BitVec 2) (mos : BitVec 5) (md : BitVec 3) (off : BitVec 13)  -- ST (R196)
  | sts (pm : BitVec 2) (mos : BitVec 5) (md : BitVec 3) (off : BitVec 13)  -- STS (R196)
  | stsFe (pm : BitVec 2) (mos : BitVec 5) (off : BitVec 13)  -- STS_FE (R200)
  | stc (pm : BitVec 2) (mos : BitVec 5) (md : BitVec 3) (off : BitVec 13)  -- STC (R196)
  | stt (pm : BitVec 2) (mos : BitVec 5) (md : BitVec 3) (off : BitVec 13)  -- STT (R196)
  | strel32 (pm : BitVec 2) (mos : BitVec 5) (md : BitVec 3) (off : BitVec 13)  -- STREL_32 (R197)
  | strel64 (pm : BitVec 2) (mos : BitVec 5) (md : BitVec 3) (off : BitVec 13)  -- STREL_64 (R197)
  | atom32 (pm : BitVec 2) (mos : BitVec 5) (md : BitVec 3) (off : BitVec 4) (t : BitVec 9)  -- ATOM_32 (R203)
  | atom64 (pm : BitVec 2) (mos : BitVec 5) (md : BitVec 3) (off : BitVec 4) (t : BitVec 9)  -- ATOM_64 (R203)
  | atomf (pm : BitVec 2) (mos : BitVec 5) (off : BitVec 4) (t : BitVec 9)  -- ATOMF (R204)
  | cas32 (pm : BitVec 2) (mos : BitVec 5) (off : BitVec 4) (t : BitVec 9)  -- CAS_32 (R204)
  | cas64 (pm : BitVec 2) (mos : BitVec 5) (off : BitVec 4) (t : BitVec 9)  -- CAS_64 (R204)
  | atoms (pm : BitVec 2) (mos : BitVec 5) (md : BitVec 3) (off : BitVec 4) (t : BitVec 9)  -- ATOMS (R205)
  | red32 (pm : BitVec 2) (mos : BitVec 5) (md : BitVec 3) (off : BitVec 13)  -- RED_32 (R205)
  | fenceAcq (pm : BitVec 2) (mos : BitVec 5) (md : BitVec 3)  -- FENCE_ACQ (R207)
  | fenceRel (pm : BitVec 2) (mos : BitVec 5) (md : BitVec 3)  -- FENCE_REL (R207)
  | fenceAr (pm : BitVec 2) (mos : BitVec 5) (md : BitVec 3)  -- FENCE_AR (R207)
  | pref (pm : BitVec 2) (mos : BitVec 5) (md : BitVec 3) (off : BitVec 13)  -- PREF (R209)
  | resid (pm : BitVec 2) (mos : BitVec 5) (off : BitVec 13)  -- RESID (R209)
  | disc (pm : BitVec 2) (mos : BitVec 5) (off : BitVec 13)  -- DISC (R212)
  | clean (pm : BitVec 2) (mos : BitVec 5) (off : BitVec 13)  -- CLEAN (R213)
  | ipref (pm : BitVec 2) (mos : BitVec 5) (off : BitVec 13)  -- IPREF (R209)
  | iinv (pm : BitVec 2) (tb : BitVec 9) (ta : BitVec 9)  -- IINV (R214)
  | cpy (pm : BitVec 2) (md : BitVec 3)  -- CPY (R223)
  | feset (pm : BitVec 2) (mos : BitVec 5) (off : BitVec 13)  -- FESET (R201)
  | feclr (pm : BitVec 2) (mos : BitVec 5) (off : BitVec 13)  -- FECLR (R201)
  | emuVector (wid slot : Nat)  -- EMU_VECTOR (R268)
  | emuMatrixDrainDone (wid : Nat)  -- EMU_MATRIX_DRAIN_DONE (R269)
  | blockDecode (wid : Nat)  -- BLOCK_DECODE (R51)
  | icacheFillArrive (cluster line : Nat)  -- ICACHE_FILL_ARRIVE (R310)
  | blockCommit (wid : Nat)  -- BLOCK_COMMIT (R88)
  | msixRateTimer (ctx : Nat)  -- MSIX_RATE_TIMER (R356)
  | frameShareHandoff (wid : Nat)  -- FRAME_SHARE_HANDOFF (R328)
  | frameStarvationRaise (wid : Nat)  -- FRAME_STARVATION_RAISE (R329)
  | translationWalkDone (ctx page : Nat)  -- TRANSLATION_WALK_DONE (R315)
  | accessResponse (aid : Nat)  -- ACCESS_RESPONSE (R190)
  | engineQueueSpace (wid slot : Nat)  -- ENGINE_QUEUE_SPACE (R218)
  | barrierWaitEnd (wid slot : Nat)  -- BARRIER_WAIT_END (R181)
  | feWaitSatisfied (wid slot lane : Nat)  -- FE_WAIT_SATISFIED (R199)
  | mwaitEnd (wid slot : Nat)  -- MWAIT_END (R235)
  | qtakeWaitEnd (wid slot : Nat)  -- QTAKE_WAIT_END (R243)
  | depwaitEnd (wid slot : Nat)  -- DEPWAIT_END (R189)
  | iinvComplete (wid slot : Nat)  -- IINV_COMPLETE (R214)
  | copyComplete (core ch : Nat)  -- COPY_COMPLETE (R223)
  | matrixOpRetire (core : Nat)  -- MATRIX_OP_RETIRE (R232)
  | recipeSlicePlace (ctx idx : Nat)  -- RECIPE_SLICE_PLACE (R292)
  | galleryEvict (line : Nat)  -- GALLERY_EVICT (R289)
  | entryQueueAccept (q : Nat)  -- ENTRY_QUEUE_ACCEPT (R322)
  | gridEligible (gid : Nat)  -- GRID_ELIGIBLE (R324)
  | gangPlace (gang : Nat)  -- GANG_PLACE (R325)
  | gangPatienceExpired (gang : Nat)  -- GANG_PATIENCE_EXPIRED (R326)
  | gangPlacementTimeout (gang : Nat)  -- GANG_PLACEMENT_TIMEOUT (R326)
  | gridComplete (gid : Nat)  -- GRID_COMPLETE (R321)
  | stageLingerExpired (q : Nat)  -- STAGE_LINGER_EXPIRED (R247)
  | qbindMarkerHead (q : Nat)  -- QBIND_MARKER_HEAD (R248)
  | stageWatchdog (ctx graph : Nat)  -- STAGE_WATCHDOG (R334)
  | alcoveRecordArrive (core : Nat)  -- ALCOVE_RECORD_ARRIVE (R332)
  | hlRead (hall m : Nat)  -- HL_READ (R345)
  | hlWrite (hall m : Nat)  -- HL_WRITE (R345)
  | hlAtomic (hall m : Nat)  -- HL_ATOMIC (R345)
  | hlReadData (hall m : Nat)  -- HL_READ_DATA (R345)
  | hlWriteAck (hall m : Nat)  -- HL_WRITE_ACK (R345)
  | hlAtomicResult (hall m : Nat)  -- HL_ATOMIC_RESULT (R345)
  | hlInvalidate (hall m : Nat)  -- HL_INVALIDATE (R345)
  | hlInvalidateAck (hall m : Nat)  -- HL_INVALIDATE_ACK (R345)
  | hlinkFlitReceive (hall m : Nat) (up crcOk : Bool)  -- HLINK_FLIT_RECEIVE (R346)
  | hlinkNakReceived (hall m : Nat) (up : Bool)  -- HLINK_NAK_RECEIVED (R346)
  | hlinkAckReceived (hall m : Nat) (up : Bool)  -- HLINK_ACK_RECEIVED (R391)
  | hlinkAckTimer (hall m : Nat) (up : Bool)  -- HLINK_ACK_TIMER (R391)
  | hlinkReplayTimeout (hall m : Nat) (up : Bool)  -- HLINK_REPLAY_TIMEOUT (R391)
  | hlinkRetrainDone (hall m : Nat)  -- HLINK_RETRAIN_DONE (R347)
  | hslPortDegrade (port : Nat)  -- HSL_PORT_DEGRADE (R357)
  | remoteRequest (port : Nat)  -- REMOTE_REQUEST (R357)
  | remoteCompletionTimeout (tag : Nat)  -- REMOTE_COMPLETION_TIMEOUT (R358)
  | thermalThrottleEnter (die : Nat)  -- THERMAL_THROTTLE_ENTER (R374)
  | thermalThrottleExit (die : Nat)  -- THERMAL_THROTTLE_EXIT (R374)
  | matrixKstepDone (core : Nat)  -- MATRIX_KSTEP_DONE (R239)
  | copyBeat (core ch : Nat)  -- COPY_BEAT (R387)
  | putWindowWrite (q off size : Nat) (data : BitVec 1024)  -- PUT_WINDOW_WRITE (R323)
  | alcovePutWindowWrite (q off size : Nat) (data : Rec64)  -- ALCOVE_PUT_WINDOW_WRITE (R331)
  | hostBar4Access (write : Bool) (addr size data : Nat)  -- HOST_BAR4_ACCESS (R351)
  | xlinvPage (v : Word)  -- XLINV_PAGE (R317)
  | xlinvRange (v : Word)  -- XLINV_RANGE (R317)
  | xlinvContext (v : Word)  -- XLINV_CONTEXT (R317)
  | ctxswSave (v : Word)  -- CTXSW_SAVE (R339)
  | ctxswRestore (v : Word)  -- CTXSW_RESTORE (R340)
  | registerWrite (off : Nat) (v : Word)  -- REGISTER_WRITE (R352)
  | hlinkLaneFailure (hall m : Nat)  -- HLINK_LANE_FAILURE (R347)
  | hslFlitReceive (port : Nat) (flit : HFlit) (crcOk : Bool)  -- HSL_FLIT_RECEIVE (R357)
  | hallFatalError (hall cause : Nat)  -- HALL_FATAL_ERROR (R362)
  | contextFatalError (ctx wid : Nat)  -- CONTEXT_FATAL_ERROR (R363)
  | uncorrectedError (loc : ErrLoc)  -- UNCORRECTED_ERROR (R360)
  | correctedError (rec unit addr : Nat)  -- CORRECTED_ERROR (R366)
  | islandClockChange (island mhz : Nat)  -- ISLAND_CLOCK_CHANGE (R373)
  | powerOn (image : List (BitVec 8)) (secver : BitVec 32) (sigOk : Bool) (raise : Option (BitVec 32))  -- POWER_ON (R368): the image and what the boot ROM reads in it
  | packageReset  -- PACKAGE_RESET (R347)
  | contextCreate (ctx : Nat) (cfg : CtxConfig)  -- CONTEXT_CREATE (R381)
  | contextDestroy (ctx : Nat)  -- CONTEXT_DESTROY (R337)
  | queueAllocate (q ctx : Nat) (role : QRole) (cap : Nat) (graph : Option Nat)  -- QUEUE_ALLOCATE (R244)
  | cxlMemRequest (write : Bool) (addr : Nat) (data : Line)  -- CXL_MEM_REQUEST (R350)
  | faultRecordDrain  -- FAULT_RECORD_DRAIN (R335)
  | xlinvDone  -- XLINV_DONE (R317)
  | saveBoundaryTimeout  -- SAVE_BOUNDARY_TIMEOUT (R339)
  | ctxswSaveDone  -- CTXSW_SAVE_DONE (R339)
  | ctxswRestoreDone  -- CTXSW_RESTORE_DONE (R340)
  | mbUnknownCommand  -- MB_UNKNOWN_COMMAND (R355)
  | recRead  -- REC_READ (R367)
  | keyGen  -- KEY_GEN (R372)
  | keyClear  -- KEY_CLEAR (R372)
  | attestMake  -- ATTEST_MAKE (R370)
  | attestRead  -- ATTEST_READ (R370)
  | identRead  -- IDENT_READ (R369)
  | powerLimit  -- POWER_LIMIT (R373)
  | powerRead  -- POWER_READ (R367)
  | mbCommandDone  -- MB_COMMAND_DONE (R355)
  | thermalPowerOff  -- THERMAL_POWER_OFF (R374)
  deriving DecidableEq, Repr

end Sys2Proof
end

