-- ==== Sys2Proof/WellFormed.lean ====
section
/-!
DEFINITION. Sys2Proof/WellFormed.lean: which terms of `Instr` stand for an instruction or an event of the part.
-/
namespace Sys2Proof

/-- The legal values of a target field (R43). -/
def targetLegal (t : BitVec 9) : Bool :=
  let v := t.toNat
  if v = 0x1FF then true
  else if v < 0x180 then v % 128 < 64
  else decide (v < 0x1C8)

/-- Unit numbers of R3 and R344: eight halls of twelve modules, 104 clusters, 832 cores of eight copy channels, 64
contexts, 1,024 queues, 64 ports. -/
def hallOk (h : Nat) : Bool := h < 8
def modOk (h m : Nat) : Bool := h < 8 && m < 12
def coreOk (c : Nat) : Bool := c < 832
def ctxOk (c : Nat) : Bool := c < 64
def queueOk (q : Nat) : Bool := q < 1024
def portOk (p : Nat) : Bool := p < 64

/-- A term of `Instr` that the part can hold: legal target fields (R43), no second literal on a `GENL` that takes one
(R49), and unit numbers that exist (R3). -/
def wellFormed : Instr → Bool
  | .mov _ tb ta => targetLegal tb && targetLegal ta
  | .void _ tb ta => targetLegal tb && targetLegal ta
  | .pick _ tb ta => targetLegal tb && targetLegal ta
  | .genk _ _ _ t => targetLegal t
  | .genl _ md tb ta _ lit1 => targetLegal tb && targetLegal ta && (md &&& 3#3 == 3#3 || lit1 == 0)
  | .sreg _ _ t => targetLegal t
  | .shfl _ _ tb ta => targetLegal tb && targetLegal ta
  | .vote _ _ tb ta => targetLegal tb && targetLegal ta
  | .redx _ _ tb ta => targetLegal tb && targetLegal ta
  | .scanx _ _ tb ta => targetLegal tb && targetLegal ta
  | .elect _ tb ta => targetLegal tb && targetLegal ta
  | .gen _ t => targetLegal t
  | .genf _ t => targetLegal t
  | .add _ _ tb ta => targetLegal tb && targetLegal ta
  | .sub _ _ tb ta => targetLegal tb && targetLegal ta
  | .addi _ _ t => targetLegal t
  | .mul _ _ tb ta => targetLegal tb && targetLegal ta
  | .mulh _ _ tb ta => targetLegal tb && targetLegal ta
  | .mad _ _ tb ta => targetLegal tb && targetLegal ta
  | .div _ _ tb ta => targetLegal tb && targetLegal ta
  | .rem _ _ tb ta => targetLegal tb && targetLegal ta
  | .min _ _ tb ta => targetLegal tb && targetLegal ta
  | .max _ _ tb ta => targetLegal tb && targetLegal ta
  | .abs _ _ tb ta => targetLegal tb && targetLegal ta
  | .neg _ _ tb ta => targetLegal tb && targetLegal ta
  | .and _ _ tb ta => targetLegal tb && targetLegal ta
  | .or _ _ tb ta => targetLegal tb && targetLegal ta
  | .xor _ _ tb ta => targetLegal tb && targetLegal ta
  | .andn _ _ tb ta => targetLegal tb && targetLegal ta
  | .not _ _ tb ta => targetLegal tb && targetLegal ta
  | .shl _ _ tb ta => targetLegal tb && targetLegal ta
  | .shr _ _ tb ta => targetLegal tb && targetLegal ta
  | .sar _ _ tb ta => targetLegal tb && targetLegal ta
  | .rotl _ _ tb ta => targetLegal tb && targetLegal ta
  | .shli _ _ _ t => targetLegal t
  | .shri _ _ _ t => targetLegal t
  | .sari _ _ _ t => targetLegal t
  | .bfx _ _ tb ta => targetLegal tb && targetLegal ta
  | .bfi _ _ tb ta => targetLegal tb && targetLegal ta
  | .popc _ _ tb ta => targetLegal tb && targetLegal ta
  | .clz _ _ tb ta => targetLegal tb && targetLegal ta
  | .ctz _ _ tb ta => targetLegal tb && targetLegal ta
  | .brev _ _ tb ta => targetLegal tb && targetLegal ta
  | .sel _ tb ta => targetLegal tb && targetLegal ta
  | .cmpeq _ _ tb ta => targetLegal tb && targetLegal ta
  | .cmpne _ _ tb ta => targetLegal tb && targetLegal ta
  | .cmplt _ _ tb ta => targetLegal tb && targetLegal ta
  | .cmple _ _ tb ta => targetLegal tb && targetLegal ta
  | .cmpeqi _ _ t => targetLegal t
  | .cmplti _ _ t => targetLegal t
  | .lea _ _ tb ta => targetLegal tb && targetLegal ta
  | .andi _ _ t => targetLegal t
  | .ori _ _ t => targetLegal t
  | .xori _ _ t => targetLegal t
  | .sext _ _ tb ta => targetLegal tb && targetLegal ta
  | .zext _ _ tb ta => targetLegal tb && targetLegal ta
  | .byteperm _ tb ta => targetLegal tb && targetLegal ta
  | .fadd _ _ tb ta => targetLegal tb && targetLegal ta
  | .fsub _ _ tb ta => targetLegal tb && targetLegal ta
  | .fmul _ _ tb ta => targetLegal tb && targetLegal ta
  | .ffma _ _ tb ta => targetLegal tb && targetLegal ta
  | .fdiv _ _ tb ta => targetLegal tb && targetLegal ta
  | .fsqrt _ _ tb ta => targetLegal tb && targetLegal ta
  | .fmin _ _ tb ta => targetLegal tb && targetLegal ta
  | .fmax _ _ tb ta => targetLegal tb && targetLegal ta
  | .fabs _ tb ta => targetLegal tb && targetLegal ta
  | .fneg _ tb ta => targetLegal tb && targetLegal ta
  | .fcmp _ _ tb ta => targetLegal tb && targetLegal ta
  | .fclass _ tb ta => targetLegal tb && targetLegal ta
  | .frnd _ _ tb ta => targetLegal tb && targetLegal ta
  | .fscale _ _ tb ta => targetLegal tb && targetLegal ta
  | .dadd _ _ tb ta => targetLegal tb && targetLegal ta
  | .dsub _ _ tb ta => targetLegal tb && targetLegal ta
  | .dmul _ _ tb ta => targetLegal tb && targetLegal ta
  | .dfma _ _ tb ta => targetLegal tb && targetLegal ta
  | .ddiv _ _ tb ta => targetLegal tb && targetLegal ta
  | .dsqrt _ _ tb ta => targetLegal tb && targetLegal ta
  | .dcmp _ _ tb ta => targetLegal tb && targetLegal ta
  | .dminmax _ _ tb ta => targetLegal tb && targetLegal ta
  | .faddX2 _ _ tb ta => targetLegal tb && targetLegal ta
  | .fsubX2 _ _ tb ta => targetLegal tb && targetLegal ta
  | .fmulX2 _ _ tb ta => targetLegal tb && targetLegal ta
  | .ffmaX2 _ _ tb ta => targetLegal tb && targetLegal ta
  | .fdotX2 _ _ tb ta => targetLegal tb && targetLegal ta
  | .haddX4 _ _ tb ta => targetLegal tb && targetLegal ta
  | .hmulX4 _ _ tb ta => targetLegal tb && targetLegal ta
  | .hfmaX4 _ _ tb ta => targetLegal tb && targetLegal ta
  | .baddX4 _ _ tb ta => targetLegal tb && targetLegal ta
  | .bmulX4 _ _ tb ta => targetLegal tb && targetLegal ta
  | .bfmaX4 _ _ tb ta => targetLegal tb && targetLegal ta
  | .cvtF2i _ _ tb ta => targetLegal tb && targetLegal ta
  | .cvtI2f _ _ tb ta => targetLegal tb && targetLegal ta
  | .cvtF2f _ _ tb ta => targetLegal tb && targetLegal ta
  | .cvtI2i _ _ tb ta => targetLegal tb && targetLegal ta
  | .cvtH2f _ _ tb ta => targetLegal tb && targetLegal ta
  | .cvtF2d _ tb ta => targetLegal tb && targetLegal ta
  | .cvtD2f _ _ tb ta => targetLegal tb && targetLegal ta
  | .ncvtH _ _ tb ta => targetLegal tb && targetLegal ta
  | .ncvtB _ _ tb ta => targetLegal tb && targetLegal ta
  | .ncvtE4 _ _ tb ta => targetLegal tb && targetLegal ta
  | .ncvtE5 _ _ tb ta => targetLegal tb && targetLegal ta
  | .ncvtF4 _ _ tb ta => targetLegal tb && targetLegal ta
  | .ncvtSc _ _ tb ta => targetLegal tb && targetLegal ta
  | .ncvtI8 _ _ tb ta => targetLegal tb && targetLegal ta
  | .ncvtI4 _ _ tb ta => targetLegal tb && targetLegal ta
  | .rcp _ _ tb ta => targetLegal tb && targetLegal ta
  | .rsq _ _ tb ta => targetLegal tb && targetLegal ta
  | .exp2 _ _ tb ta => targetLegal tb && targetLegal ta
  | .log2 _ _ tb ta => targetLegal tb && targetLegal ta
  | .sin _ _ tb ta => targetLegal tb && targetLegal ta
  | .cos _ _ tb ta => targetLegal tb && targetLegal ta
  | .tanh _ _ tb ta => targetLegal tb && targetLegal ta
  | .pack _ _ tb ta => targetLegal tb && targetLegal ta
  | .unpack _ _ tb ta => targetLegal tb && targetLegal ta
  | .mres _ _ tb ta => targetLegal tb && targetLegal ta
  | .mma _ _ tb ta => targetLegal tb && targetLegal ta
  | .mman _ _ tb ta => targetLegal tb && targetLegal ta
  | .mmanp _ _ tb ta => targetLegal tb && targetLegal ta
  | .mzero _ tb ta => targetLegal tb && targetLegal ta
  | .mcom _ tb ta => targetLegal tb && targetLegal ta
  | .mwait _ tb ta => targetLegal tb && targetLegal ta
  | .mprog _ tb ta => targetLegal tb && targetLegal ta
  | .mstat _ tb ta => targetLegal tb && targetLegal ta
  | .recdef _ _ tb ta => targetLegal tb && targetLegal ta
  | .recpin _ tb ta => targetLegal tb && targetLegal ta
  | .recunpin _ tb ta => targetLegal tb && targetLegal ta
  | .recdrop _ tb ta => targetLegal tb && targetLegal ta
  | .recmat _ tb ta => targetLegal tb && targetLegal ta
  | .calli _ _ t => targetLegal t
  | .call _ tb ta => targetLegal tb && targetLegal ta
  | .barv _ _ tb ta => targetLegal tb && targetLegal ta
  | .bwait _ _ tb ta => targetLegal tb && targetLegal ta
  | .bar _ _ tb ta => targetLegal tb && targetLegal ta
  | .launch _ _ tb ta => targetLegal tb && targetLegal ta
  | .depwait _ tb ta => targetLegal tb && targetLegal ta
  | .qput _ _ tb ta => targetLegal tb && targetLegal ta
  | .qtake _ _ tb ta => targetLegal tb && targetLegal ta
  | .qstat _ tb ta => targetLegal tb && targetLegal ta
  | .ld _ _ _ _ t => targetLegal t
  | .ldO _ _ _ _ t => targetLegal t
  | .lda32 _ _ _ _ t => targetLegal t
  | .lda64 _ _ _ _ t => targetLegal t
  | .lds _ _ _ _ t => targetLegal t
  | .ldsFe _ _ _ _ t => targetLegal t
  | .ldc _ _ _ _ t => targetLegal t
  | .ldt _ _ _ _ t => targetLegal t
  | .ldk _ _ _ t => targetLegal t
  | .atom32 _ _ _ _ t => targetLegal t
  | .atom64 _ _ _ _ t => targetLegal t
  | .atomf _ _ _ t => targetLegal t
  | .cas32 _ _ _ t => targetLegal t
  | .cas64 _ _ _ t => targetLegal t
  | .atoms _ _ _ _ t => targetLegal t
  | .iinv _ tb ta => targetLegal tb && targetLegal ta
  | .icacheFillArrive cluster _ => decide (cluster < 104)
  | .msixRateTimer ctx => ctxOk ctx
  | .translationWalkDone ctx _ => ctxOk ctx
  | .copyComplete core ch => coreOk core && decide (ch < 8)
  | .matrixOpRetire core => coreOk core
  | .recipeSlicePlace ctx _ => ctxOk ctx
  | .entryQueueAccept q => queueOk q
  | .stageLingerExpired q => queueOk q
  | .qbindMarkerHead q => queueOk q
  | .stageWatchdog ctx _ => ctxOk ctx
  | .alcoveRecordArrive core => coreOk core
  | .putWindowWrite q _ _ _ => queueOk q
  | .alcovePutWindowWrite q _ _ _ => queueOk q
  | .hlRead hall m => modOk hall m
  | .hlWrite hall m => modOk hall m
  | .hlAtomic hall m => modOk hall m
  | .hlReadData hall m => modOk hall m
  | .hlWriteAck hall m => modOk hall m
  | .hlAtomicResult hall m => modOk hall m
  | .hlInvalidate hall m => modOk hall m
  | .hlInvalidateAck hall m => modOk hall m
  | .hlinkFlitReceive hall m _ _ => modOk hall m
  | .hlinkNakReceived hall m _ => modOk hall m
  | .hlinkAckReceived hall m _ => modOk hall m
  | .hlinkAckTimer hall m _ => modOk hall m
  | .hlinkReplayTimeout hall m _ => modOk hall m
  | .hlinkLaneFailure hall m => modOk hall m
  | .hlinkRetrainDone hall m => modOk hall m
  | .hslFlitReceive port _ _ => portOk port
  | .hslPortDegrade port => portOk port
  | .remoteRequest port => portOk port
  | .hallFatalError hall _ => hallOk hall
  | .contextFatalError ctx _ => ctxOk ctx
  | .contextCreate ctx _ => ctxOk ctx
  | .contextDestroy ctx => ctxOk ctx
  | .queueAllocate q ctx _ _ _ => ctxOk ctx && queueOk q
  | .matrixKstepDone core => coreOk core
  | .copyBeat core ch => coreOk core && decide (ch < 8)
  | _ => true

end Sys2Proof
end

