-- ==== Sys2Proof/Decode.lean ====
section
/-!
DEFINITION. Sys2Proof/Decode.lean: reading a slot word (R46, R62 to R75), the operand and target facts of each
opcode that block decode checks (R45, R63), and the encoder.
-/
namespace Sys2Proof

/-- Why a word is no instruction: code 0x000 (R62), an unassigned code (EMU_UNDEF, R75), a reserved field of an
assigned code (EMU_RESERVED, R75), or a target on a slot without output (ILLEGAL_TARGET, R63). -/
inductive Reject where
  | zeroOpcode | unassigned | reservedField | output
  deriving DecidableEq, Repr

/-! ## Fields of R46 -/

def fOp (w : Insn) : BitVec 9 := w.extractLsb' 23 9
def fPm (w : Insn) : BitVec 2 := w.extractLsb' 21 2
def fMd (w : Insn) : BitVec 3 := w.extractLsb' 18 3
/-- MOD[1:0], bits 19:18. -/
def fMd2 (w : Insn) : BitVec 2 := w.extractLsb' 18 2
def fTb (w : Insn) : BitVec 9 := w.extractLsb' 9 9
def fTa (w : Insn) : BitVec 9 := w.extractLsb' 0 9
def fT (w : Insn) : BitVec 9 := w.extractLsb' 0 9
def fImm (w : Insn) : BitVec 12 := w.extractLsb' 9 12
/-- Bank and word of `GENK`, IMM12[11:8] and IMM12[7:0] (R67). -/
def fBank (w : Insn) : BitVec 4 := w.extractLsb' 17 4
def fWd (w : Insn) : BitVec 8 := w.extractLsb' 9 8
/-- Width and count of the immediate shifts, IMM12[6] and IMM12[5:0] (R68). -/
def fW64 (w : Insn) : BitVec 1 := w.extractLsb' 15 1
def fCnt (w : Insn) : BitVec 6 := w.extractLsb' 9 6
def fMos (w : Insn) : BitVec 5 := w.extractLsb' 16 5
def fMdM (w : Insn) : BitVec 3 := w.extractLsb' 13 3
def fOff4 (w : Insn) : BitVec 4 := w.extractLsb' 9 4
def fOff13 (w : Insn) : BitVec 13 := w.extractLsb' 0 13
def fOff21 (w : Insn) : BitVec 21 := w.extractLsb' 0 21
def fImm20 (w : Insn) : BitVec 20 := w.extractLsb' 9 20
def fK (w : Insn) : BitVec 3 := w.extractLsb' 29 3

/-! ## Reserved fields -/

/-- A row of MOD set Z, formats G and I. -/
def zMd (w : Insn) (i : Instr) : Except Reject Instr := if fMd w = 0 then .ok i else .error .reservedField
/-- A row of MOD set Z, formats M and S. -/
def zMdM (w : Insn) (i : Instr) : Except Reject Instr := if fMdM w = 0 then .ok i else .error .reservedField
/-- A fence: OFF13 must be zero (R72). -/
def zOff (w : Insn) (i : Instr) : Except Reject Instr := if fOff13 w = 0 then .ok i else .error .reservedField
/-- IMM12[11:7] of an immediate shift must be zero (R68). -/
def shZ (w : Insn) (i : Instr) : Except Reject Instr :=
  if w.extractLsb' 16 5 = 0 then .ok i else .error .reservedField
/-- A slot without output has target 0x1FF (R63): formats I, then G. -/
def noT (w : Insn) (i : Instr) : Except Reject Instr := if fT w = 0x1FF#9 then .ok i else .error .output
def noTT (w : Insn) (r : Except Reject Instr) : Except Reject Instr :=
  if fTb w = 0x1FF#9 ∧ fTa w = 0x1FF#9 then r else .error .output

/-- The codes of group G0 (R67); a code without a row is unassigned (R62). -/
def decodeG0 (w l0 l1 : BitVec 32) : Except Reject Instr :=
  match (fOp w).toNat with
  | 0x000 => .error .zeroOpcode
  | 0x001 => zMd w (.mov (fPm w) (fTb w) (fTa w))
  | 0x002 => zMd w (.void (fPm w) (fTb w) (fTa w))
  | 0x003 => zMd w (.pick (fPm w) (fTb w) (fTa w))
  | 0x004 => .ok (.genk (fPm w) (fBank w) (fWd w) (fT w))
  | 0x005 => .ok (.genl (fPm w) (fMd w) (fTb w) (fTa w) l0 (if fMd w &&& 3#3 = 3#3 then l1 else 0#32))
  | 0x006 => .ok (.sreg (fPm w) (fImm w) (fT w))
  | 0x007 => noT w (.swreg (fPm w) (fImm w))
  | 0x008 => .ok (.shfl (fPm w) (fMd w) (fTb w) (fTa w))
  | 0x009 => .ok (.vote (fPm w) (fMd w) (fTb w) (fTa w))
  | 0x00A => .ok (.redx (fPm w) (fMd w) (fTb w) (fTa w))
  | 0x00B => .ok (.scanx (fPm w) (fMd w) (fTb w) (fTa w))
  | 0x00C => zMd w (.elect (fPm w) (fTb w) (fTa w))
  | 0x010 => noTT w (zMd w (.emret (fPm w)))
  | 0x011 => noTT w (zMd w (.yield (fPm w)))
  | 0x012 => noT w (.trap (fPm w) (fImm w))
  | 0x013 => noTT w (zMd w (.fresume (fPm w)))
  | _ => .error .unassigned

/-- The codes of group G1 (R68); a code without a row is unassigned (R62). -/
def decodeG1 (w : BitVec 32) : Except Reject Instr :=
  match (fOp w).toNat with
  | 0x040 => .ok (.add (fPm w) (fMd w) (fTb w) (fTa w))
  | 0x041 => .ok (.sub (fPm w) (fMd w) (fTb w) (fTa w))
  | 0x042 => .ok (.addi (fPm w) (fImm w) (fT w))
  | 0x043 => .ok (.mul (fPm w) (fMd w) (fTb w) (fTa w))
  | 0x044 => .ok (.mulh (fPm w) (fMd w) (fTb w) (fTa w))
  | 0x045 => .ok (.mad (fPm w) (fMd w) (fTb w) (fTa w))
  | 0x046 => .ok (.div (fPm w) (fMd w) (fTb w) (fTa w))
  | 0x047 => .ok (.rem (fPm w) (fMd w) (fTb w) (fTa w))
  | 0x048 => .ok (.min (fPm w) (fMd w) (fTb w) (fTa w))
  | 0x049 => .ok (.max (fPm w) (fMd w) (fTb w) (fTa w))
  | 0x04A => .ok (.abs (fPm w) (fMd w) (fTb w) (fTa w))
  | 0x04B => .ok (.neg (fPm w) (fMd w) (fTb w) (fTa w))
  | 0x04C => .ok (.and (fPm w) (fMd w) (fTb w) (fTa w))
  | 0x04D => .ok (.or (fPm w) (fMd w) (fTb w) (fTa w))
  | 0x04E => .ok (.xor (fPm w) (fMd w) (fTb w) (fTa w))
  | 0x04F => .ok (.andn (fPm w) (fMd w) (fTb w) (fTa w))
  | 0x050 => .ok (.not (fPm w) (fMd w) (fTb w) (fTa w))
  | 0x051 => .ok (.shl (fPm w) (fMd w) (fTb w) (fTa w))
  | 0x052 => .ok (.shr (fPm w) (fMd w) (fTb w) (fTa w))
  | 0x053 => .ok (.sar (fPm w) (fMd w) (fTb w) (fTa w))
  | 0x054 => .ok (.rotl (fPm w) (fMd w) (fTb w) (fTa w))
  | 0x055 => shZ w (.shli (fPm w) (fW64 w) (fCnt w) (fT w))
  | 0x056 => shZ w (.shri (fPm w) (fW64 w) (fCnt w) (fT w))
  | 0x057 => shZ w (.sari (fPm w) (fW64 w) (fCnt w) (fT w))
  | 0x058 => .ok (.bfx (fPm w) (fMd w) (fTb w) (fTa w))
  | 0x059 => .ok (.bfi (fPm w) (fMd w) (fTb w) (fTa w))
  | 0x05A => .ok (.popc (fPm w) (fMd w) (fTb w) (fTa w))
  | 0x05B => .ok (.clz (fPm w) (fMd w) (fTb w) (fTa w))
  | 0x05C => .ok (.ctz (fPm w) (fMd w) (fTb w) (fTa w))
  | 0x05D => .ok (.brev (fPm w) (fMd w) (fTb w) (fTa w))
  | 0x05E => zMd w (.sel (fPm w) (fTb w) (fTa w))
  | 0x060 => .ok (.cmpeq (fPm w) (fMd w) (fTb w) (fTa w))
  | 0x061 => .ok (.cmpne (fPm w) (fMd w) (fTb w) (fTa w))
  | 0x062 => .ok (.cmplt (fPm w) (fMd w) (fTb w) (fTa w))
  | 0x063 => .ok (.cmple (fPm w) (fMd w) (fTb w) (fTa w))
  | 0x064 => .ok (.cmpeqi (fPm w) (fImm w) (fT w))
  | 0x065 => .ok (.cmplti (fPm w) (fImm w) (fT w))
  | 0x066 => .ok (.lea (fPm w) (fMd w) (fTb w) (fTa w))
  | 0x068 => .ok (.andi (fPm w) (fImm w) (fT w))
  | 0x069 => .ok (.ori (fPm w) (fImm w) (fT w))
  | 0x06A => .ok (.xori (fPm w) (fImm w) (fT w))
  | 0x06B => .ok (.sext (fPm w) (fMd w) (fTb w) (fTa w))
  | 0x06C => .ok (.zext (fPm w) (fMd w) (fTb w) (fTa w))
  | 0x06D => zMd w (.byteperm (fPm w) (fTb w) (fTa w))
  | _ => .error .unassigned

/-- The codes of group G2 (R69); a code without a row is unassigned (R62). -/
def decodeG2 (w : BitVec 32) : Except Reject Instr :=
  match (fOp w).toNat with
  | 0x080 => .ok (.fadd (fPm w) (fMd w) (fTb w) (fTa w))
  | 0x081 => .ok (.fsub (fPm w) (fMd w) (fTb w) (fTa w))
  | 0x082 => .ok (.fmul (fPm w) (fMd w) (fTb w) (fTa w))
  | 0x083 => .ok (.ffma (fPm w) (fMd w) (fTb w) (fTa w))
  | 0x084 => .ok (.fdiv (fPm w) (fMd w) (fTb w) (fTa w))
  | 0x085 => .ok (.fsqrt (fPm w) (fMd w) (fTb w) (fTa w))
  | 0x086 => .ok (.fmin (fPm w) (fMd w) (fTb w) (fTa w))
  | 0x087 => .ok (.fmax (fPm w) (fMd w) (fTb w) (fTa w))
  | 0x088 => zMd w (.fabs (fPm w) (fTb w) (fTa w))
  | 0x089 => zMd w (.fneg (fPm w) (fTb w) (fTa w))
  | 0x08A => .ok (.fcmp (fPm w) (fMd w) (fTb w) (fTa w))
  | 0x08B => zMd w (.fclass (fPm w) (fTb w) (fTa w))
  | 0x08C => .ok (.frnd (fPm w) (fMd w) (fTb w) (fTa w))
  | 0x08D => .ok (.fscale (fPm w) (fMd w) (fTb w) (fTa w))
  | 0x090 => .ok (.dadd (fPm w) (fMd w) (fTb w) (fTa w))
  | 0x091 => .ok (.dsub (fPm w) (fMd w) (fTb w) (fTa w))
  | 0x092 => .ok (.dmul (fPm w) (fMd w) (fTb w) (fTa w))
  | 0x093 => .ok (.dfma (fPm w) (fMd w) (fTb w) (fTa w))
  | 0x094 => .ok (.ddiv (fPm w) (fMd w) (fTb w) (fTa w))
  | 0x095 => .ok (.dsqrt (fPm w) (fMd w) (fTb w) (fTa w))
  | 0x096 => .ok (.dcmp (fPm w) (fMd w) (fTb w) (fTa w))
  | 0x097 => .ok (.dminmax (fPm w) (fMd w) (fTb w) (fTa w))
  | 0x0A0 => .ok (.faddX2 (fPm w) (fMd w) (fTb w) (fTa w))
  | 0x0A1 => .ok (.fsubX2 (fPm w) (fMd w) (fTb w) (fTa w))
  | 0x0A2 => .ok (.fmulX2 (fPm w) (fMd w) (fTb w) (fTa w))
  | 0x0A3 => .ok (.ffmaX2 (fPm w) (fMd w) (fTb w) (fTa w))
  | 0x0A4 => .ok (.fdotX2 (fPm w) (fMd w) (fTb w) (fTa w))
  | 0x0A8 => .ok (.haddX4 (fPm w) (fMd w) (fTb w) (fTa w))
  | 0x0A9 => .ok (.hmulX4 (fPm w) (fMd w) (fTb w) (fTa w))
  | 0x0AA => .ok (.hfmaX4 (fPm w) (fMd w) (fTb w) (fTa w))
  | 0x0AB => .ok (.baddX4 (fPm w) (fMd w) (fTb w) (fTa w))
  | 0x0AC => .ok (.bmulX4 (fPm w) (fMd w) (fTb w) (fTa w))
  | 0x0AD => .ok (.bfmaX4 (fPm w) (fMd w) (fTb w) (fTa w))
  | 0x0B0 => .ok (.cvtF2i (fPm w) (fMd w) (fTb w) (fTa w))
  | 0x0B1 => .ok (.cvtI2f (fPm w) (fMd w) (fTb w) (fTa w))
  | 0x0B2 => .ok (.cvtF2f (fPm w) (fMd w) (fTb w) (fTa w))
  | 0x0B3 => .ok (.cvtI2i (fPm w) (fMd w) (fTb w) (fTa w))
  | 0x0B4 => .ok (.cvtH2f (fPm w) (fMd w) (fTb w) (fTa w))
  | 0x0B5 => if fMd w = 0 then .ok (.cvtF2d (fPm w) (fTb w) (fTa w)) else if (fMd w).getLsbD 2 then
      .ok (.cvtD2f (fPm w) (fMd2 w) (fTb w) (fTa w)) else .error .reservedField
  | 0x0B8 => .ok (.ncvtH (fPm w) (fMd w) (fTb w) (fTa w))
  | 0x0B9 => .ok (.ncvtB (fPm w) (fMd w) (fTb w) (fTa w))
  | 0x0BA => .ok (.ncvtE4 (fPm w) (fMd w) (fTb w) (fTa w))
  | 0x0BB => .ok (.ncvtE5 (fPm w) (fMd w) (fTb w) (fTa w))
  | 0x0BC => .ok (.ncvtF4 (fPm w) (fMd w) (fTb w) (fTa w))
  | 0x0BD => .ok (.ncvtSc (fPm w) (fMd w) (fTb w) (fTa w))
  | 0x0BE => .ok (.ncvtI8 (fPm w) (fMd w) (fTb w) (fTa w))
  | 0x0BF => .ok (.ncvtI4 (fPm w) (fMd w) (fTb w) (fTa w))
  | _ => .error .unassigned

/-- The codes of group G3 (R70); a code without a row is unassigned (R62). -/
def decodeG3 (w : BitVec 32) : Except Reject Instr :=
  match (fOp w).toNat with
  | 0x0C0 => .ok (.rcp (fPm w) (fMd w) (fTb w) (fTa w))
  | 0x0C1 => .ok (.rsq (fPm w) (fMd w) (fTb w) (fTa w))
  | 0x0C2 => .ok (.exp2 (fPm w) (fMd w) (fTb w) (fTa w))
  | 0x0C3 => .ok (.log2 (fPm w) (fMd w) (fTb w) (fTa w))
  | 0x0C4 => .ok (.sin (fPm w) (fMd w) (fTb w) (fTa w))
  | 0x0C5 => .ok (.cos (fPm w) (fMd w) (fTb w) (fTa w))
  | 0x0C6 => .ok (.tanh (fPm w) (fMd w) (fTb w) (fTa w))
  | 0x0C8 => .ok (.pack (fPm w) (fMd w) (fTb w) (fTa w))
  | 0x0C9 => .ok (.unpack (fPm w) (fMd w) (fTb w) (fTa w))
  | 0x0D0 => .ok (.mres (fPm w) (fMd w) (fTb w) (fTa w))
  | 0x0D1 => noTT w (zMd w (.mrel (fPm w)))
  | 0x0D2 => .ok (.mma (fPm w) (fMd w) (fTb w) (fTa w))
  | 0x0D3 => .ok (.mman (fPm w) (fMd w) (fTb w) (fTa w))
  | 0x0D4 => .ok (.mmanp (fPm w) (fMd w) (fTb w) (fTa w))
  | 0x0D5 => zMd w (.mzero (fPm w) (fTb w) (fTa w))
  | 0x0D6 => zMd w (.mcom (fPm w) (fTb w) (fTa w))
  | 0x0D7 => zMd w (.mwait (fPm w) (fTb w) (fTa w))
  | 0x0D8 => zMd w (.mprog (fPm w) (fTb w) (fTa w))
  | 0x0D9 => zMd w (.mstat (fPm w) (fTb w) (fTa w))
  | 0x0E0 => .ok (.recdef (fPm w) (fMd w) (fTb w) (fTa w))
  | 0x0E1 => zMd w (.recpin (fPm w) (fTb w) (fTa w))
  | 0x0E2 => zMd w (.recunpin (fPm w) (fTb w) (fTa w))
  | 0x0E3 => zMd w (.recdrop (fPm w) (fTb w) (fTa w))
  | 0x0E4 => noTT w (zMd w (.recdone (fPm w)))
  | 0x0E5 => zMd w (.recmat (fPm w) (fTb w) (fTa w))
  | _ => .error .unassigned

/-- The codes of group G4 (R71); a code without a row is unassigned (R62). -/
def decodeG4 (w : BitVec 32) : Except Reject Instr :=
  match (fOp w).toNat with
  | 0x100 => .ok (.bri (fPm w) (fOff21 w))
  | 0x101 => noTT w (zMd w (.br (fPm w)))
  | 0x102 => .ok (.calli (fPm w) (fImm w) (fT w))
  | 0x103 => zMd w (.call (fPm w) (fTb w) (fTa w))
  | 0x104 => noTT w (zMd w (.ret (fPm w)))
  | 0x105 => noTT w (zMd w (.exit (fPm w)))
  | 0x108 => noTT w (.ok (.binit (fPm w) (fMd w)))
  | 0x109 => .ok (.barv (fPm w) (fMd w) (fTb w) (fTa w))
  | 0x10A => noTT w (.ok (.bard (fPm w) (fMd w)))
  | 0x10B => .ok (.bwait (fPm w) (fMd w) (fTb w) (fTa w))
  | 0x10C => .ok (.bar (fPm w) (fMd w) (fTb w) (fTa w))
  | 0x10D => noTT w (.ok (.bexpect (fPm w) (fMd w)))
  | 0x110 => .ok (.launch (fPm w) (fMd w) (fTb w) (fTa w))
  | 0x111 => noTT w (zMd w (.trig (fPm w)))
  | 0x112 => zMd w (.depwait (fPm w) (fTb w) (fTa w))
  | 0x118 => .ok (.qput (fPm w) (fMd w) (fTb w) (fTa w))
  | 0x119 => .ok (.qtake (fPm w) (fMd w) (fTb w) (fTa w))
  | 0x11A => noTT w (zMd w (.qclose (fPm w)))
  | 0x11B => zMd w (.qstat (fPm w) (fTb w) (fTa w))
  | 0x11C => noTT w (zMd w (.qbind (fPm w)))
  | _ => .error .unassigned

/-- The codes of group G5 (R72); a code without a row is unassigned (R62). -/
def decodeG5 (w : BitVec 32) : Except Reject Instr :=
  match (fOp w).toNat with
  | 0x140 => .ok (.ld (fPm w) (fMos w) (fMdM w) (fOff4 w) (fT w))
  | 0x141 => .ok (.ldO (fPm w) (fMos w) (fMdM w) (fOff4 w) (fT w))
  | 0x142 => .ok (.lda32 (fPm w) (fMos w) (fMdM w) (fOff4 w) (fT w))
  | 0x143 => .ok (.lda64 (fPm w) (fMos w) (fMdM w) (fOff4 w) (fT w))
  | 0x144 => .ok (.lds (fPm w) (fMos w) (fMdM w) (fOff4 w) (fT w))
  | 0x145 => .ok (.ldsFe (fPm w) (fMos w) (fMdM w) (fOff4 w) (fT w))
  | 0x146 => .ok (.ldc (fPm w) (fMos w) (fMdM w) (fOff4 w) (fT w))
  | 0x147 => .ok (.ldt (fPm w) (fMos w) (fMdM w) (fOff4 w) (fT w))
  | 0x148 => zMdM w (.ldk (fPm w) (fMos w) (fOff4 w) (fT w))
  | 0x150 => .ok (.st (fPm w) (fMos w) (fMdM w) (fOff13 w))
  | 0x151 => .ok (.sts (fPm w) (fMos w) (fMdM w) (fOff13 w))
  | 0x152 => zMdM w (.stsFe (fPm w) (fMos w) (fOff13 w))
  | 0x153 => .ok (.stc (fPm w) (fMos w) (fMdM w) (fOff13 w))
  | 0x154 => .ok (.stt (fPm w) (fMos w) (fMdM w) (fOff13 w))
  | 0x155 => .ok (.strel32 (fPm w) (fMos w) (fMdM w) (fOff13 w))
  | 0x156 => .ok (.strel64 (fPm w) (fMos w) (fMdM w) (fOff13 w))
  | 0x160 => .ok (.atom32 (fPm w) (fMos w) (fMdM w) (fOff4 w) (fT w))
  | 0x161 => .ok (.atom64 (fPm w) (fMos w) (fMdM w) (fOff4 w) (fT w))
  | 0x162 => zMdM w (.atomf (fPm w) (fMos w) (fOff4 w) (fT w))
  | 0x163 => zMdM w (.cas32 (fPm w) (fMos w) (fOff4 w) (fT w))
  | 0x164 => zMdM w (.cas64 (fPm w) (fMos w) (fOff4 w) (fT w))
  | 0x165 => .ok (.atoms (fPm w) (fMos w) (fMdM w) (fOff4 w) (fT w))
  | 0x166 => .ok (.red32 (fPm w) (fMos w) (fMdM w) (fOff13 w))
  | 0x170 => zOff w (.fenceAcq (fPm w) (fMos w) (fMdM w))
  | 0x171 => zOff w (.fenceRel (fPm w) (fMos w) (fMdM w))
  | 0x172 => zOff w (.fenceAr (fPm w) (fMos w) (fMdM w))
  | 0x174 => .ok (.pref (fPm w) (fMos w) (fMdM w) (fOff13 w))
  | 0x175 => zMdM w (.resid (fPm w) (fMos w) (fOff13 w))
  | 0x176 => zMdM w (.disc (fPm w) (fMos w) (fOff13 w))
  | 0x177 => zMdM w (.clean (fPm w) (fMos w) (fOff13 w))
  | 0x178 => zMdM w (.ipref (fPm w) (fMos w) (fOff13 w))
  | 0x179 => zMd w (.iinv (fPm w) (fTb w) (fTa w))
  | 0x17A => noTT w (.ok (.cpy (fPm w) (fMd w)))
  | 0x17C => zMdM w (.feset (fPm w) (fMos w) (fOff13 w))
  | 0x17D => zMdM w (.feclr (fPm w) (fMos w) (fOff13 w))
  | _ => .error .unassigned

/-- The instruction of a slot word; `l0` and `l1` are the words that follow it, read as literals by `GENL` (R49).
Total: every word is an instruction or is rejected by name (R62, R73, R75). -/
def decodeWord (w l0 l1 : Insn) : Except Reject Instr :=
  if fK w = 0b110#3 then .ok (.gen (fImm20 w) (fT w))
  else if fK w = 0b111#3 then .ok (.genf (fImm20 w) (fT w))
  else
    match (fOp w).toNat / 64 with
    | 0 => decodeG0 w l0 l1
    | 1 => decodeG1 w
    | 2 => decodeG2 w
    | 3 => decodeG3 w
    | 4 => decodeG4 w
    | _ => decodeG5 w

/-- The instruction of a list of slot words, and the words after it (R49). -/
def decode : List Insn → Except Reject (Instr × List Insn)
  | [] => .error .zeroOpcode
  | w :: rest =>
    match decodeWord w (rest.headD 0) ((rest.drop 1).headD 0) with
    | .ok (.genl pm md tb ta l0 l1) => .ok (.genl pm md tb ta l0 l1, rest.drop (if md &&& 3#3 = 3#3 then 2 else 1))
    | .ok i => .ok (i, rest)
    | .error e => .error e

/-! ## What block decode needs of an opcode -/

/-- Formats of R46. -/
inductive Fmt where
  | G | I | M | S | B | K
  deriving DecidableEq, Repr

/-- The row of an opcode: format, class (true for U), operands taken, whether it has an output token, and whether
its slots count in NSINK (R63, R67 to R72). -/
structure OpRow where
  fmt : Fmt
  uni : Bool
  nops : Nat
  out : Bool
  sink : Bool
  deriving DecidableEq, Repr

/-- The rows of R67 to R72, by code; `none` for an unassigned code. -/
def opRow : Nat → Option OpRow
  | 0x001 => some ⟨.G, false, 1, true, false⟩
  | 0x002 => some ⟨.G, false, 0, true, false⟩
  | 0x003 => some ⟨.G, false, 2, true, false⟩
  | 0x004 => some ⟨.I, false, 0, true, false⟩
  | 0x005 => some ⟨.G, false, 0, true, false⟩
  | 0x006 => some ⟨.I, false, 0, true, false⟩
  | 0x007 => some ⟨.I, false, 1, false, false⟩
  | 0x008 => some ⟨.G, false, 2, true, false⟩
  | 0x009 => some ⟨.G, false, 1, true, false⟩
  | 0x00A => some ⟨.G, false, 1, true, false⟩
  | 0x00B => some ⟨.G, false, 1, true, false⟩
  | 0x00C => some ⟨.G, false, 0, true, false⟩
  | 0x010 => some ⟨.G, false, 0, false, false⟩
  | 0x011 => some ⟨.G, false, 0, false, false⟩
  | 0x012 => some ⟨.I, false, 0, false, false⟩
  | 0x013 => some ⟨.G, false, 1, false, false⟩
  | 0x040 => some ⟨.G, false, 2, true, false⟩
  | 0x041 => some ⟨.G, false, 2, true, false⟩
  | 0x042 => some ⟨.I, false, 1, true, false⟩
  | 0x043 => some ⟨.G, false, 2, true, false⟩
  | 0x044 => some ⟨.G, false, 2, true, false⟩
  | 0x045 => some ⟨.G, false, 3, true, false⟩
  | 0x046 => some ⟨.G, false, 2, true, false⟩
  | 0x047 => some ⟨.G, false, 2, true, false⟩
  | 0x048 => some ⟨.G, false, 2, true, false⟩
  | 0x049 => some ⟨.G, false, 2, true, false⟩
  | 0x04A => some ⟨.G, false, 1, true, false⟩
  | 0x04B => some ⟨.G, false, 1, true, false⟩
  | 0x04C => some ⟨.G, false, 2, true, false⟩
  | 0x04D => some ⟨.G, false, 2, true, false⟩
  | 0x04E => some ⟨.G, false, 2, true, false⟩
  | 0x04F => some ⟨.G, false, 2, true, false⟩
  | 0x050 => some ⟨.G, false, 1, true, false⟩
  | 0x051 => some ⟨.G, false, 2, true, false⟩
  | 0x052 => some ⟨.G, false, 2, true, false⟩
  | 0x053 => some ⟨.G, false, 2, true, false⟩
  | 0x054 => some ⟨.G, false, 2, true, false⟩
  | 0x055 => some ⟨.I, false, 1, true, false⟩
  | 0x056 => some ⟨.I, false, 1, true, false⟩
  | 0x057 => some ⟨.I, false, 1, true, false⟩
  | 0x058 => some ⟨.G, false, 2, true, false⟩
  | 0x059 => some ⟨.G, false, 3, true, false⟩
  | 0x05A => some ⟨.G, false, 1, true, false⟩
  | 0x05B => some ⟨.G, false, 1, true, false⟩
  | 0x05C => some ⟨.G, false, 1, true, false⟩
  | 0x05D => some ⟨.G, false, 1, true, false⟩
  | 0x05E => some ⟨.G, false, 3, true, false⟩
  | 0x060 => some ⟨.G, false, 2, true, false⟩
  | 0x061 => some ⟨.G, false, 2, true, false⟩
  | 0x062 => some ⟨.G, false, 2, true, false⟩
  | 0x063 => some ⟨.G, false, 2, true, false⟩
  | 0x064 => some ⟨.I, false, 1, true, false⟩
  | 0x065 => some ⟨.I, false, 1, true, false⟩
  | 0x066 => some ⟨.G, false, 2, true, false⟩
  | 0x068 => some ⟨.I, false, 1, true, false⟩
  | 0x069 => some ⟨.I, false, 1, true, false⟩
  | 0x06A => some ⟨.I, false, 1, true, false⟩
  | 0x06B => some ⟨.G, false, 1, true, false⟩
  | 0x06C => some ⟨.G, false, 1, true, false⟩
  | 0x06D => some ⟨.G, false, 3, true, false⟩
  | 0x080 => some ⟨.G, false, 2, true, false⟩
  | 0x081 => some ⟨.G, false, 2, true, false⟩
  | 0x082 => some ⟨.G, false, 2, true, false⟩
  | 0x083 => some ⟨.G, false, 3, true, false⟩
  | 0x084 => some ⟨.G, false, 2, true, false⟩
  | 0x085 => some ⟨.G, false, 1, true, false⟩
  | 0x086 => some ⟨.G, false, 2, true, false⟩
  | 0x087 => some ⟨.G, false, 2, true, false⟩
  | 0x088 => some ⟨.G, false, 1, true, false⟩
  | 0x089 => some ⟨.G, false, 1, true, false⟩
  | 0x08A => some ⟨.G, false, 2, true, false⟩
  | 0x08B => some ⟨.G, false, 1, true, false⟩
  | 0x08C => some ⟨.G, false, 1, true, false⟩
  | 0x08D => some ⟨.G, false, 2, true, false⟩
  | 0x090 => some ⟨.G, false, 2, true, false⟩
  | 0x091 => some ⟨.G, false, 2, true, false⟩
  | 0x092 => some ⟨.G, false, 2, true, false⟩
  | 0x093 => some ⟨.G, false, 3, true, false⟩
  | 0x094 => some ⟨.G, false, 2, true, false⟩
  | 0x095 => some ⟨.G, false, 1, true, false⟩
  | 0x096 => some ⟨.G, false, 2, true, false⟩
  | 0x097 => some ⟨.G, false, 2, true, false⟩
  | 0x0A0 => some ⟨.G, false, 2, true, false⟩
  | 0x0A1 => some ⟨.G, false, 2, true, false⟩
  | 0x0A2 => some ⟨.G, false, 2, true, false⟩
  | 0x0A3 => some ⟨.G, false, 3, true, false⟩
  | 0x0A4 => some ⟨.G, false, 2, true, false⟩
  | 0x0A8 => some ⟨.G, false, 2, true, false⟩
  | 0x0A9 => some ⟨.G, false, 2, true, false⟩
  | 0x0AA => some ⟨.G, false, 3, true, false⟩
  | 0x0AB => some ⟨.G, false, 2, true, false⟩
  | 0x0AC => some ⟨.G, false, 2, true, false⟩
  | 0x0AD => some ⟨.G, false, 3, true, false⟩
  | 0x0B0 => some ⟨.G, false, 1, true, false⟩
  | 0x0B1 => some ⟨.G, false, 1, true, false⟩
  | 0x0B2 => some ⟨.G, false, 1, true, false⟩
  | 0x0B3 => some ⟨.G, false, 1, true, false⟩
  | 0x0B4 => some ⟨.G, false, 1, true, false⟩
  | 0x0B5 => some ⟨.G, false, 1, true, false⟩
  | 0x0B8 => some ⟨.G, false, 1, true, false⟩
  | 0x0B9 => some ⟨.G, false, 1, true, false⟩
  | 0x0BA => some ⟨.G, false, 1, true, false⟩
  | 0x0BB => some ⟨.G, false, 1, true, false⟩
  | 0x0BC => some ⟨.G, false, 1, true, false⟩
  | 0x0BD => some ⟨.G, false, 1, true, false⟩
  | 0x0BE => some ⟨.G, false, 1, true, false⟩
  | 0x0BF => some ⟨.G, false, 1, true, false⟩
  | 0x0C0 => some ⟨.G, false, 1, true, false⟩
  | 0x0C1 => some ⟨.G, false, 1, true, false⟩
  | 0x0C2 => some ⟨.G, false, 1, true, false⟩
  | 0x0C3 => some ⟨.G, false, 1, true, false⟩
  | 0x0C4 => some ⟨.G, false, 1, true, false⟩
  | 0x0C5 => some ⟨.G, false, 1, true, false⟩
  | 0x0C6 => some ⟨.G, false, 1, true, false⟩
  | 0x0C8 => some ⟨.G, false, 2, true, false⟩
  | 0x0C9 => some ⟨.G, false, 2, true, false⟩
  | 0x0D0 => some ⟨.G, true, 0, true, false⟩
  | 0x0D1 => some ⟨.G, true, 1, false, false⟩
  | 0x0D2 => some ⟨.G, true, 2, true, false⟩
  | 0x0D3 => some ⟨.G, true, 3, true, false⟩
  | 0x0D4 => some ⟨.G, true, 3, true, false⟩
  | 0x0D5 => some ⟨.G, true, 1, true, false⟩
  | 0x0D6 => some ⟨.G, true, 1, true, false⟩
  | 0x0D7 => some ⟨.G, true, 1, true, false⟩
  | 0x0D8 => some ⟨.G, true, 0, true, false⟩
  | 0x0D9 => some ⟨.G, true, 0, true, false⟩
  | 0x0E0 => some ⟨.G, true, 2, true, false⟩
  | 0x0E1 => some ⟨.G, true, 1, true, false⟩
  | 0x0E2 => some ⟨.G, true, 1, true, false⟩
  | 0x0E3 => some ⟨.G, true, 1, true, false⟩
  | 0x0E4 => some ⟨.G, true, 1, false, false⟩
  | 0x0E5 => some ⟨.G, true, 1, true, false⟩
  | 0x100 => some ⟨.B, false, 0, false, false⟩
  | 0x101 => some ⟨.G, false, 1, false, false⟩
  | 0x102 => some ⟨.I, false, 0, true, false⟩
  | 0x103 => some ⟨.G, false, 1, true, false⟩
  | 0x104 => some ⟨.G, false, 1, false, false⟩
  | 0x105 => some ⟨.G, false, 0, false, false⟩
  | 0x108 => some ⟨.G, true, 2, false, false⟩
  | 0x109 => some ⟨.G, true, 1, true, false⟩
  | 0x10A => some ⟨.G, true, 1, false, false⟩
  | 0x10B => some ⟨.G, true, 2, true, false⟩
  | 0x10C => some ⟨.G, true, 1, true, false⟩
  | 0x10D => some ⟨.G, true, 2, false, false⟩
  | 0x110 => some ⟨.G, true, 1, true, false⟩
  | 0x111 => some ⟨.G, true, 0, false, false⟩
  | 0x112 => some ⟨.G, true, 0, true, false⟩
  | 0x118 => some ⟨.G, true, 2, true, false⟩
  | 0x119 => some ⟨.G, true, 2, true, false⟩
  | 0x11A => some ⟨.G, true, 1, false, false⟩
  | 0x11B => some ⟨.G, true, 1, true, false⟩
  | 0x11C => some ⟨.G, true, 2, false, false⟩
  | 0x140 => some ⟨.M, false, 1, true, false⟩
  | 0x141 => some ⟨.M, false, 1, true, false⟩
  | 0x142 => some ⟨.M, false, 1, true, false⟩
  | 0x143 => some ⟨.M, false, 1, true, false⟩
  | 0x144 => some ⟨.M, false, 1, true, false⟩
  | 0x145 => some ⟨.M, false, 1, true, false⟩
  | 0x146 => some ⟨.M, false, 1, true, false⟩
  | 0x147 => some ⟨.M, false, 1, true, false⟩
  | 0x148 => some ⟨.M, false, 1, true, false⟩
  | 0x150 => some ⟨.S, false, 2, false, true⟩
  | 0x151 => some ⟨.S, false, 2, false, true⟩
  | 0x152 => some ⟨.S, false, 2, false, true⟩
  | 0x153 => some ⟨.S, false, 2, false, true⟩
  | 0x154 => some ⟨.S, false, 2, false, true⟩
  | 0x155 => some ⟨.S, false, 2, false, true⟩
  | 0x156 => some ⟨.S, false, 2, false, true⟩
  | 0x160 => some ⟨.M, false, 2, true, true⟩
  | 0x161 => some ⟨.M, false, 2, true, true⟩
  | 0x162 => some ⟨.M, false, 2, true, true⟩
  | 0x163 => some ⟨.M, false, 3, true, true⟩
  | 0x164 => some ⟨.M, false, 3, true, true⟩
  | 0x165 => some ⟨.M, false, 2, true, true⟩
  | 0x166 => some ⟨.S, false, 2, false, true⟩
  | 0x170 => some ⟨.S, false, 0, false, false⟩
  | 0x171 => some ⟨.S, false, 0, false, false⟩
  | 0x172 => some ⟨.S, false, 0, false, false⟩
  | 0x174 => some ⟨.S, false, 1, false, false⟩
  | 0x175 => some ⟨.S, false, 2, false, false⟩
  | 0x176 => some ⟨.S, false, 2, false, true⟩
  | 0x177 => some ⟨.S, false, 2, false, true⟩
  | 0x178 => some ⟨.S, false, 2, false, false⟩
  | 0x179 => some ⟨.G, false, 2, true, false⟩
  | 0x17A => some ⟨.G, true, 3, false, false⟩
  | 0x17C => some ⟨.S, false, 2, false, true⟩
  | 0x17D => some ⟨.S, false, 2, false, true⟩
  | _ => none

/-- The format of a slot word: K where bits 31:30 are 11, else that of its code, G where it is unassigned (R45). -/
def fmtOf (w : Insn) : Fmt :=
  if w.extractLsb' 30 2 = 3 then .K
  else match opRow (fOp w).toNat with
    | some r => r.fmt
    | none => .G

/-- The target fields of a slot word, first target first (R46). -/
def targetsOf (w : Insn) : List (BitVec 9) :=
  match fmtOf w with
  | .G => [fTa w, fTb w]
  | .I | .M | .K => [fT w]
  | .S | .B => []

/-! ## Encoding -/

def gW (op : BitVec 9) (pm : BitVec 2) (md : BitVec 3) (tb ta : BitVec 9) : Insn := op ++ pm ++ md ++ tb ++ ta
def iW (op : BitVec 9) (pm : BitVec 2) (imm : BitVec 12) (t : BitVec 9) : Insn := op ++ pm ++ imm ++ t
def mW (op : BitVec 9) (pm : BitVec 2) (mos : BitVec 5) (md : BitVec 3) (off : BitVec 4) (t : BitVec 9) : Insn :=
  op ++ pm ++ mos ++ md ++ off ++ t
def sW (op : BitVec 9) (pm : BitVec 2) (mos : BitVec 5) (md : BitVec 3) (off : BitVec 13) : Insn :=
  op ++ pm ++ mos ++ md ++ off
def bW (op : BitVec 9) (pm : BitVec 2) (off : BitVec 21) : Insn := op ++ pm ++ off
def kW (k : BitVec 3) (imm : BitVec 20) (t : BitVec 9) : Insn := k ++ imm ++ t

/-- The words of an instruction, from the tables of R46 and R67 to R73; an event has none. -/
def encode : Instr → List Insn
  | .mov pm tb ta => [gW 0x001#9 pm 0 tb ta]
  | .void pm tb ta => [gW 0x002#9 pm 0 tb ta]
  | .pick pm tb ta => [gW 0x003#9 pm 0 tb ta]
  | .genk pm bank wd t => [iW 0x004#9 pm (bank ++ wd) t]
  | .genl pm md tb ta l0 l1 =>
    gW 0x005#9 pm md tb ta :: l0 :: (if md &&& 3#3 = 3#3 then [l1] else [])
  | .sreg pm imm t => [iW 0x006#9 pm imm t]
  | .swreg pm imm => [iW 0x007#9 pm imm 0x1FF#9]
  | .shfl pm md tb ta => [gW 0x008#9 pm md tb ta]
  | .vote pm md tb ta => [gW 0x009#9 pm md tb ta]
  | .redx pm md tb ta => [gW 0x00A#9 pm md tb ta]
  | .scanx pm md tb ta => [gW 0x00B#9 pm md tb ta]
  | .elect pm tb ta => [gW 0x00C#9 pm 0 tb ta]
  | .emret pm => [gW 0x010#9 pm 0 0x1FF#9 0x1FF#9]
  | .yield pm => [gW 0x011#9 pm 0 0x1FF#9 0x1FF#9]
  | .trap pm imm => [iW 0x012#9 pm imm 0x1FF#9]
  | .fresume pm => [gW 0x013#9 pm 0 0x1FF#9 0x1FF#9]
  | .gen imm t => [kW 0b110#3 imm t]
  | .genf imm t => [kW 0b111#3 imm t]
  | .add pm md tb ta => [gW 0x040#9 pm md tb ta]
  | .sub pm md tb ta => [gW 0x041#9 pm md tb ta]
  | .addi pm imm t => [iW 0x042#9 pm imm t]
  | .mul pm md tb ta => [gW 0x043#9 pm md tb ta]
  | .mulh pm md tb ta => [gW 0x044#9 pm md tb ta]
  | .mad pm md tb ta => [gW 0x045#9 pm md tb ta]
  | .div pm md tb ta => [gW 0x046#9 pm md tb ta]
  | .rem pm md tb ta => [gW 0x047#9 pm md tb ta]
  | .min pm md tb ta => [gW 0x048#9 pm md tb ta]
  | .max pm md tb ta => [gW 0x049#9 pm md tb ta]
  | .abs pm md tb ta => [gW 0x04A#9 pm md tb ta]
  | .neg pm md tb ta => [gW 0x04B#9 pm md tb ta]
  | .and pm md tb ta => [gW 0x04C#9 pm md tb ta]
  | .or pm md tb ta => [gW 0x04D#9 pm md tb ta]
  | .xor pm md tb ta => [gW 0x04E#9 pm md tb ta]
  | .andn pm md tb ta => [gW 0x04F#9 pm md tb ta]
  | .not pm md tb ta => [gW 0x050#9 pm md tb ta]
  | .shl pm md tb ta => [gW 0x051#9 pm md tb ta]
  | .shr pm md tb ta => [gW 0x052#9 pm md tb ta]
  | .sar pm md tb ta => [gW 0x053#9 pm md tb ta]
  | .rotl pm md tb ta => [gW 0x054#9 pm md tb ta]
  | .shli pm w64 cnt t => [iW 0x055#9 pm (0#5 ++ w64 ++ cnt) t]
  | .shri pm w64 cnt t => [iW 0x056#9 pm (0#5 ++ w64 ++ cnt) t]
  | .sari pm w64 cnt t => [iW 0x057#9 pm (0#5 ++ w64 ++ cnt) t]
  | .bfx pm md tb ta => [gW 0x058#9 pm md tb ta]
  | .bfi pm md tb ta => [gW 0x059#9 pm md tb ta]
  | .popc pm md tb ta => [gW 0x05A#9 pm md tb ta]
  | .clz pm md tb ta => [gW 0x05B#9 pm md tb ta]
  | .ctz pm md tb ta => [gW 0x05C#9 pm md tb ta]
  | .brev pm md tb ta => [gW 0x05D#9 pm md tb ta]
  | .sel pm tb ta => [gW 0x05E#9 pm 0 tb ta]
  | .cmpeq pm md tb ta => [gW 0x060#9 pm md tb ta]
  | .cmpne pm md tb ta => [gW 0x061#9 pm md tb ta]
  | .cmplt pm md tb ta => [gW 0x062#9 pm md tb ta]
  | .cmple pm md tb ta => [gW 0x063#9 pm md tb ta]
  | .cmpeqi pm imm t => [iW 0x064#9 pm imm t]
  | .cmplti pm imm t => [iW 0x065#9 pm imm t]
  | .lea pm md tb ta => [gW 0x066#9 pm md tb ta]
  | .andi pm imm t => [iW 0x068#9 pm imm t]
  | .ori pm imm t => [iW 0x069#9 pm imm t]
  | .xori pm imm t => [iW 0x06A#9 pm imm t]
  | .sext pm md tb ta => [gW 0x06B#9 pm md tb ta]
  | .zext pm md tb ta => [gW 0x06C#9 pm md tb ta]
  | .byteperm pm tb ta => [gW 0x06D#9 pm 0 tb ta]
  | .fadd pm md tb ta => [gW 0x080#9 pm md tb ta]
  | .fsub pm md tb ta => [gW 0x081#9 pm md tb ta]
  | .fmul pm md tb ta => [gW 0x082#9 pm md tb ta]
  | .ffma pm md tb ta => [gW 0x083#9 pm md tb ta]
  | .fdiv pm md tb ta => [gW 0x084#9 pm md tb ta]
  | .fsqrt pm md tb ta => [gW 0x085#9 pm md tb ta]
  | .fmin pm md tb ta => [gW 0x086#9 pm md tb ta]
  | .fmax pm md tb ta => [gW 0x087#9 pm md tb ta]
  | .fabs pm tb ta => [gW 0x088#9 pm 0 tb ta]
  | .fneg pm tb ta => [gW 0x089#9 pm 0 tb ta]
  | .fcmp pm md tb ta => [gW 0x08A#9 pm md tb ta]
  | .fclass pm tb ta => [gW 0x08B#9 pm 0 tb ta]
  | .frnd pm md tb ta => [gW 0x08C#9 pm md tb ta]
  | .fscale pm md tb ta => [gW 0x08D#9 pm md tb ta]
  | .dadd pm md tb ta => [gW 0x090#9 pm md tb ta]
  | .dsub pm md tb ta => [gW 0x091#9 pm md tb ta]
  | .dmul pm md tb ta => [gW 0x092#9 pm md tb ta]
  | .dfma pm md tb ta => [gW 0x093#9 pm md tb ta]
  | .ddiv pm md tb ta => [gW 0x094#9 pm md tb ta]
  | .dsqrt pm md tb ta => [gW 0x095#9 pm md tb ta]
  | .dcmp pm md tb ta => [gW 0x096#9 pm md tb ta]
  | .dminmax pm md tb ta => [gW 0x097#9 pm md tb ta]
  | .faddX2 pm md tb ta => [gW 0x0A0#9 pm md tb ta]
  | .fsubX2 pm md tb ta => [gW 0x0A1#9 pm md tb ta]
  | .fmulX2 pm md tb ta => [gW 0x0A2#9 pm md tb ta]
  | .ffmaX2 pm md tb ta => [gW 0x0A3#9 pm md tb ta]
  | .fdotX2 pm md tb ta => [gW 0x0A4#9 pm md tb ta]
  | .haddX4 pm md tb ta => [gW 0x0A8#9 pm md tb ta]
  | .hmulX4 pm md tb ta => [gW 0x0A9#9 pm md tb ta]
  | .hfmaX4 pm md tb ta => [gW 0x0AA#9 pm md tb ta]
  | .baddX4 pm md tb ta => [gW 0x0AB#9 pm md tb ta]
  | .bmulX4 pm md tb ta => [gW 0x0AC#9 pm md tb ta]
  | .bfmaX4 pm md tb ta => [gW 0x0AD#9 pm md tb ta]
  | .cvtF2i pm md tb ta => [gW 0x0B0#9 pm md tb ta]
  | .cvtI2f pm md tb ta => [gW 0x0B1#9 pm md tb ta]
  | .cvtF2f pm md tb ta => [gW 0x0B2#9 pm md tb ta]
  | .cvtI2i pm md tb ta => [gW 0x0B3#9 pm md tb ta]
  | .cvtH2f pm md tb ta => [gW 0x0B4#9 pm md tb ta]
  | .cvtF2d pm tb ta => [gW 0x0B5#9 pm 0 tb ta]
  | .cvtD2f pm md tb ta => [gW 0x0B5#9 pm (1#1 ++ md) tb ta]
  | .ncvtH pm md tb ta => [gW 0x0B8#9 pm md tb ta]
  | .ncvtB pm md tb ta => [gW 0x0B9#9 pm md tb ta]
  | .ncvtE4 pm md tb ta => [gW 0x0BA#9 pm md tb ta]
  | .ncvtE5 pm md tb ta => [gW 0x0BB#9 pm md tb ta]
  | .ncvtF4 pm md tb ta => [gW 0x0BC#9 pm md tb ta]
  | .ncvtSc pm md tb ta => [gW 0x0BD#9 pm md tb ta]
  | .ncvtI8 pm md tb ta => [gW 0x0BE#9 pm md tb ta]
  | .ncvtI4 pm md tb ta => [gW 0x0BF#9 pm md tb ta]
  | .rcp pm md tb ta => [gW 0x0C0#9 pm md tb ta]
  | .rsq pm md tb ta => [gW 0x0C1#9 pm md tb ta]
  | .exp2 pm md tb ta => [gW 0x0C2#9 pm md tb ta]
  | .log2 pm md tb ta => [gW 0x0C3#9 pm md tb ta]
  | .sin pm md tb ta => [gW 0x0C4#9 pm md tb ta]
  | .cos pm md tb ta => [gW 0x0C5#9 pm md tb ta]
  | .tanh pm md tb ta => [gW 0x0C6#9 pm md tb ta]
  | .pack pm md tb ta => [gW 0x0C8#9 pm md tb ta]
  | .unpack pm md tb ta => [gW 0x0C9#9 pm md tb ta]
  | .mres pm md tb ta => [gW 0x0D0#9 pm md tb ta]
  | .mrel pm => [gW 0x0D1#9 pm 0 0x1FF#9 0x1FF#9]
  | .mma pm md tb ta => [gW 0x0D2#9 pm md tb ta]
  | .mman pm md tb ta => [gW 0x0D3#9 pm md tb ta]
  | .mmanp pm md tb ta => [gW 0x0D4#9 pm md tb ta]
  | .mzero pm tb ta => [gW 0x0D5#9 pm 0 tb ta]
  | .mcom pm tb ta => [gW 0x0D6#9 pm 0 tb ta]
  | .mwait pm tb ta => [gW 0x0D7#9 pm 0 tb ta]
  | .mprog pm tb ta => [gW 0x0D8#9 pm 0 tb ta]
  | .mstat pm tb ta => [gW 0x0D9#9 pm 0 tb ta]
  | .recdef pm md tb ta => [gW 0x0E0#9 pm md tb ta]
  | .recpin pm tb ta => [gW 0x0E1#9 pm 0 tb ta]
  | .recunpin pm tb ta => [gW 0x0E2#9 pm 0 tb ta]
  | .recdrop pm tb ta => [gW 0x0E3#9 pm 0 tb ta]
  | .recdone pm => [gW 0x0E4#9 pm 0 0x1FF#9 0x1FF#9]
  | .recmat pm tb ta => [gW 0x0E5#9 pm 0 tb ta]
  | .bri pm off => [bW 0x100#9 pm off]
  | .br pm => [gW 0x101#9 pm 0 0x1FF#9 0x1FF#9]
  | .calli pm imm t => [iW 0x102#9 pm imm t]
  | .call pm tb ta => [gW 0x103#9 pm 0 tb ta]
  | .ret pm => [gW 0x104#9 pm 0 0x1FF#9 0x1FF#9]
  | .exit pm => [gW 0x105#9 pm 0 0x1FF#9 0x1FF#9]
  | .binit pm md => [gW 0x108#9 pm md 0x1FF#9 0x1FF#9]
  | .barv pm md tb ta => [gW 0x109#9 pm md tb ta]
  | .bard pm md => [gW 0x10A#9 pm md 0x1FF#9 0x1FF#9]
  | .bwait pm md tb ta => [gW 0x10B#9 pm md tb ta]
  | .bar pm md tb ta => [gW 0x10C#9 pm md tb ta]
  | .bexpect pm md => [gW 0x10D#9 pm md 0x1FF#9 0x1FF#9]
  | .launch pm md tb ta => [gW 0x110#9 pm md tb ta]
  | .trig pm => [gW 0x111#9 pm 0 0x1FF#9 0x1FF#9]
  | .depwait pm tb ta => [gW 0x112#9 pm 0 tb ta]
  | .qput pm md tb ta => [gW 0x118#9 pm md tb ta]
  | .qtake pm md tb ta => [gW 0x119#9 pm md tb ta]
  | .qclose pm => [gW 0x11A#9 pm 0 0x1FF#9 0x1FF#9]
  | .qstat pm tb ta => [gW 0x11B#9 pm 0 tb ta]
  | .qbind pm => [gW 0x11C#9 pm 0 0x1FF#9 0x1FF#9]
  | .ld pm mos md off t => [mW 0x140#9 pm mos md off t]
  | .ldO pm mos md off t => [mW 0x141#9 pm mos md off t]
  | .lda32 pm mos md off t => [mW 0x142#9 pm mos md off t]
  | .lda64 pm mos md off t => [mW 0x143#9 pm mos md off t]
  | .lds pm mos md off t => [mW 0x144#9 pm mos md off t]
  | .ldsFe pm mos md off t => [mW 0x145#9 pm mos md off t]
  | .ldc pm mos md off t => [mW 0x146#9 pm mos md off t]
  | .ldt pm mos md off t => [mW 0x147#9 pm mos md off t]
  | .ldk pm mos off t => [mW 0x148#9 pm mos 0 off t]
  | .st pm mos md off => [sW 0x150#9 pm mos md off]
  | .sts pm mos md off => [sW 0x151#9 pm mos md off]
  | .stsFe pm mos off => [sW 0x152#9 pm mos 0 off]
  | .stc pm mos md off => [sW 0x153#9 pm mos md off]
  | .stt pm mos md off => [sW 0x154#9 pm mos md off]
  | .strel32 pm mos md off => [sW 0x155#9 pm mos md off]
  | .strel64 pm mos md off => [sW 0x156#9 pm mos md off]
  | .atom32 pm mos md off t => [mW 0x160#9 pm mos md off t]
  | .atom64 pm mos md off t => [mW 0x161#9 pm mos md off t]
  | .atomf pm mos off t => [mW 0x162#9 pm mos 0 off t]
  | .cas32 pm mos off t => [mW 0x163#9 pm mos 0 off t]
  | .cas64 pm mos off t => [mW 0x164#9 pm mos 0 off t]
  | .atoms pm mos md off t => [mW 0x165#9 pm mos md off t]
  | .red32 pm mos md off => [sW 0x166#9 pm mos md off]
  | .fenceAcq pm mos md => [sW 0x170#9 pm mos md 0]
  | .fenceRel pm mos md => [sW 0x171#9 pm mos md 0]
  | .fenceAr pm mos md => [sW 0x172#9 pm mos md 0]
  | .pref pm mos md off => [sW 0x174#9 pm mos md off]
  | .resid pm mos off => [sW 0x175#9 pm mos 0 off]
  | .disc pm mos off => [sW 0x176#9 pm mos 0 off]
  | .clean pm mos off => [sW 0x177#9 pm mos 0 off]
  | .ipref pm mos off => [sW 0x178#9 pm mos 0 off]
  | .iinv pm tb ta => [gW 0x179#9 pm 0 tb ta]
  | .cpy pm md => [gW 0x17A#9 pm md 0x1FF#9 0x1FF#9]
  | .feset pm mos off => [sW 0x17C#9 pm mos 0 off]
  | .feclr pm mos off => [sW 0x17D#9 pm mos 0 off]
  | _ => []

/-- The decoder on words numbered as spec/opcode_table.json numbers them: the first slot word in bits 31:0, its
literal words from bit 32 up. -/
def decodeTableWord (nbits w : Nat) : Option Instr :=
  let v := w % 2 ^ nbits
  match decodeWord (BitVec.ofNat 32 v) (BitVec.ofNat 32 (v >>> 32)) (BitVec.ofNat 32 (v >>> 64)) with
  | .ok i => some i
  | .error _ => none

end Sys2Proof
end

