-- ==== Sys2Proof/Machine/Maps.lean ====
section
/-!
DEFINITION. Sys2Proof/Machine/Maps.lean: operations on keyed lists with strictly rising keys, on lane sets, and on
the bytes of a line.
-/
namespace Sys2Proof.Machine

/-! ## Keyed lists -/

/-- The value of key `k`, if it is listed. -/
def mget {α : Type} : NMap α → Nat → Option α
  | [], _ => none
  | (j, v) :: r, k => if j = k then some v else mget r k

/-- The value of key `k`, or `d` where it is not listed. -/
def mgetD {α : Type} (m : NMap α) (k : Nat) (d : α) : α := (mget m k).getD d

/-- Lists `v` under key `k`, in key order. -/
def mset {α : Type} : NMap α → Nat → α → NMap α
  | [], k, v => [(k, v)]
  | (j, w) :: r, k, v => if k < j then (k, v) :: (j, w) :: r else if k = j then (k, v) :: r else (j, w) :: mset r k v

/-- Removes key `k`. -/
def mdel {α : Type} (m : NMap α) (k : Nat) : NMap α := m.filter (fun p => p.1 != k)

/-- Lists `v` under `k`, or removes `k` where `v` is the value an unlisted key has. -/
def msetD {α : Type} [DecidableEq α] (m : NMap α) (k : Nat) (v d : α) : NMap α :=
  if v = d then mdel m k else mset m k v

/-- Changes the value of key `k` where it is listed. -/
def mupd {α : Type} (m : NMap α) (k : Nat) (f : α → α) : NMap α :=
  m.map (fun p => if p.1 = k then (p.1, f p.2) else p)

/-- Keys strictly rising. -/
def mwf {α : Type} : NMap α → Bool
  | [] => true
  | [_] => true
  | (a, _) :: (b, w) :: r => decide (a < b) && mwf ((b, w) :: r)

def mkeys {α : Type} (m : NMap α) : List Nat := m.map (·.1)
def mvals {α : Type} (m : NMap α) : List α := m.map (·.2)

/-! ## Sets of numbers, rising -/

def sadd : List Nat → Nat → List Nat
  | [], k => [k]
  | j :: r, k => if k < j then k :: j :: r else if k = j then j :: r else j :: sadd r k
def sdel (l : List Nat) (k : Nat) : List Nat := l.filter (· != k)

/-! ## Lanes -/

/-- The lanes of a set, lowest first. -/
def lanesOf (m : Lanes) : List Nat := (List.range 64).filter (fun l => m.getLsbD l)
def laneBit (l : Nat) : Lanes := 1#64 <<< l
def hasLane (m : Lanes) (l : Nat) : Bool := m.getLsbD l
/-- Lanes 0 to n - 1. -/
def lowLanes (n : Nat) : Lanes := if n ≥ 64 then BitVec.allOnes 64 else (1#64 <<< n) - 1
/-- The lowest lane of a set (R12); 0 for the empty set. -/
def leaderOf (m : Lanes) : Nat := (lanesOf m).headD 0
def laneCount (m : Lanes) : Nat := (lanesOf m).length

/-! ## Bytes of lines and words -/

/-- `n` bytes of a line from byte `o`, little-endian. -/
def lineBytes (l : Line) (o n : Nat) : Nat := (l.toNat >>> (8 * o)) % 2 ^ (8 * n)
def lineWord (l : Line) (o n : Nat) : Word := BitVec.ofNat 64 (lineBytes l o n)
def lineByte (l : Line) (o : Nat) : BitVec 8 := BitVec.ofNat 8 (lineBytes l o 1)

/-- The byte mask of `n` bytes from byte `o`. -/
def byteMask (o n : Nat) : BitVec 128 := BitVec.ofNat 128 ((2 ^ n - 1) <<< o)

/-- Each mask bit spread over its byte. -/
def spreadMask (m : BitVec 128) : Line :=
  BitVec.ofNat 1024 ((List.range 128).foldl (fun a k => if m.getLsbD k then a + (255 <<< (8 * k)) else a) 0)

/-- The bytes of `new` where `m` has a bit, those of `old` elsewhere. -/
def mergeLine (old new : Line) (m : BitVec 128) : Line :=
  let s := spreadMask m
  (old &&& ~~~s) ||| (new &&& s)

/-- The line with the value `v` at byte `o`. -/
def placeAt (v : Nat) (o : Nat) : Line := BitVec.ofNat 1024 (v <<< (8 * o))

/-- The sectors that a byte mask touches, and those it covers whole (R6, R360). -/
def sectTouched (m : BitVec 128) : BitVec 4 :=
  BitVec.ofNat 4 ((List.range 4).foldl (fun a k => if m.extractLsb' (32 * k) 32 = 0 then a else a + 2 ^ k) 0)
def sectCovered (m : BitVec 128) : BitVec 4 :=
  BitVec.ofNat 4 ((List.range 4).foldl (fun a k => if m.extractLsb' (32 * k) 32 = BitVec.allOnes 32 then a + 2 ^ k else a) 0)

/-- The low n bits of v, zero- or sign-extended to 64 bits (R103). -/
def zx (v : Word) (n : Nat) : Word := BitVec.ofNat 64 (v.toNat % 2 ^ n)
def sx (v : Word) (n : Nat) : Word :=
  let u := v.toNat % 2 ^ n
  if 2 * u < 2 ^ n then BitVec.ofNat 64 u else BitVec.ofNat 64 (u + (2 ^ 64 - 2 ^ n))
/-- The integer that the low n bits of v mean, signed. -/
def sint (v : Word) (n : Nat) : Int :=
  let u := v.toNat % 2 ^ n
  if 2 * u < 2 ^ n then (u : Int) else (u : Int) - 2 ^ n
/-- An integer reduced modulo 2^n (R103). -/
def wrapN (x : Int) (n : Nat) : Word := BitVec.ofInt 64 (x % 2 ^ n)
/-- Bits hi:lo of a word. -/
def fld (v : Word) (hi lo : Nat) : Nat := (v.toNat >>> lo) % 2 ^ (hi + 1 - lo)
def wbool (b : Bool) : Word := if b then 1 else 0
/-- A number as a 64-bit value. -/
def toWord (n : Nat) : Word := BitVec.ofNat 64 n

end Sys2Proof.Machine
end

