-- ==== Sys2Proof/Machine/Flags.lean ====
section
/-!
DEFINITION. Sys2Proof/Machine/Flags.lean: cause codes (R100) and scopes (R65, R253). Setre has no flag register: what
another set keeps in flags is a token here (R122, R140).
-/
namespace Sys2Proof.Machine

/-! ## Cause codes of R100 -/

def cBlockFormat : BitVec 8 := 0x01
def cIllegalTarget : BitVec 8 := 0x02
def cEmuUndef : BitVec 8 := 0x03
def cEmuDisabled : BitVec 8 := 0x04
def cEmuReserved : BitVec 8 := 0x05
def cEmuNest : BitVec 8 := 0x06
def cPageNotPresent : BitVec 8 := 0x10
def cPageProtection : BitVec 8 := 0x11
def cIfetchNotPresent : BitVec 8 := 0x12
def cIfetchProtection : BitVec 8 := 0x13
def cScratchRange : BitVec 8 := 0x14
def cTileRange : BitVec 8 := 0x15
def cAlignment : BitVec 8 := 0x16
def cMemoryPoison : BitVec 8 := 0x17
def cBarrierOverarrival : BitVec 8 := 0x20
def cBarrierBroken : BitVec 8 := 0x21
def cMatrixNotReserved : BitVec 8 := 0x22
def cMatrixPair : BitVec 8 := 0x23
def cQueueClosed : BitVec 8 := 0x24
def cRecipeFailed : BitVec 8 := 0x25
def cRecipeDiverged : BitVec 8 := 0x26
def cRecipeDepth : BitVec 8 := 0x27
def cRecipePinnedWrite : BitVec 8 := 0x28
def cConvertTrap : BitVec 8 := 0x31
def cSoftwareTrap : BitVec 8 := 0x32
def cGangPlacementTimeout : BitVec 8 := 0x38
def cContextFatal : BitVec 8 := 0x3F

/-- A poisoned sink's cause that goes to the fault queue; every other code goes to the trap handler (R100). -/
def sinkToFaultQueue (c : BitVec 8) : Bool := c == cPageNotPresent || c == cPageProtection

/-! ## Scopes: 0 none, 1 workgroup, 2 gang, 3 hall, 4 device, 5 domain, 6 system (R65) -/

def scopeValid (m : BitVec 3) : Bool := m != 0 && m != 7
/-- A scope wider than a hall: its releases wait for the home, its acquires read at the home (R305, R306). -/
def scopeDev (s : Nat) : Bool := decide (4 ≤ s)
/-- A scope whose acquire invalidates the core's L1 (R306). -/
def scopeL1 (s : Nat) : Bool := decide (2 ≤ s)

/-! ## Signs, zeros and comparisons as one-bit values -/

/-- A comparison's boolean token: 1 for true, 0 for false. -/
def boolTok (b : Bool) : Word := if b then 1 else 0

end Sys2Proof.Machine
end

