-- ==== Sys2Proof/Config.lean ====
section
/-!
DEFINITION. Sys2Proof/Config.lean: what the spec leaves open, as constants without a body (nothing can be proved of
their values), and the fixed sizes that the spec gives.
-/
namespace Sys2Proof.Config

/-! ## Free values -/

/-- Which of the enabled actions happens next, by the state's counter (log entry 2). -/
opaque pick : Nat → Nat
/-- Whether the stores of a committed block pause, by the state's counter and the number of stores left (R263, log entry 2). -/
opaque pause : Nat → Nat → Bool
/-- Which of a group's stores is performed next, by the state's counter and the number of stores left (R263, log entry 2). -/
opaque order : Nat → Nat → Nat
/-- The line of its page that a core may bring ahead of the loads that read it, by the state's counter (R96, R263, log entry 10). -/
opaque ahead : Nat → Nat
/-- Steps that pass, by the state's counter, before the next act of a round is performed (log entry 2). -/
opaque slack : Nat → Nat
/-- Nanoseconds that pass in one lapse of time, less one (log entry 2). -/
opaque elapsed : Nat → Nat
/-- Bytes of a line read from HBM under another key or key generation than it was written with (R318): reading key
and generation, writing key and generation, line number, stored bytes. -/
opaque mismatch : Nat → Nat → Nat → Nat → Nat → BitVec 1024 → BitVec 1024
/-- Whether a piece of an accepted copy goes through the translation that the page tables now give, and not the one found at its
acceptance (R222), by the state's counter and the piece's address. -/
opaque retranslated : Nat → Nat → Bool
/-- The 64-byte units of a save image, whose format is not for software to interpret (R92, R339). -/
opaque imageLine : Nat → Nat → BitVec 1024
/-- ML-DSA-65 signature by the key derived from a seed, over bytes (R368, R370). -/
opaque mldsaSign : BitVec 256 → List (BitVec 8) → List (BitVec 8)
/-- ML-DSA-65 public key derived from a seed (R369). -/
opaque mldsaPublic : BitVec 256 → List (BitVec 8)
/-- SHAKE256 digest of the public key that a firmware image comes with (R368). -/
opaque imageKeyDigest : List (BitVec 8) → BitVec 256
/-- Whether the public key that a firmware image comes with verifies the image's ML-DSA-65 signature (R368). -/
opaque imageSigned : List (BitVec 8) → Bool
/-- The security version of a firmware image (R368). -/
opaque imageSecver : List (BitVec 8) → BitVec 32
/-- The minimum security version to which a firmware image asks to raise the fuse, if it asks (R368). -/
opaque imageRaise : List (BitVec 8) → Option (BitVec 32)
/-- The certificate chain that binds the public key of a seed to the part (R369). -/
opaque identChain : BitVec 256 → List (BitVec 8)
/-- Fuse-map bytes that FUSEHASH covers are laid out as this constant function of the fused values (R370). -/
opaque fuseBytes : Nat → Nat → Nat → List Nat → List Nat → Bool → List (BitVec 8)
/-- What the hash of R304 orders the lines of an aligned 16 KiB by. -/
opaque sliceKey : Nat → Nat
/-- The set of a cache that a line belongs to, by the cache's kind: which lines share a set is open (R304, R309). -/
opaque setKey : Nat → Nat → Nat
/-- Which line of a full set makes room, by the state's counter (R304, R309). -/
opaque victim : Nat → Nat

/-! ## Sizes -/

def halls : Nat := 8
def clustersPerHall : Nat := 13
def coresPerCluster : Nat := 8
def cores : Nat := 832
def coreTlb : Nat := 64
def walkCache : Nat := 16384
def pins : Nat := 4096
def launchQueue : Nat := 256
def recorderSize : Nat := 4096
def pendingBuffer : Nat := 4096
/-- Sets and ways of the caches (R304, R309), in 128-byte lines: L1 and cluster instruction cache, hall cache, Gallery. -/
def l1Sets : Nat := 256
def hallSets : Nat := 16384
def galSets : Nat := 196608
def hallWays : Nat := 16
def l1Ways : Nat := 8
/-- Trackers of a module, of a port and of a core, and fill entries of a cluster (R5, R310, R313). -/
def moduleTrackers : Nat := 1536
def portTrackers : Nat := 1536
def coreTrackers : Nat := 768
def fillEntries : Nat := 320
/-- Walks that the Gallery runs at once, and pending pages of a hall and of the Gallery (R316). -/
def walkers : Nat := 512
def hallPages : Nat := 2048
def galPages : Nat := 16384
/-- Lines of stage-queue record storage (R308). -/
def queueLines : Nat := 131072

end Sys2Proof.Config
end

