-- ==== Sys2Proof/Machine/State.lean ====
section
/-!
DEFINITION. Sys2Proof/Machine/State.lean: the state of the Kreath module, as plain data. Every piece of state that
the spec gives the machine is a field here; INVENTORY.md lists each with its rule. Fields marked "model" are the
model's own (log entries 1 to 5).
-/
namespace Sys2Proof.Machine

/-! ## Tokens, blocks and frames -/

/-- A token in one lane (R77): a value, a null, or poison with its origin slot, cause code and detail (R78). -/
inductive Tok where
  | value (v : Word)
  | null
  | poison (slot : BitVec 6) (cause : BitVec 8) (detail : Word)
  deriving DecidableEq, Repr

/-- A decoded block (R34 to R38): its header fields, its read words and its slot words. -/
structure Block where
  addr : Word
  nread : Nat
  nslot : Nat
  landing : Bool
  acq : Bool
  specok : Bool
  relscope : Nat
  nsink : Nat
  pfBase : Nat
  pfLen : Nat
  wregs : List (BitVec 6)
  reads : List Insn
  slots : List Insn
  deriving DecidableEq, Repr

/-- A leaf translation: page base and size, physical base, key ID and permissions (R314, R316). -/
structure Xlat where
  ctx : Nat
  va : Nat
  size : Nat
  pa : Nat
  key : Nat
  r : Bool
  w : Bool
  x : Bool
  deriving DecidableEq, Repr

/-- The space an access reaches (R23, R28). `scratch` and `tile` name the workgroup whose memory it is. -/
inductive Space where
  | global | hallStore | scratch (wg : Nat) | tile (wg : Nat)
  deriving DecidableEq, Repr

/-- The buffered non-returning sinks of a frame (R84, R85). -/
inductive SinkKind where
  | store | storeFE | strel (scope : Nat) | disc | clean | feset | feclr
  deriving DecidableEq, Repr

/-- One buffered sink of one lane: where it writes, how many bytes, and the translations found when it fired (R85,
R397). `stale` marks one whose translation an invalidation covered while its frame was frozen (R397); `lost` has a bit for each byte that
another store of its block overwrites (R86). -/
structure Sink where
  slot : Nat
  lane : Nat
  mos : Nat
  kind : SinkKind
  space : Space
  addr : Nat
  size : Nat
  data : Word
  xl : List Xlat
  stale : Bool
  lost : BitVec 8
  deriving DecidableEq, Repr

/-- A branch output (R88, R168, R176). -/
inductive BOut where
  | succ (a : Word) | exit | ret
  deriving DecidableEq, Repr

/-- The home of a barrier object (R179): a place in scratch or a hall store, or a line of local memory. -/
inductive BHome where
  | space (sp : Space) (a : Nat)
  | gallery (pa key : Nat)
  deriving DecidableEq, Repr

/-- A wait of a slot that has fired and not yet delivered. -/
inductive Wait where
  | fe (lane : Nat) (wg addr : Nat) (keep : Bool) (order : Nat)
  /-- an `LDS.FE` that is the acquire of its block has read, and waits for the invalidations sent by then (R258, R306) -/
  | feDone (lane : Nat) (t : Tok) (dep core seen : Nat)
  /-- on the phase of a barrier object; `past` is the phase with which it has ended, and whether the object broke (R181, R183) -/
  | bar (scope : Nat) (a : Word) (phase : Nat) (home : BHome) (past : Option (Nat × Bool))
  | mwait (core rid upto value : Nat)
  | qtake (q n addr scope since : Nat)
  | dep
  | iinv (ranges : List (Nat × Nat)) (lanes : Lanes)
  | space
  /-- an access reads a record for the command, or carries it to its object -/
  | record
  deriving DecidableEq, Repr

/-- What the frame keeps of a vectored slot (R268, R269): its index, its cause, the lanes of `ow.mask`, and whether the
matrix drain of R269 is still pending. -/
structure Vec where
  slot : Nat
  cause : BitVec 8
  mask : Lanes
  drain : Bool
  deriving DecidableEq, Repr

/-- What a block's `SREG` slots read of the time when the block started (R129): the core, the dropped-hint counter and the
handler registers. -/
structure Start where
  core : Nat
  drophint : Word
  hregs : NMap Word
  deriving DecidableEq, Repr

/-- A block frame: one execution of one block by one path (R79 to R89). Tokens are keyed by
(port * 64 + slot) * 64 + lane, with ports 0 to 3 for operands a, b, c and p and port 4 for the declared write slots.
`deps` holds the model's stamps of R261 for the same keys. `samples` holds, by slot, what a slot that reads once for the whole warp
has read: the clocks of R19 and the bank words of R126. -/
structure Frame where
  fid : Nat
  blk : Block
  mask : Lanes
  toks : NMap Tok
  deps : NMap Nat
  done : NMap Lanes
  fired : NMap Lanes
  sinks : List Sink
  bouts : List (Nat × Nat × BOut)
  swr : List (Nat × Nat × Nat × Word)
  spois : List (Nat × Nat × Tok)
  fres : List (Nat × Word)
  yielded : Bool
  waits : List (Nat × Wait)
  vec : Option Vec
  start : Start
  samples : NMap Tok
  deriving DecidableEq, Repr

/-- One entry of a completion record (R87, R278): the slot, the lane (64 for a class U slot), and the tokens for its
first and second target, with the model's stamp of R261. `waiting` holds the phase a `BAR` arrived at while it still waits (R184). -/
structure RecE where
  slot : Nat
  lane : Nat
  t0 : Option Tok
  t1 : Option Tok
  waiting : Option Nat
  dep : Nat
  deriving DecidableEq, Repr

/-- The operand window of a handler level (R17, R20). Per-lane fields are keyed by lane. -/
structure Window where
  a : NMap Word
  b : NMap Word
  c : NMap Word
  p : NMap Word
  kind : NMap Word
  mask : Lanes
  insn : Insn
  lit : Word
  slot : Nat
  cause : BitVec 8
  depth : Nat
  block : Word
  info : Word
  d0 : NMap Word
  d1 : NMap Word
  dkind : NMap Word
  deriving DecidableEq, Repr

/-! ## Warps -/

/-- STATE of a path of a divergence record (R92). -/
inductive PState where
  | runnable | running | parked | exited
  deriving DecidableEq, Repr

/-- One path of a divergence record (R92). -/
structure Path where
  addr : Word
  mask : Lanes
  st : PState
  deriving DecidableEq, Repr

/-- A divergence record (R92), with the lanes that have returned from the level through it (R176). -/
structure DivRec where
  parent : Lanes
  paths : List Path
  deriving DecidableEq, Repr

/-- The kinds of level a warp runs at (R271, R101). -/
inductive LvlKind where
  | base | emu | trap
  deriving DecidableEq, Repr

/-- One level of a warp: the base level or a handler level. `returned` and `exited` are the lanes that have left
it (R176, R173); `rcd` is the completion record of its block (R87). -/
structure Level where
  kind : LvlKind
  pc : Word
  mask : Lanes
  returned : Lanes
  exited : Lanes
  div : List DivRec
  frame : Option Frame
  rcd : List RecE
  win : Window
  spilled : Bool
  hold : Bool
  deriving DecidableEq, Repr

/-- Modes of R31. -/
inductive Mode where
  | user | handler | supervisor
  deriving DecidableEq, Repr

/-- Buffered sinks and resumes of a committed block that wait for a release at `scope` of what came before them (R177, R197,
R207), with the block's address, level and mode. `acq` is the scope at which what follows is acquired then, behind a `FENCE.AR`, 0 for none. -/
structure StGroup where
  scope : Nat
  acq : Nat
  blk : Word
  level : Nat
  mode : Nat
  sinks : List Sink
  fres : List Word
  deriving DecidableEq, Repr

/-- Why a warp is not running. -/
inductive WStat where
  | ready
  /-- stands on the fault queue under a resume handle until `FRESUME` (R100, R337) -/
  | parked (handle : Word)
  /-- brought to its boundary by a save (R339) -/
  | saved
  deriving DecidableEq, Repr

/-- A cached line: the context that owns it (R318), its bytes, the valid sectors, the poisoned sectors, and the model's stamp of R261. -/
structure CLine where
  ctx : Nat
  data : Line
  valid : BitVec 4
  pois : BitVec 4
  stamp : Nat
  deriving DecidableEq, Repr

/-- What the fetch of a warp's next block, or the test of a successor's header, has come to (R290, R310): the bytes of code whose recipe lines are
dropped and wait for a slice, those whose slice has failed, with the cause, and the lines that a passing slice has given, by virtual line; the
physical lines on whose fill entries it waits, and those that they have given. -/
structure Fetching where
  waits : List Nat
  fails : List (Nat × BitVec 8)
  tiles : List (Nat × CLine)
  away : List Nat
  got : List (Nat × CLine)
  deriving DecidableEq, Repr

/-- A line that a warp has read for loads of blocks to come (R256, R263): its space, its number there, its bytes and valid sectors, and the
model's stamp of R261. -/
structure Early where
  space : Space
  line : Nat
  data : Line
  valid : BitVec 4
  stamp : Nat
  deriving DecidableEq, Repr

/-- A declared warp (R12): the innermost level comes first in `levels`. Registers are keyed by reg * 64 + lane. `stamp` is its age stamp,
`raised` the level it has been raised to and `raisedAt` when, `lastDispatch` the time since which its frame holds a ready slot and has
dispatched nothing (R329); `served` orders the block fetches of R330. `early` are the lines that it has read ahead; `floor` is the stamp that a cached line
must have for its loads once it has acquired at device scope (R264). -/
structure Warp where
  ctx : Nat
  wg : Nat
  idx : Nat
  width : Nat
  mode : Mode
  regs : NMap Word
  regDeps : NMap Nat
  hregs : NMap Word
  levels : List Level
  stat : WStat
  fetch : Fetching
  stq : List StGroup
  stamp : Nat
  raised : Nat
  raisedAt : Nat
  lastDispatch : Nat
  served : Nat
  shareHold : Bool
  shareUsed : Bool
  acqOwed : Nat
  early : List Early
  floor : Option Nat
  deriving DecidableEq, Repr

/-- An access in flight: a fired load, atomic or atomic-like slot of one lane that has not delivered yet. -/
inductive AStat where
  /-- parked on the walk of a page (R192) -/
  | walk (page : Nat)
  /-- parked on a recipe slice (R290) -/
  | recipe (idx : Nat)
  /-- the request is on the hall link under this tag (R345) -/
  | sent (hall tag : Nat)
  /-- translated, and waits for one of its core's trackers (R5, R313) -/
  | queued
  /-- the request left the package under this tag (R358) -/
  | outside (tag : Nat)
  /-- the data is back: value, poison mark -/
  | got (line : Line) (pois : Bool)
  deriving DecidableEq, Repr

/-- The barrier commands (R181): `arriveWait` is `BAR`, and `rewait` is one that has arrived already and waits again (R184). -/
inductive BCmd where
  | init | arrive | drop | wait | arriveWait | rewait | expect
  deriving DecidableEq, Repr

/-- The kinds of access in flight: a load of a size code of R66, an atomic, or a store that still waits for its
translation (R192, R397). -/
inductive AKind where
  | load (md : BitVec 3)
  | atomic (aop : BitVec 3) (w64 cas f32 red : Bool)
  | store (k : SinkKind)
  /-- the read of a record that a class U command names; `step` is 1 for the template that a binding record names, and `eng` says that
  the command is an engine's, for which the hall store window is ordinary memory (R28) -/
  | record (step : Nat) (eng : Bool)
  /-- a barrier command on a device-scope object, performed at the object's home (R179, R385) -/
  | barrier (cmd : BCmd)
  deriving DecidableEq, Repr

/-- One access in flight (R190 to R195, R202). `scope` is the scope at which a load acquires, 0 for none; `seen` is the
Gallery's invalidation stamp when its read was performed (R306). For a load of size x2 that straddles two lines, bit 0 of `c`
is 1 once its first half, in `b`, is read, and bit 1 says that it was poisoned (R191). -/
structure Access where
  wid : Nat
  fid : Nat
  slot : Nat
  lane : Nat
  mos : Nat
  kind : AKind
  scope : Nat
  va : Nat
  size : Nat
  b : Word
  c : Word
  xl : List Xlat
  stat : AStat
  seen : Nat
  deriving DecidableEq, Repr

/-! ## Work: contexts, grids, gangs and workgroups -/

/-- An entry of a recipe table (R284 to R286): the image's fields, the state the part keeps in CTL, one presence bit
per line (R289), the bytes of the present lines held by the Gallery or the frame, and their poisoned sectors (R360). `used` has, for each present
line that takes room in the Gallery, the time of its last use (R308); a framed line's frame holds it. -/
structure Recipe where
  tile : Nat
  size : Nat
  entry : Nat
  srcs : List (Option (Nat × Nat))
  param0 : Word
  param1 : Word
  crc : Word
  mat : Bool
  framed : Bool
  run : Bool
  depth : Nat
  pinned : Nat
  warps : Nat
  img : Rec64
  present : List Nat
  bytes : NMap Line
  pois : NMap (BitVec 4)
  used : NMap Nat
  deriving DecidableEq, Repr

/-- A slice of a recipe, queued or placed (R291 to R293), with its staging copy. -/
structure Slice where
  ctx : Nat
  idx : Nat
  band : Nat
  order : Nat
  hall : Nat
  cluster : Nat
  wgs : List Nat
  doneWids : List Nat
  staging : NMap Line
  placed : Bool
  deriving DecidableEq, Repr

/-- A stage graph of a context (R333, R334). `full` are the queues that refused a put in the interval, `refused` and
`accepted` the warps whose puts were refused or accepted in it. -/
structure Graph where
  interval : Nat
  report : Nat
  started : Nat
  progress : Bool
  quietTold : Bool
  full : List Nat
  refused : List Nat
  accepted : List Nat
  deriving DecidableEq, Repr

/-- A fault record waiting in the pending buffer, or being written (R335, R336). -/
structure FRec where
  ctx : Nat
  w0 : Word
  info : Word
  block : Word
  handle : Word
  deriving DecidableEq, Repr

/-- A context (R32). `stopRec` is the record of its stop while neither its ring nor the pending buffer has room (R335). -/
structure Ctx where
  cfg : CtxConfig
  keys : List Nat
  drophint : Word
  nextSeq : Nat
  recipes : NMap Recipe
  pins : List (Nat × Nat)
  graphs : NMap Graph
  stopped : Bool
  msixAt : Option Nat
  msixDue : Bool
  savedHalls : List Nat
  alcCbase : Nat
  alcBanks : BitVec 256
  spillUsed : Nat
  rr : Nat
  stopRec : Option FRec
  deriving DecidableEq, Repr

/-- The launch record of a grid, unpacked (R319). -/
structure LaunchRec where
  entry : Nat
  gx : Nat
  gy : Nat
  gz : Nat
  hstore : Nat
  scratch : Nat
  tiles : Nat
  prio : Nat
  halls : Nat
  gang : Nat
  pairpl : Bool
  width : Nat
  warps : Nat
  hsbase : Nat
  cbase : Nat
  banks : BitVec 256
  dep0 : Nat
  dep1 : Nat
  notify : Bool
  early : Bool
  caddr : Nat
  deriving DecidableEq, Repr

/-- How a grid came to be. -/
inductive GKind where
  | plain | stage (q : Nat) | slice (idx : Nat) | alcove
  deriving DecidableEq, Repr

/-- An accepted grid (R321, R324). `gangsLeft` counts gangs not yet handed to a hall. -/
structure Grid where
  ctx : Nat
  seq : Nat
  kind : GKind
  lr : LaunchRec
  acqScope : Nat
  eligible : Bool
  halls : List Nat
  handed : Nat
  placedGangs : Nat
  endedWgs : Nat
  triggered : List Nat
  storesAt : List Nat
  unbound : Bool
  deriving DecidableEq, Repr

/-- A gang (R9): pending, placed or saved. -/
inductive GangStat where
  | pending | placed | saved | ended
  deriving DecidableEq, Repr

/-- A gang handed to a hall (R324 to R326). `recs` holds the stage records of a stage workgroup (R247). -/
structure Gang where
  gid : Nat
  num : Nat
  hallIx : Nat
  hall : Nat
  cluster : Nat
  stat : GangStat
  since : Nat
  told : Bool
  resv : List Nat
  wgs : List Nat
  recs : List Rec64
  batch : Nat
  acqScope : Nat
  restoring : Bool
  deriving DecidableEq, Repr

/-- A workgroup's scratch and tile memory: 8-byte scratch words, full granules, poison marks; 4-byte tile elements
and their marks (R22, R24, R198, R360). -/
structure WgMem where
  words : NMap (BitVec 64)
  full : List Nat
  wpois : List Nat
  elems : NMap (BitVec 32)
  epois : List Nat
  deriving DecidableEq, Repr

/-- A workgroup (R8, R30). `core` is its core's gid, `base` the physical offset of its allocation (R300), `tile0` the
position of its tm0. -/
structure Wg where
  gang : Nat
  gid : Nat
  ctx : Nat
  num : Nat
  rank : Nat
  core : Nat
  base : Nat
  size : Nat
  tiles : Nat
  tile0 : Nat
  slots : Nat
  warps : List Nat
  mem : WgMem
  triggered : Bool
  ended : Bool
  saved : Bool
  alcove : Bool
  deriving DecidableEq, Repr

/-! ## Engines of a core -/

/-- An operation of a matrix queue (R228 to R232): `pair` is the follower workgroup of a pair operation; `scales` the four
scale bytes of each scale lane (R119); `kdone` K-steps of `ktot` are applied. -/
structure MOp where
  num : Nat
  zero : Bool
  fmt : Nat
  pair : Option Nat
  slave : Option Nat
  tile : Nat
  aAddr : Nat
  aStride : Nat
  bAddr : Nat
  bStride : Nat
  k : Nat
  scales : NMap Word
  kdone : Nat
  ktot : Nat
  order : Nat
  deriving DecidableEq, Repr

/-- A reservation of a core's matrix engine (R226, R234). `open` holds the closed batches not yet complete, oldest
first, as (batch, last operation order it holds); `held` names the warp whose vector holds the queue (R269); `slaved`
counts the pair operations that name a follower's context (R227, R236). -/
structure MRes where
  rid : Nat
  wg : Nat
  mode : Nat
  nextOp : Nat
  closed : Nat
  complete : Nat
  batches : List (Nat × Nat)
  ops : List MOp
  held : Option Nat
  releasing : Bool
  slaved : Nat
  deriving DecidableEq, Repr

/-- An accepted copy in a channel (R220 to R225): the fields of its command and shape word, its translations, and
the number of 32-byte beats done. `wait` is the recipe and line its next beat waits for, `failed` a line whose slice failed
(R290); `asked` are its requests that left the package, as tag and line, and `got` the lines that its requests brought for this beat;
`fixed` says that a save cut it, so that it keeps the translations found at its acceptance (R222); `dep` is the model's stamp of R261 of its
operands. -/
structure Copy where
  wid : Nat
  wg : Nat
  ctx : Nat
  dir : Nat
  src : Nat
  dst : Nat
  srcWg : Nat
  dstWg : Nat
  scope : Nat
  acq : Bool
  rel : Bool
  cmpl : Nat
  bar : Nat
  rows : Nat
  rowBytes : Nat
  sstr : Nat
  dstr : Nat
  srcX : List Xlat
  dstX : List Xlat
  beat : Nat
  wait : Option (Nat × Nat)
  failed : List Nat
  asked : List (Nat × Nat)
  got : List (Nat × Line × BitVec 4)
  fixed : Bool
  dep : Nat
  id : Nat
  deriving DecidableEq, Repr

/-- A decoded block in a core's L0 instruction buffer (R309, R382). -/
structure L0E where
  ctx : Nat
  blk : Block
  deriving DecidableEq, Repr

/-- A core (R4, R304, R309, R316, R331): its TLB, L1, L0, copy channels, matrix reservations, alcove buffer and alcove
warp, and the gang it is reserved for (R326). -/
structure Core where
  tlb : List Xlat
  l1 : NMap CLine
  l0 : List L0E
  chans : NMap Copy
  mres : List MRes
  alcBuf : List (Rec64 × Nat)
  alcWid : Option Nat
  resv : Option Nat
  clkBase : Nat
  clkSince : Nat
  deriving DecidableEq, Repr

/-- A fill entry of a cluster instruction cache (R310): the physical line, its key ID and context, whether its request is sent, and the line once
the hall has it. -/
structure Fill where
  ctx : Nat
  line : Nat
  key : Nat
  sent : Bool
  got : Option CLine
  deriving DecidableEq, Repr

/-- A cluster: its TLB, its instruction cache and the fill entries of it (R309 to R311). -/
structure Cluster where
  tlb : List Xlat
  ic : NMap CLine
  fills : List Fill
  deriving DecidableEq, Repr

/-! ## Hall links (R344 to R348, R390 to R392) -/

/-- A numbered flit: sequence number, transactions, and the acknowledgement or NAK in its header. -/
structure Flit where
  seq : Nat
  txns : List Txn
  ack : Option Nat
  nak : Option Nat
  deriving DecidableEq, Repr

/-- One direction of a module: transmitter and receiver. -/
structure Chan where
  waiting : List Txn
  nextSeq : Nat
  replay : List Flit
  flight : List Flit
  since : Nat
  expect : Nat
  ackOwed : Option Nat
  ackSince : Nat
  nakOwed : Option Nat
  acks : List Nat
  naks : List Nat
  accepted : List Txn
  deriving DecidableEq, Repr

/-- A UCIe module of a hall: width code of R354, the two directions, the times of its CRC failures, and whether it has
retrained at ×32. -/
structure Module where
  width : Nat
  up : Chan
  down : Chan
  crcTimes : List Nat
  again : Bool
  deriving DecidableEq, Repr

/-- A write of a hall on its way to the Gallery (R305): its tag, the warp or copy it is made for, and its bytes. -/
structure PendW where
  tag : Nat
  wid : Nat
  copy : Nat
  ctx : Nat
  pa : Nat
  data : Line
  mask : BitVec 128
  pois : BitVec 4
  va : Nat
  blk : Word
  slot : Nat
  lane : Nat
  level : Nat
  mode : Nat
  seq : Nat
  deriving DecidableEq, Repr

/-- Who a hall reads a line for, where it is no access of a warp: a copy, `PREF` (of a core, or of the hall alone), or a fill of a cluster's
instruction cache. -/
inductive ReadFor where
  | copy (id line : Nat) | pref (core : Option Nat) | code (cluster line : Nat)
  deriving DecidableEq, Repr

/-- Such a read on the hall link: its tag, its context, and the stamp of its performance (R306). -/
structure HRead where
  tag : Nat
  who : ReadFor
  ctx : Nat
  seen : Nat
  deriving DecidableEq, Repr

/-- A hall store of a grid on a hall (R28): its lines (zero where unlisted), and its poisoned sectors. -/
structure HStore where
  size : Nat
  lines : NMap Line
  pois : List Nat
  deriving DecidableEq, Repr

/-- A hall (R304, R306, R307, R316, R344, R354). `busy` counts, by module, the trackers of R313 that requests hold, and `held` are the requests
that wait for one. -/
structure Hall where
  fatal : Bool
  tlb : List Xlat
  cache : NMap CLine
  ic : NMap CLine
  stores : NMap HStore
  pend : List PendW
  reads : List HRead
  busy : NMap Nat
  held : List Txn
  nextTag : Nat
  mods : NMap Module
  replays : Nat
  retrains : Nat
  reserve : NMap Nat
  deriving DecidableEq, Repr

/-! ## The Gallery -/

/-- A line held by the Gallery (R304, R306, R318): owning context, bytes, dirtiness, key ID of the last write, halls holding copies,
poisoned sectors, its retention marks, each a grid with the mark's age (R209), and the time of its last use (R308). -/
structure GLine where
  ctx : Nat
  data : Line
  dirty : Bool
  key : Nat
  halls : List Nat
  pois : BitVec 4
  keep : List (Nat × Nat)
  used : Nat
  deriving DecidableEq, Repr

/-- How a line stands in HBM (R318, R360): the key ID and key generation it was written under (key 256: never written), and its
poisoned sectors. -/
structure HLine where
  key : Nat
  gen : Nat
  pois : BitVec 4
  deriving DecidableEq, Repr

/-- An item of a stage queue (R241, R248): a record with the scope of its put, the time it came and whether it came
through a put window, or a binding marker. -/
inductive QItem where
  | rcd (r : Rec64) (scope at_ : Nat) (host : Bool)
  | mark (b : Option Nat)
  deriving DecidableEq, Repr

/-- An accepted binding (R246). -/
structure Binding where
  gid : Nat
  batch : Nat
  linger : Nat
  maxwg : Nat
  deriving DecidableEq, Repr

/-- A stage queue (R241 to R248, R322, R323). -/
structure Queue where
  ctx : Nat
  role : QRole
  cap : Nat
  onDie : Nat
  closed : Bool
  spill : Bool
  items : List QItem
  bindings : NMap Binding
  bound : Option Nat
  nextMark : Nat
  batchSeq : Nat
  drops : Nat
  graph : Option Nat
  deriving DecidableEq, Repr

/-- A walk the Gallery is running or that waits to run, by context and 64 KiB virtual page (R316). -/
structure Walk where
  ctx : Nat
  page : Nat
  deriving DecidableEq, Repr

/-- An event of a recorder (R365). -/
structure REvent where
  time : Nat
  seq : Nat
  code : Nat
  ctx : Option Nat
  unit : Nat
  detail : Word
  deriving DecidableEq, Repr

/-- A recorder (R365): newest event first. -/
structure Recorder where
  nextSeq : Nat
  events : List REvent
  deriving DecidableEq, Repr

/-! ## HSL ports and the host port -/

/-- An HSL port (R354, R357): `busy` counts its trackers that requests hold (R5), `held` are the requests that wait for one, and `accepted`
the messages it has taken, with the order in which the package took them. -/
structure Port where
  lanes : Nat
  training : Bool
  busy : Nat
  held : List HMsg
  waiting : List HMsg
  nextSeq : Nat
  replay : List HFlit
  sent : List HFlit
  since : Nat
  expect : Nat
  ackOwed : Option Nat
  accepted : List (Nat × HMsg)
  deriving DecidableEq, Repr

/-- A request that left the package and has not been answered (R358): `pref` is the core whose L1 a prefetch names, `port` is the port whose tracker it holds, `since` when it was
delivered to the link beyond it. -/
structure ExtReq where
  host : Bool
  msg : HMsg
  aid : Option Nat
  copy : Nat
  hall : Nat
  wtag : Nat
  pref : Option Nat
  port : Nat
  since : Nat
  deriving DecidableEq, Repr

/-- A host-port answer or message the outside can see: an MSI-X message of a vector, with the address and data of its table entry (R352, R356),
the completion of a host read, or a back-invalidation of a line (R350). -/
inductive HostOut where
  | msix (vec : Nat) (addr : Word) (data : BitVec 32)
  | readDone (data : Nat)
  | writeDone
  | unsupported
  | lineRead (data : Line)
  | backInvalidate (line : Nat)
  deriving DecidableEq, Repr

/-- The mailbox (R355), with what a key command still waits for (R372): accesses, copies, and the writes and reads of halls (hall and tag);
`key` is its key ID. -/
structure Mailbox where
  busy : Bool
  performed : Bool
  result : Nat
  len : Nat
  cmd : Nat
  data : NMap (BitVec 8)
  accs : List Nat
  pends : List (Nat × Nat)
  copies : List Nat
  reads : List (Nat × Nat)
  remote : List Nat
  key : Option Nat
  deriving DecidableEq, Repr

/-- The translation-invalidation engine (R317): its registers, the address that the one under way began with, and the accesses and copies
that it waits for. -/
structure Xlinv where
  addr : Word
  base : Word
  ctl : Word
  busy : Bool
  accs : List Nat
  copies : List Nat
  deriving DecidableEq, Repr

/-- The context-switch engine (R338 to R340): registers, and the operation under way; `image` names the image that a restore loads. -/
structure Ctxsw where
  area : Word
  size : Word
  ctl : Word
  busy : Bool
  result : Nat
  ctx : Nat
  halls : List Nat
  since : Nat
  saving : Bool
  restoring : List Nat
  image : Nat
  deriving DecidableEq, Repr

/-- A save image (R339): what a save of a context on some halls holds; `copies` and `mres` name the workgroup, the old core and
the channel's or queue's content, `accs` the parked accesses of frozen frames. The bytes in the save area are the model's free
values (log entry 12): `lines` of them, from `base`. -/
structure Image where
  id : Nat
  base : Nat
  lines : Nat
  ctx : Nat
  halls : List Nat
  gangs : NMap Gang
  wgs : NMap Wg
  warps : NMap Warp
  accs : NMap Access
  copies : List (Nat × Nat × Copy)
  mres : List (Nat × Nat × MRes)
  stores : List (Nat × Nat × HStore)
  deriving DecidableEq, Repr

/-- The fuse map (R6, R25, R343, R353, R368, R369): never changed by any step. -/
structure Fuses where
  stepping : Nat
  noMezz : List Nat
  noPair : List Nat
  mmani4 : Bool
  secState : Nat
  seed : BitVec 256
  keyDigest : BitVec 256
  deriving DecidableEq, Repr

/-- Firmware and identity of the running part (R368 to R370). -/
structure Firmware where
  ok : Bool
  secMin : Nat
  hash : BitVec 256
  secver : Nat
  report : List (BitVec 8)
  deriving DecidableEq, Repr

/-- What the host driver does that no table row names (R32, R292, R324, R331, R333, R335, R337, R350, R358). -/
inductive HostAct where
  | permitKey (ctx key : Nat)
  | removeKey (ctx key : Nat)
  | setHandlers (ctx : Nat) (emu trap : Option Nat)
  | setRoot (ctx root : Nat)
  | setFaultQueue (ctx base log2 ctl : Nat)
  | setServicer (ctx : Nat) (sup : Option Nat)
  | setPatience (ctx patience ceiling : Nat)
  | setGraph (ctx graph interval report : Nat)
  | setReserve (cluster n : Nat)
  | assignAlcove (ctx : Option Nat)
  | setAlcoveBanks (ctx cbase : Nat) (banks : BitVec 256)
  | fresume (handle : Word)
  | readRegister (off : Nat)
  | readPutWindow (q off : Nat)
  | setTimeout (ns : Nat)
  | hostReply (tag : Nat) (data : Line) (pois : Bool)
  | trainCxl (on : Bool)
  | cxlSnoop (line : Nat) (inv : Bool)
  | setSensor (die mdeg mw : Nat)
  | setRoute (pkg : Nat) (ports : List Nat)
  | writeTable (i : Nat) (v : BitVec 32)
  deriving DecidableEq, Repr

/-- An input of the machine from outside, in the order it comes. -/
inductive Input where
  | event (i : Instr)
  | host (a : HostAct)
  deriving DecidableEq, Repr

/-- The slot the next step fires: a warp and a slot of its innermost frame (model, log entry 1). -/
structure Cursor where
  wid : Nat
  slot : Nat
  deriving DecidableEq, Repr

/-- A cached copy that a unit may drop at any time (model, log entry 10). -/
inductive Drop where
  | l1 (core line : Nat)
  | hallLine (hall line : Nat)
  | clusterIc (cluster line : Nat)
  | hallIc (hall line : Nat)
  | galIc (line : Nat)
  | l0 (core n : Nat)
  | coreTlb (core n : Nat)
  | clusterTlb (cluster n : Nat)
  | hallTlb (hall n : Nat)
  | walk (n : Nat)
  | early (wid n : Nat)
  deriving DecidableEq, Repr

/-- What a step may do where the cursor names no slot (model, log entry 2). -/
inductive Act where
  | fire (wid slot : Nat)
  | event (i : Instr)
  | input
  | drop (d : Drop)
  | lapse
  /-- a core brings a line of the page of its `n`-th translation ahead of the loads that read it (R96, R263) -/
  | ahead (core n line : Nat)
  /-- a warp reads a line ahead of the blocks whose loads read it (R256, R263) -/
  | early (wid n : Nat)
  /-- an HSL port resends what has not been acknowledged for 1 µs (R346, R357) -/
  | resend (port : Nat)
  deriving DecidableEq, Repr

/-- Why the machine stops. `moduleOff`: raised by every event, slot and step but power-on while the module has no
power (R374); safe, since nothing runs on a module without power. -/
inductive Fault where
  | moduleOff
  deriving DecidableEq, Repr

/-- Why a step gives no meaning. `notModelled`: an arm that has no meaning yet; safe. `noSlot`: `exec` was asked to
fire a slot while the cursor names no slot of a running frame; safe, for no run reaches it. `notEnabled`: `exec` was
asked to perform an event that cannot happen in the state; safe, since the event does not happen. -/
inductive Refusal where
  | notModelled (mnemonic : String)
  | noSlot
  | notEnabled (event : String)
  deriving DecidableEq, Repr

/-- The state of the module. -/
structure State where
  /-- device time in nanoseconds (R19) -/
  time : Nat
  /-- the fuse map (R6) -/
  fuses : Fuses
  /-- bytes of local HBM, strictly rising addresses, zero bytes unlisted (R312, log entry 6) -/
  mem : List Host.Cell
  /-- lines written to HBM in this step, not yet in `mem` (R312) -/
  hbmq : List (Nat × Line)
  /-- key and poison of each line in HBM -/
  hlines : NMap HLine
  /-- model: the slot the next step fires -/
  cur : Option Cursor
  /-- model: inputs from outside, oldest first -/
  inbox : List Input
  /-- model: counter of free values -/
  tick : Nat
  /-- model: the acts of this round that are still to be performed, in the order of R329 and R330 -/
  due : List Act
  /-- model: the steps that may still pass before the next of them -/
  slack : Nat
  /-- model: next fresh identifier -/
  nextId : Nat
  /-- model: the last stamp given to a Gallery write or a committed store (R261, R306) -/
  stamp : Nat
  powered : Bool
  fw : Firmware
  ctxs : NMap Ctx
  grids : NMap Grid
  gangs : NMap Gang
  wgs : NMap Wg
  warps : NMap Warp
  accs : NMap Access
  cores : NMap Core
  clusters : NMap Cluster
  halls : NMap Hall
  /-- Gallery lines, keyed by physical line number -/
  gal : NMap GLine
  /-- invalidations sent to halls and not yet applied: hall, line, stamp (R306) -/
  invs : List (Nat × Nat × Nat)
  /-- instruction prefetch buffers of the Gallery (R309) -/
  galIc : NMap CLine
  /-- walk cache: (context, level, index prefix) to entry (R316) -/
  walkCache : List (Nat × Nat × Nat × Word)
  walks : List Walk
  queues : NMap Queue
  /-- device-scope barrier objects that commands have acted on: physical address to key ID (R183) -/
  bars : NMap Nat
  slices : List Slice
  frecs : List FRec
  recorders : NMap Recorder
  ports : NMap Port
  /-- the ports that the routing tables give for a package; every port where none is listed (R357) -/
  routes : NMap (List Nat)
  ext : NMap ExtReq
  timeout : Nat
  out : List HostOut
  xlinv : Xlinv
  ctxsw : Ctxsw
  domain : Word
  mb : Mailbox
  msixTable : NMap (BitVec 32)
  msixPend : List Nat
  /-- key IDs that hold a key, with the key's generation (R371) -/
  keys : NMap Nat
  nextKeyGen : Nat
  images : List Image
  islands : NMap Nat
  sensors : NMap (Nat × Nat)
  throttled : List Nat
  powerLimit : Nat
  /-- the host port is trained as a CXL device (R350) -/
  cxl : Bool
  /-- the lines of local HBM that the host may hold copies of under CXL.mem (R350) -/
  hostHeld : List Nat
  /-- when the part last left reset (R19) -/
  resetAt : Nat
  alcCtx : Option Nat
  /-- corrected errors not yet recorded: recorder, unit, count, time of the last event (R366) -/
  corr : List (Nat × Nat × Nat × Nat)
  deriving DecidableEq, Repr

/-! ## The state right after reset -/

def Fuses.reset : Fuses :=
  { stepping := 0, noMezz := [], noPair := [], mmani4 := true, secState := 0, seed := 0, keyDigest := 0 }

def Firmware.reset : Firmware := { ok := true, secMin := 0, hash := 0, secver := 0, report := [] }

def Xlinv.reset : Xlinv := { addr := 0, base := 0, ctl := 0, busy := false, accs := [], copies := [] }

def Ctxsw.reset : Ctxsw :=
  { area := 0, size := 0, ctl := 0, busy := false, result := 0, ctx := 0, halls := [], since := 0, saving := false,
    restoring := [], image := 0 }

def Mailbox.reset : Mailbox :=
  { busy := false, performed := false, result := 0, len := 0, cmd := 0, data := [], accs := [], pends := [], copies := [], remote := [],
    reads := [], key := none }

/-- The machine right after power-on reset with good firmware: no context is live, every link is up, every register
of the control page is at its reset value (R317, R338, R353 to R355), key ID 0 holds its boot key (R371). -/
def State.reset : State :=
  { time := 0, fuses := Fuses.reset, mem := [], hbmq := [], hlines := [], cur := none, inbox := [], tick := 0, due := [], slack := 0, nextId := 1,
    stamp := 0, powered := true, fw := Firmware.reset, ctxs := [], grids := [], gangs := [], wgs := [], warps := [], accs := [],
    cores := [], clusters := [], halls := [], gal := [], invs := [], galIc := [], walkCache := [], walks := [], queues := [], bars := [],
    slices := [], frecs := [], recorders := [], ports := [], routes := [], ext := [], timeout := 10000000, out := [], xlinv := Xlinv.reset,
    ctxsw := Ctxsw.reset, domain := 0, mb := Mailbox.reset, msixTable := [], msixPend := [], keys := [(0, 0)],
    nextKeyGen := 1, images := [], islands := [], sensors := [], throttled := [], powerLimit := 2800, cxl := false,
    hostHeld := [], resetAt := 0,
    alcCtx := none, corr := [] }

end Sys2Proof.Machine
end

