-- ==== Sys2Proof/Machine/Links.lean ====
section
/-!
DEFINITION. Sys2Proof/Machine/Links.lean: hall-link modules: flits, acceptance in order, go-back-N, acknowledgements,
retraining and the moving of a module's traffic (R344 to R348, R390 to R392).
-/
namespace Sys2Proof.Machine

/-! ## Transactions as slots (R345) -/

def sectCount (s : BitVec 4) : Nat := ((List.range 4).filter (fun k => s.getLsbD k)).length

/-- TYPE codes of R345. -/
def txnCode : TxnType → Nat
  | .read => 1 | .write => 2 | .atomic => 3 | .readData => 4 | .writeAck => 5 | .atomicResult => 6
  | .invalidate => 7 | .invalidateAck => 8

/-- Slots of 16 bytes that a transaction takes: its header and its data slots. -/
def txnSlots (t : Txn) : Nat :=
  match t.type with
  | .write | .readData => 1 + 2 * sectCount t.sect
  | .atomic | .atomicResult => 2
  | _ => 1

/-- The header slot of R345. -/
def txnHeader (t : Txn) : BitVec 128 :=
  BitVec.ofNat 8 (txnCode t.type) ++ BitVec.ofNat 16 t.tag ++ BitVec.ofNat 6 t.ctx ++ t.sect ++ t.aop ++
    BitVec.ofBool t.a64 ++ BitVec.ofBool t.acas ++ BitVec.ofBool t.af32 ++ BitVec.ofNat 8 t.key ++ 0#28 ++
    BitVec.ofNat 52 t.pa

/-- The transactions, in order, that fit in `n` slots, and the rest. -/
def takeFit : List Txn → Nat → List Txn × List Txn
  | [], _ => ([], [])
  | t :: r, n => if txnSlots t ≤ n then (t :: (takeFit r (n - txnSlots t)).1, (takeFit r (n - txnSlots t)).2) else ([], t :: r)

/-! ## Channels and modules -/

def Chan.idle : Chan :=
  { waiting := [], nextSeq := 0, replay := [], flight := [], since := 0, expect := 0, ackOwed := none, ackSince := 0,
    nakOwed := none, acks := [], naks := [], accepted := [] }

/-- A module after link-up: ×64 (R354). -/
def Module.up0 : Module :=
  { width := 2, up := Chan.idle, down := Chan.idle, crcTimes := [], again := false }

def Module.chan (m : Module) (up : Bool) : Chan := if up then m.up else m.down
def Module.setChan (m : Module) (up : Bool) (c : Chan) : Module := if up then { m with up := c } else { m with down := c }

/-- A module that carries traffic: ×32 or ×64. -/
def Module.isUp (m : Module) : Bool := m.width == 1 || m.width == 2
/-- A module that is not down: traffic stays with it while it trains. -/
def Module.kept (m : Module) : Bool := m.width != 0

/-- Puts flits on the wires of a direction; the first one's header carries the acknowledgement and the NAK that are owed for the other
direction (R391). -/
def Module.fly (m : Module) (up : Bool) (fs : List Flit) : Module :=
  match fs with
  | [] => m
  | f :: r =>
    let c := m.chan up
    let o := m.chan (!up)
    (m.setChan up { c with flight := c.flight ++ { f with ack := o.ackOwed, nak := o.nakOwed } :: r }).setChan (!up) { o with ackOwed := none, nakOwed := none }

/-- Sends one flit if transactions wait, the replay buffer has room and the module is up (R346, R390). -/
def Module.pump1 (m : Module) (up : Bool) (now : Nat) : Module :=
  let c := m.chan up
  if m.isUp && !c.waiting.isEmpty && c.replay.length < 64 then
    let p := takeFit c.waiting 15
    let f : Flit := { seq := c.nextSeq, txns := p.1, ack := none, nak := none }
    (m.setChan up { c with waiting := p.2, nextSeq := (c.nextSeq + 1) % 1024, replay := c.replay ++ [f],
                           since := if c.replay.isEmpty then now else c.since }).fly up [f]
  else m

/-- Sends flits until nothing more can go. -/
def Module.pump (m : Module) (up : Bool) (now : Nat) : Module :=
  (List.range (m.chan up).waiting.length).foldl (fun m _ => m.pump1 up now) m

/-- Puts a transaction behind those waiting, and sends what can go. -/
def Module.send (m : Module) (up : Bool) (t : Txn) (now : Nat) : Module :=
  let c := m.chan up
  (m.setChan up { c with waiting := c.waiting ++ [t] }).pump up now

/-- `a - b` modulo 2^10 (R391). -/
def seqDiff (a b : Nat) : Nat := (a + 1024 - b % 1024) % 1024

/-- Frees the flits up to and including sequence number `n` (R346). -/
def Chan.ack (c : Chan) (n now : Nat) : Chan :=
  let r := c.replay.filter (fun f => decide (seqDiff f.seq n ≥ 1 ∧ seqDiff f.seq n ≤ 512))
  { c with replay := r, since := if r.length = c.replay.length then c.since else now }

/-- Resends every unacknowledged flit from sequence number `n` on (go-back-N). -/
def Module.resend (m : Module) (up : Bool) (n now : Nat) : Module :=
  let c := m.chan up
  (m.setChan up { c with since := now }).fly up (c.replay.filter (fun f => decide (seqDiff f.seq n ≤ 512)))

/-- A flit that carries no transaction takes no number and is never replayed (R390, R391). -/
def Flit.isControl (f : Flit) : Bool := f.txns.isEmpty

/-- Since when the receiver owes a control flit's content: the oldest of an acknowledgement and a NAK (R391). -/
def Chan.owedSince (c : Chan) (now : Nat) : Nat := if c.ackOwed.isSome || c.nakOwed.isSome then c.ackSince else now

/-- What a receiver does with a flit of good CRC (R346, R391): accepts the expected number; acknowledges a duplicate
again; discards any other. -/
def Chan.accept (c : Chan) (f : Flit) (now : Nat) : Chan :=
  if f.seq = c.expect then
    { c with expect := (c.expect + 1) % 1024, ackOwed := some f.seq, ackSince := c.owedSince now, accepted := c.accepted ++ f.txns }
  else if seqDiff c.expect f.seq ≤ 64 then
    { c with ackOwed := some ((c.expect + 1023) % 1024), ackSince := c.owedSince now }
  else c

/-- The acknowledgements that the receiver has passed to its transmitter are taken (R346). -/
def Chan.takeAcks (c : Chan) (now : Nat) : Chan := c.acks.foldl (fun (c : Chan) n => c.ack n now) { c with acks := [] }

/-- Starts retraining: flits in flight are lost; replay buffers, expected numbers and received acknowledgements are kept (R347, R391). -/
def Module.retrain (m : Module) : Module :=
  { m with width := 3, up := { m.up with flight := [], naks := [] }, down := { m.down with flight := [], naks := [] },
           crcTimes := [], again := m.width == 1 }
/-- The module runs at ×32; each transmitter takes the acknowledgements that had come, resends from its oldest unacknowledged flit, then
sends on (R347, R391). -/
def Module.retrained (m : Module) (now : Nat) : Module :=
  let u := m.up.takeAcks now
  let d := m.down.takeAcks now
  ((((({ m with width := 1, up := { u with since := now }, down := { d with since := now } } : Module).fly true u.replay).fly false
    d.replay).pump true now).pump false now)

/-- What the retraining condition does: ×64 retrains; ×32 retrains once; after that the module goes down (R347). -/
inductive Degrade where
  | retrain | down
  deriving DecidableEq, Repr

def Module.degrade (m : Module) : Degrade := if m.width == 1 && m.again then .down else .retrain

/-- The flits of a channel that the receiver has not accepted: those that go to another module when this one goes
down. -/
def Chan.unaccepted (c : Chan) : List Txn :=
  ((c.replay.filter (fun f => decide (seqDiff f.seq c.expect ≤ 512))).map (·.txns)).flatten ++ c.waiting

def Hall.mod (h : Hall) (m : Nat) : Module := mgetD h.mods m Module.up0
def Hall.setMod (h : Hall) (m : Nat) (x : Module) : Hall := { h with mods := mset h.mods m x }

/-- The module that carries module `m`'s slices: `m` itself, or the next one that is not down (R347). -/
def Hall.route (h : Hall) (m : Nat) : Option Nat :=
  ((List.range 12).map (fun i => (m + i) % 12)).find? (fun i => (h.mod i).kept)

/-- The home slice of a physical line (R304): the lines of an aligned 16 KiB lie one in each of the 128 slices, by the rank that the hash
gives each among them. -/
def homeSlice (ln : Nat) : Nat :=
  let k := Config.sliceKey ln
  ((List.range 128).filter (fun i => let j := ln / 128 * 128 + i
    decide (Config.sliceKey j < k) || (decide (Config.sliceKey j = k) && decide (j < ln)))).length

/-- The module of a physical line: its home slice modulo 12 (R346). -/
def moduleOfLine (ln : Nat) : Nat := homeSlice ln % 12

/-- Sends a transaction of line `ln` in one direction. -/
def Hall.send (h : Hall) (up : Bool) (ln : Nat) (t : Txn) (now : Nat) : Hall :=
  if h.fatal then h
  else match h.route (moduleOfLine ln) with
    | some m => h.setMod m ((h.mod m).send up t now)
    | none => h

/-- A hall's request takes a tracker of its line's module, or waits behind those that wait for one (R313). -/
def Hall.request (h : Hall) (ln : Nat) (t : Txn) (now : Nat) : Hall :=
  let m := moduleOfLine ln
  if mgetD h.busy m 0 < Config.moduleTrackers ∧ h.held.all (fun u => moduleOfLine (u.pa / 128) != m) = true then
    ({ h with busy := mset h.busy m (mgetD h.busy m 0 + 1) } : Hall).send true ln t now
  else { h with held := h.held ++ [t] }

/-- The answer to a request of line `ln` frees its tracker, which the oldest request that waits for one takes. -/
def Hall.answered (h : Hall) (ln now : Nat) : Hall :=
  let m := moduleOfLine ln
  match h.held.find? (fun u => moduleOfLine (u.pa / 128) == m) with
  | some u => ({ h with held := h.held.erase u } : Hall).send true (u.pa / 128) u now
  | none => { h with busy := mset h.busy m (mgetD h.busy m 0 - 1) }

/-- The module that now carries a line works. -/
def Hall.lineUp (h : Hall) (ln : Nat) : Bool :=
  !h.fatal && (match h.route (moduleOfLine ln) with
    | some m => (h.mod m).isUp
    | none => false)

/-- Takes module `m` down: its unaccepted transactions go ahead of any new traffic on the module that carries its
slices from now on; what it has delivered stays delivered, and is performed before what that module delivers (R347, R348). -/
def Hall.takeDown (h : Hall) (m now : Nat) : Hall :=
  let x := h.mod m
  let h1 := h.setMod m { x with width := 0, up := Chan.idle, down := Chan.idle }
  match h1.route m with
  | none => h.setMod m { x with width := 0, up := { Chan.idle with accepted := x.up.accepted }, down := { Chan.idle with accepted := x.down.accepted } }
  | some n =>
    let join (c d : Chan) : Chan := { d with waiting := c.unaccepted ++ d.waiting, accepted := c.accepted ++ d.accepted }
    let y := h1.mod n
    let y1 := { y with up := join x.up y.up, down := join x.down y.down }
    h1.setMod n ((y1.pump true now).pump false now)

/-- Every module of the hall is down (R347). -/
def Hall.allDown (h : Hall) : Bool := (List.range 12).all (fun m => !(h.mod m).kept)

/-- WIDTH of HLINKn (R354). -/
def Hall.widthBits (h : Hall) : Nat := (List.range 12).foldl (fun a m => a + (h.mod m).width * 4 ^ m) 0

/-- HLINKn (R354). -/
def Hall.hlink (h : Hall) : Word :=
  BitVec.ofNat 64 (h.retrains * 2 ^ 56 + h.replays * 2 ^ 32 + h.widthBits)

end Sys2Proof.Machine
end

