-- ==== Sys2Proof/Machine/Gallery.lean ====
section
/-!
DEFINITION. Sys2Proof/Machine/Gallery.lean: HBM bytes, Gallery lines, the hall caches in front of them, and writes on
their way (R304 to R308, R312, R318, R349, R360).
-/
namespace Sys2Proof.Machine

/-! ## HBM bytes -/

/-- The byte at `a`; zero where unlisted (log entry 6). -/
def memGet : List Host.Cell → Nat → BitVec 8
  | [], _ => 0
  | (j, v) :: r, a => if j = a then v else memGet r a

/-- Canonical form: addresses strictly rising, no zero byte listed. -/
def Memory.wf : List Host.Cell → Bool
  | [] => true
  | [(_, v)] => v != 0
  | (a, v) :: (b, w) :: r => decide (a < b) && v != 0 && Memory.wf ((b, w) :: r)

/-- The nonzero bytes of a line, as cells from address `a`. -/
def lineCells (l : Line) (a : Nat) : Nat → List Host.Cell
  | 0 => []
  | n + 1 => if lineByte l (127 - n) = 0 then lineCells l (a + 1) n else (a, lineByte l (127 - n)) :: lineCells l (a + 1) n

/-- Writes line number `ln` whole (R312). -/
def memSetLine (m : List Host.Cell) (ln : Nat) (l : Line) : List Host.Cell :=
  m.filter (fun c => decide (c.1 < 128 * ln)) ++ lineCells l (128 * ln) 128 ++
    m.filter (fun c => decide (128 * ln + 128 ≤ c.1))

/-- Reads line number `ln` whole. -/
def memLine (m : List Host.Cell) (ln : Nat) : Line :=
  (m.filter (fun c => c.1 / 128 = ln)).foldl (fun a c => a ||| placeAt c.2.toNat (c.1 % 128)) 0

/-- The lines written in a step reach HBM at its end, in order. -/
def drain (m : List Host.Cell) (q : List (Nat × Line)) : List Host.Cell := q.foldl (fun m p => memSetLine m p.1 p.2) m

def State.hbmLine (s : State) (ln : Nat) : Line :=
  match (s.hbmq.filter (fun p => p.1 == ln)).getLast? with
  | some p => p.2
  | none => memLine s.mem ln

/-- The generation of the key that a key ID holds (R371, R372). -/
def State.keyGen (s : State) (k : Nat) : Nat := mgetD s.keys k 0
/-- The key ID holds a key (R371). -/
def State.keyHeld (s : State) (k : Nat) : Bool := (mget s.keys k).isSome

/-- A line read from HBM under a key ID, with its poisoned sectors (R318, R360). -/
def State.hbmRead (s : State) (ln key : Nat) : Line × BitVec 4 :=
  match mget s.hlines ln with
  | none => (s.hbmLine ln, 0)
  | some h =>
    if h.key = 256 ∨ (h.key = key ∧ h.gen = s.keyGen key) then (s.hbmLine ln, h.pois)
    else (Config.mismatch key (s.keyGen key) h.key h.gen ln (s.hbmLine ln), h.pois)

/-- Writes a line to HBM under a key ID (R318). -/
def State.hbmWrite (s : State) (ln key : Nat) (l : Line) (pois : BitVec 4) : State :=
  { s with hbmq := s.hbmq ++ [(ln, l)], hlines := mset s.hlines ln { key := key, gen := s.keyGen key, pois := pois } }

/-! ## Recorders (R365) -/

def Recorder.empty : Recorder := { nextSeq := 0, events := [] }

/-- Recorder `r` (0 to 7 a hall's, 8 the Gallery's) notes an event, keeping the last 4,096. -/
def State.note (s : State) (r code : Nat) (ctx : Option Nat) (unit : Nat) (detail : Word) : State :=
  let x := mgetD s.recorders r Recorder.empty
  let e : REvent := { time := s.time, seq := x.nextSeq, code := code, ctx := ctx, unit := unit, detail := detail }
  { s with recorders := mset s.recorders r { nextSeq := x.nextSeq + 1, events := (e :: x.events).take Config.recorderSize } }
/-- UNIT of an event of a Gallery line: its slice. -/
def lineUnit (ln : Nat) : Nat := homeSlice ln
/-- A mark that is new on a sector of a line is recorded (R366). -/
def State.noteMarks (s : State) (ctx : Option Nat) (ln : Nat) (old new : BitVec 4) : State :=
  ((List.range 4).filter (fun k => new.getLsbD k && !old.getLsbD k)).foldl
    (fun (s : State) k => s.note 8 0x0002 ctx (lineUnit ln) (toWord (128 * ln + 32 * k))) s

/-! ## Units with defaults -/

def Core.idle : Core :=
  { tlb := [], l1 := [], l0 := [], chans := [], mres := [], alcBuf := [], alcWid := none, resv := none, clkBase := 0,
    clkSince := 0 }
def Cluster.idle : Cluster := { tlb := [], ic := [], fills := [] }
def Hall.idle : Hall :=
  { fatal := false, tlb := [], cache := [], ic := [], stores := [], pend := [], reads := [], busy := [], held := [], nextTag := 0, mods := [],
    replays := 0, retrains := 0, reserve := [] }

def State.core (s : State) (c : Nat) : Core := mgetD s.cores c Core.idle
def State.setCore (s : State) (c : Nat) (x : Core) : State := { s with cores := mset s.cores c x }
def State.cluster (s : State) (c : Nat) : Cluster := mgetD s.clusters c Cluster.idle
def State.setCluster (s : State) (c : Nat) (x : Cluster) : State := { s with clusters := mset s.clusters c x }
def State.hall (s : State) (h : Nat) : Hall := mgetD s.halls h Hall.idle
def State.setHall (s : State) (h : Nat) (x : Hall) : State := { s with halls := mset s.halls h x }
def State.updCore (s : State) (c : Nat) (f : Core → Core) : State := s.setCore c (f (s.core c))
def State.updHall (s : State) (h : Nat) (f : Hall → Hall) : State := s.setHall h (f (s.hall h))
def State.updCluster (s : State) (c : Nat) (f : Cluster → Cluster) : State := s.setCluster c (f (s.cluster c))

/-- Core gid to hall, cluster number in the part, cluster in the hall and core in the cluster (R17). -/
def hallOfCore (c : Nat) : Nat := c / 104
def clusterOfCore (c : Nat) : Nat := c / 8

/-! ## Physical addresses (R349) -/

inductive PKind where
  | dev (pa : Nat) | host (off : Nat) | remote (pkg off : Nat) | bad
  deriving DecidableEq, Repr

def localBytes : Nat := 0x900000_0000

def State.physKind (s : State) (pa : Nat) : PKind :=
  if pa < localBytes then .dev pa
  else if 0x4_0000_0000_0000 ≤ pa ∧ pa < 0x8_0000_0000_0000 then .host (pa - 0x4_0000_0000_0000)
  else if 0x8_0000_0000_0000 ≤ pa ∧ pa < 0xC_0000_0000_0000 then
    let p := (pa - 0x8_0000_0000_0000) / 2 ^ 40
    let off := pa % 2 ^ 40
    if fld s.domain 63 63 = 0 ∨ fld s.domain 25 16 < p ∨ localBytes ≤ off then .bad
    else if p = fld s.domain 9 0 then .dev off
    else .remote p off
  else .bad

/-- Where an access to a physical address is performed: while the host port is trained for CXL, one to host memory at the Gallery slice of its
line (R350). -/
def State.home (s : State) (pa : Nat) : PKind :=
  match s.physKind pa with
  | .host off => if s.cxl then .dev pa else .host off
  | k => k
/-- A line of host memory. -/
def hostLine (ln : Nat) : Bool := decide (localBytes ≤ 128 * ln)

/-- Sends a request to host memory. -/
def State.hostSend (s : State) (m : HMsg) (aid : Option Nat) (copy hall wtag : Nat) : State :=
  { s with nextId := s.nextId + 1,
           ext := mset s.ext s.nextId { host := true, msg := { m with tag := s.nextId }, aid := aid, copy := copy, hall := hall, wtag := wtag, pref := none, port := 64, since := s.time } }
/-- A request of the Gallery itself for a whole host line: hall number 9, and the line (R350). -/
def State.hostLineSend (s : State) (kind : HKind) (ln ctx key : Nat) (data : Line) (pois : Bool) : State :=
  s.hostSend { kind := kind, src := fld s.domain 9 0, dst := 0, tag := 0, ctx := ctx, key := key, pa := 128 * ln - 0x4_0000_0000_0000, size := 128, aop := 0,
               acas := false, af32 := false, data := data, mask := BitVec.allOnes 128, poisoned := pois } none 0 9 ln

/-! ## Room in a cache (R304, R308, R309) -/

/-- The line that leaves a cache of `cap` lines in sets of `ways` when line `ln` comes: one of its own set where that is full, else any where
the cache is; a line that `keep` marks goes only where all of them are marked (R209). -/
def roomFor (ways cap : Nat) (same keep : Nat → Bool) (held : List Nat) (pick : Nat) : Option Nat :=
  if held.length < ways then none
  else
    let mine := held.filter same
    let pool := if ways ≤ mine.length then mine else if cap ≤ held.length then held else []
    let soft := pool.filter (fun k => !keep k)
    let l := if soft.isEmpty then pool else soft
    l[pick % l.length]?

/-- Two lines share a set of a cache of a kind: 0 an L1, 1 a hall cache, 2 the Gallery, 3 a cluster instruction cache. -/
def sameSet (kind sets a b : Nat) : Bool := Config.setKey kind a % sets == Config.setKey kind b % sets

/-- A map of copies with room for one more line. -/
def withRoom (kind sets ways pick ln : Nat) (m : NMap CLine) : NMap CLine :=
  if (mget m ln).isSome then m
  else match roomFor ways (sets * ways) (sameSet kind sets ln) (fun _ => false) (mkeys m) pick with
    | some v => mdel m v
    | none => m

/-! ## The Gallery (R304, R306) -/

/-- The line as the Gallery holds it, or as a read from HBM brings it in; a line that no context brought in has tag 64. -/
def State.galFetch (s : State) (ln key : Nat) : GLine :=
  match mget s.gal ln with
  | some g => g
  | none => { ctx := 64, data := (s.hbmRead ln key).1, dirty := false, key := key, halls := [], pois := (s.hbmRead ln key).2, keep := [], used := 0 }

/-- A line of host memory that the Gallery does not hold, and whether it has asked for it (R350). -/
def State.hostAbsent (s : State) (ln : Nat) : Bool := hostLine ln && (mget s.gal ln).isNone
def State.hostAsked (s : State) (ln : Nat) : Bool := s.ext.any (fun p => p.2.hall == 9 && p.2.wtag == ln && p.2.msg.kind == .load)

/-- Sends a hall the invalidation of a line, with the stamp of the write that caused it (R306). -/
def State.sendInv (s : State) (ln h : Nat) : State :=
  let t : Txn := { type := .invalidate, tag := 0, ctx := 0, sect := 15, aop := 0, a64 := false, acas := false, af32 := false,
                   key := 0, pa := 128 * ln, data := 0, mask := 0, pois := 0 }
  { s with invs := s.invs ++ [(h, ln, s.stamp)], halls := mset s.halls h ((s.hall h).send false ln t s.time) }

/-- The marks of a clean line travel to its HBM sectors (R360). -/
def State.hbmMark (s : State) (ln : Nat) (pois : BitVec 4) : State :=
  let x := mgetD s.hlines ln { key := 256, gen := 0, pois := 0 }
  if pois &&& ~~~x.pois = 0 then s else { s with hlines := mset s.hlines ln { x with pois := x.pois ||| pois } }
/-- Puts a line back to HBM, or to the host that owns it, if it is dirty, and keeps it clean (R213, R350). The poison marks of a line go
with it, of a clean one too (R360). -/
def State.galClean (s : State) (ln : Nat) : State :=
  match mget s.gal ln with
  | some g => if g.dirty then
      let s1 := if hostLine ln then s.hostLineSend .store ln g.ctx g.key g.data (g.pois != 0) else s.hbmWrite ln g.key g.data g.pois
      { s1 with gal := mset s1.gal ln { g with dirty := false } }
    else if hostLine ln then s
    else s.hbmMark ln g.pois
  | none => s
/-- A Gallery line goes: written back where it is dirty. -/
def State.galEvict (s : State) (ln : Nat) : State := let s1 := s.galClean ln; { s1 with gal := mdel s1.gal ln }
/-- A Gallery line goes while halls hold copies: they are not tracked any more, so each is sent an invalidation. -/
def State.galDrop (s : State) (ln : Nat) : State :=
  let s1 := (((mget s.gal ln).map (·.halls)).getD []).foldl (fun (s : State) h => s.sendInv ln h) s
  { s1.galEvict ln with galIc := mdel s1.galIc ln }

/-- The lines that staging copies hold, at least the 4 MiB held back (R308). -/
def State.stagingLines (s : State) : Nat :=
  max 32768 ((s.slices.filter (·.placed)).foldl (fun a x => a + (((mget s.ctxs x.ctx).bind (fun c => (mget c.recipes x.idx).map (·.size))).getD 0) / 128) 0)
/-- The present recipe lines that the Gallery holds (R289). -/
def State.tileHeld (s : State) : Nat :=
  s.ctxs.foldl (fun a c => a + c.2.recipes.foldl (fun a r => a + r.2.used.length) 0) 0
/-- The lines that the Gallery may hold: all but those of queue storage and staging (R304, R308). -/
def State.galCap (s : State) : Nat := 16 * Config.galSets - Config.queueLines - s.stagingLines
/-- The lines that it holds: of data, of prefetched code, and of recipe tiles. -/
def State.galHeld (s : State) : Nat := s.gal.length + s.galIc.length + s.tileHeld

/-- A line of a tile is dropped (R289). -/
def Recipe.dropLine (r : Recipe) (k : Nat) : Recipe :=
  { r with present := r.present.filter (· != k), bytes := mdel r.bytes k, pois := mdel r.pois k, used := mdel r.used k }
/-- What the Gallery holds in a line's room: a line of data, of prefetched code, or of a recipe tile. -/
inductive GalItem where
  | data (ln : Nat) | code (ln : Nat) | tile (ctx idx k : Nat)
  deriving DecidableEq, Repr
/-- Everything that takes room, with the time of its last use. -/
def State.galItems (s : State) : List (Nat × GalItem) :=
  s.gal.map (fun p => (p.2.used, .data p.1)) ++ s.galIc.map (fun p => (p.2.stamp, .code p.1)) ++
    (s.ctxs.map (fun c => (c.2.recipes.map (fun r => r.2.used.map (fun k => (k.2, GalItem.tile c.1 r.1 k.1)))).flatten)).flatten
/-- An item that carries a retention mark goes only where all do (R209). -/
def State.kept (s : State) (x : GalItem) : Bool :=
  match x with
  | .data ln => ((mget s.gal ln).map (fun g => !g.keep.isEmpty)).getD false
  | _ => false
def State.galPool (s : State) : List (Nat × GalItem) :=
  let all := s.galItems
  let soft := all.filter (fun p => !s.kept p.2)
  if soft.isEmpty then all else soft
/-- What the Gallery evicts: a line of data is written back where it is dirty, a line of a recipe tile is dropped (R289). -/
def State.galGive (s : State) (x : GalItem) : State :=
  match x with
  | .data ln => s.galDrop ln
  | .code ln => { s with galIc := mdel s.galIc ln }
  | .tile ctx i k => { s with ctxs := mupd s.ctxs ctx (fun c => { c with recipes := mupd c.recipes i (fun r => r.dropLine k) }) }
/-- The Gallery makes room for one more line: data and prefetched code share the ways of a slice's sets, and all that it holds its capacity
(R209, R304, R309). -/
def State.makeRoom (s : State) (ln : Nat) : State :=
  let held := mkeys s.gal ++ mkeys s.galIc
  let s1 := match roomFor 16 (held.length + 1) (fun k => homeSlice k == homeSlice ln && sameSet 2 1536 k ln) (fun k => s.kept (.data k)) held
      (Config.victim s.tick) with
    | some v => s.galDrop v
    | none => s
  if s1.galHeld < s1.galCap then s1
  else match s1.galPool[Config.victim s.tick % s1.galPool.length]? with
    | some x => s1.galGive x.2
    | none => s1
/-- Room for a line of data, unless the Gallery holds it. -/
def State.galRoom (s : State) (ln : Nat) : State := if (mget s.gal ln).isSome then s else s.makeRoom ln
/-- Room that staging or a tile's lines take comes from the least recently used lines (R308). -/
def State.galTrim (s : State) : State :=
  (List.range (s.galHeld - s.galCap)).foldl (fun (s : State) _ => match s.galPool with
    | [] => s
    | x :: r => s.galGive (r.foldl (fun (a b : Nat × GalItem) => if b.1 < a.1 then b else a) x).2) s
/-- A present line of a tile that takes room has been used (R308). -/
def State.touchTile (s : State) (ctx idx k : Nat) : State :=
  { s with ctxs := mupd s.ctxs ctx (fun c => { c with recipes := mupd c.recipes idx (fun r => { r with used := mupd r.used k (fun _ => s.tick) }) }) }

/-- The host's copy of a line of local HBM is invalidated before the line changes (R350). -/
def State.backInv (s : State) (ln : Nat) : State :=
  if s.hostHeld.contains ln then { s with hostHeld := sdel s.hostHeld ln, out := s.out ++ [.backInvalidate ln] } else s
/-- The Gallery's line of host memory comes from the host (R350). -/
def State.hostLineCome (s : State) (ln ctx key : Nat) (data : Line) (pois : Bool) : State :=
  let s1 := s.galRoom ln
  { s1 with gal := mset s1.gal ln { ctx := ctx, data := data, dirty := false, key := key, halls := [], pois := if pois then 15 else 0, keep := [], used := s.tick } }
/-- The host asks for a line of its memory back: a dirty one is written, and where the host takes the line, the Gallery's and the halls'
copies go (R350). -/
def State.hostSnoop (s : State) (ln : Nat) (inv : Bool) : State :=
  if hostLine ln then (if inv then s.galDrop ln else s.galClean ln) else s
/-- The port is trained again: as a CXL device or as PCIe. The Gallery gives its host lines up, and the host its lines of local HBM. -/
def State.trainPort (s : State) (on : Bool) : State :=
  { ((mkeys s.gal).filter hostLine).foldl (fun (s : State) ln => s.galDrop ln) s with cxl := on, hostHeld := [] }

/-- Performs a write of masked bytes of a line at its home: every other hall that holds a copy is sent an
invalidation (R306), a poisoned sector that the write covers whole is cleared (R360), and those of `pois` are marked, and recorded (R366). -/
def State.galWriteP (s : State) (ctx : Option Nat) (ln key : Nat) (data : Line) (mask : BitVec 128) (pois : BitVec 4) (src : Option Nat) : State :=
  let g := s.galFetch ln key
  let g1 := { g with ctx := ctx.getD g.ctx, data := mergeLine g.data data mask, dirty := true, key := key,
                     pois := (g.pois &&& ~~~(sectCovered mask)) ||| pois, halls := g.halls.filter (fun h => src == some h), used := s.tick }
  let s1 := (s.galRoom ln).backInv ln
  (g.halls.filter (fun h => src != some h)).foldl (fun s h => s.sendInv ln h)
    { s1.noteMarks ctx ln g.pois pois with gal := mset s1.gal ln g1, stamp := s1.stamp + 1 }

def State.galWrite (s : State) (ln key : Nat) (data : Line) (mask : BitVec 128) (src : Option Nat) : State :=
  s.galWriteP none ln key data mask 0 src

/-- Reads a line at its home for a hall (or for the Gallery's own engines): the hall joins the line's set (R306). -/
def State.galRead (s : State) (ctx : Option Nat) (ln key : Nat) (src : Option Nat) : State × GLine :=
  let g := s.galFetch ln key
  let g1 := { g with ctx := ctx.getD g.ctx, used := s.tick, halls := match src with
    | some h => sadd g.halls h
    | none => g.halls }
  let s1 := s.galRoom ln
  ({ s1 with gal := mset s1.gal ln g1 }, g1)

/-- `n` bytes at physical address `pa`, read at the Gallery, and whether a touched sector is poisoned. -/
def State.galBytes (s : State) (pa n key : Nat) : Nat × Bool :=
  let g := s.galFetch (pa / 128) key
  (lineBytes g.data (pa % 128) n, (g.pois &&& sectTouched (byteMask (pa % 128) n)) != 0)

/-- Writes `n` bytes at physical address `pa` within one line, at the Gallery, for a context. -/
def State.galPut (s : State) (ctx : Option Nat) (pa n key : Nat) (v : Nat) : State :=
  s.galWriteP ctx (pa / 128) key (placeAt v (pa % 128)) (byteMask (pa % 128) n) 0 none

/-! ## Hall caches (R304, R305) -/

/-- The hall's writes to a line that the Gallery has not acknowledged, laid over the line in order. -/
def overlay (pend : List PendW) (ln : Nat) (l : Line) : Line :=
  (pend.filter (fun p => p.pa / 128 == ln)).foldl (fun a p => mergeLine a p.data p.mask) l

/-- Their marks, laid over the line's in the same order: a sector written whole loses its mark, and one that a poisoned copy wrote gains one (R360,
R361). -/
def overlayPois (pend : List PendW) (ln : Nat) (x : BitVec 4) : BitVec 4 :=
  (pend.filter (fun p => p.pa / 128 == ln)).foldl (fun a p => (a &&& ~~~(sectCovered p.mask)) ||| p.pois) x

/-- A hall's cached copy of a line, if it holds the sectors asked for and is not older than `dep`. -/
def State.hallHit (s : State) (h ln : Nat) (sect : BitVec 4) (dep : Nat) : Option CLine :=
  match mget (s.hall h).cache ln with
  | some c => if c.valid &&& sect = sect ∧ dep ≤ c.stamp then some c else none
  | none => none

/-- Sectors that arrive in a cache replace those it holds. -/
def CLine.merge (old : Option CLine) (ctx : Nat) (l : Line) (sect pois : BitVec 4) (stamp : Nat) : CLine :=
  let o := old.getD { ctx := ctx, data := 0, valid := 0, pois := 0, stamp := stamp }
  let bytes := BitVec.ofNat 128 ((List.range 4).foldl (fun a k => if sect.getLsbD k then a + (2 ^ 32 - 1) * 2 ^ (32 * k) else a) 0)
  { ctx := ctx, data := mergeLine o.data l bytes, valid := o.valid ||| sect, pois := (o.pois &&& ~~~sect) ||| (pois &&& sect),
    stamp := min o.stamp stamp }

/-- The lines that the hall stores of a hall take from its cache, in 64 KiB units (R307). -/
def Hall.carved (h : Hall) : Nat := h.stores.foldl (fun a p => a + 512 * ((p.2.size + 65535) / 65536)) 0
/-- A hall cache makes room for a line of data or of code: the two share its ways (R304, R307, R309). -/
def Hall.room (h : Hall) (ln pick : Nat) : Hall :=
  match roomFor Config.hallWays (Config.hallWays * Config.hallSets - h.carved) (sameSet 1 Config.hallSets ln) (fun _ => false)
      (mkeys h.cache ++ mkeys h.ic) pick with
  | some v => { h with cache := mdel h.cache v, ic := mdel h.ic v }
  | none => h
/-- A hall store that is reserved takes its lines from the cache. -/
def Hall.carve (h : Hall) : Hall :=
  let cap := Config.hallWays * Config.hallSets - h.carved
  { h with cache := h.cache.take cap, ic := h.ic.take (cap - h.cache.length) }

/-- A line that arrives at a hall: the arriving sectors replace the cached ones, under the hall's pending writes. -/
def State.hallFill (s : State) (h ctx ln : Nat) (l : Line) (sect pois : BitVec 4) (stamp : Nat) : State :=
  let x := if ((mget (s.hall h).cache ln).isSome) then s.hall h else (s.hall h).room ln (Config.victim s.tick)
  let c := CLine.merge (mget x.cache ln) ctx l sect pois stamp
  s.setHall h { x with cache := mset x.cache ln { c with data := overlay x.pend ln c.data, pois := overlayPois x.pend ln c.pois } }

/-- A tracker number of a hall that no request in flight uses (R313). -/
def freshTag (used : List Nat) (start : Nat) : Nat :=
  ((List.range (used.length + 1)).map (fun i => (start + i) % 65536)).find? (fun t => !used.contains t) |>.getD start

/-- The tags of the transactions on a channel. -/
def Chan.tags (c : Chan) : List Nat :=
  (c.waiting ++ c.accepted ++ ((c.replay ++ c.flight).map (·.txns)).flatten).map (·.tag)
/-- The tags a hall has in flight. -/
def State.tagsOf (s : State) (h : Nat) : List Nat :=
  ((mvals (s.hall h).mods).map (fun m => m.up.tags ++ m.down.tags)).flatten ++ (s.hall h).held.map (·.tag) ++ (s.hall h).pend.map (·.tag) ++ (s.hall h).reads.map (·.tag) ++ (mvals s.accs).filterMap (fun a => match a.stat with
    | .sent h' t => if h' = h then some t else none
    | _ => none)

def State.newTag (s : State) (h : Nat) : Nat := freshTag (s.tagsOf h) (s.hall h).nextTag

/-- Sends a request of a hall to the Gallery, once it has a tracker (R313). -/
def State.sendUp (s : State) (h : Nat) (t : Txn) : State :=
  s.setHall h ((s.hall h).request (t.pa / 128) t s.time)
/-- A read of a whole line that a hall makes for a copy, a prefetch or code (R304, R345). -/
def State.hallAsk (s : State) (h ctx ln key : Nat) (who : ReadFor) : State :=
  let tag := s.newTag h
  (s.updHall h (fun x => { x with reads := x.reads ++ [{ tag := tag, who := who, ctx := ctx, seen := s.stamp }], nextTag := (tag + 1) % 65536 })).sendUp h
    { type := .read, tag := tag, ctx := ctx, sect := 15, aop := 0, a64 := false, acas := false, af32 := false, key := key, pa := 128 * ln,
      data := 0, mask := 0, pois := 0 }
/-- Sends a transaction of the Gallery to a hall. -/
def State.sendDown (s : State) (h : Nat) (t : Txn) : State :=
  s.setHall h ((s.hall h).send false (t.pa / 128) t s.time)

/-- A store, or a copy's write, leaves the core for the hall cache and is forwarded to its home (R305). The bytes lie
in one line. `op` says what it is there: 0 a write, 1 a discard, 2 a clean, 3 a discard of a line of a recipe tile (DESIGN CHOICE, log entry 40:
R345 names no transaction for these, and AOP means nothing in a write). -/
def State.hallWrite (s : State) (h : Nat) (p : PendW) (key : Nat) (op : BitVec 3) : State :=
  let tag := s.newTag h
  let ln := p.pa / 128
  let x := s.hall h
  let cache := mupd x.cache ln (fun c => { c with data := mergeLine c.data p.data p.mask,
                                                  pois := (c.pois &&& ~~~(sectCovered p.mask)) ||| p.pois })
  let s1 := s.setHall h { x with cache := cache, pend := x.pend ++ [{ p with tag := tag }], nextTag := (tag + 1) % 65536 }
  let s2 := { s1 with stamp := s1.stamp + 1 }
  s2.sendUp h { type := .write, tag := tag, ctx := p.ctx, sect := sectTouched p.mask, aop := op, a64 := false, acas := false,
                af32 := false, key := key, pa := p.pa, data := p.data, mask := p.mask, pois := p.pois }

/-- A store updates a present L1 line and never allocates one (R304). -/
def Core.l1Store (c : Core) (ln : Nat) (data : Line) (mask : BitVec 128) : Core :=
  { c with l1 := mupd c.l1 ln (fun x => { x with data := mergeLine x.data data mask, pois := x.pois &&& ~~~(sectCovered mask) }) }

/-- A line that arrives in an L1. -/
def Core.l1Fill (c : Core) (pick ctx ln : Nat) (l : Line) (sect pois : BitVec 4) (stamp : Nat) : Core :=
  let m := withRoom 0 Config.l1Sets Config.l1Ways pick ln c.l1
  { c with l1 := mset m ln (CLine.merge (mget m ln) ctx l sect pois stamp) }

/-- The hall's own copies of a line are dropped, in its cache and in every L1 of the hall. -/
def State.dropLine (s : State) (h ln : Nat) : State :=
  let s1 := s.updHall h (fun x => { x with cache := mdel x.cache ln })
  { s1 with cores := s1.cores.map (fun p => if hallOfCore p.1 = h then (p.1, { p.2 with l1 := mdel p.2.l1 ln }) else p) }

/-- Every copy of a line above the Gallery is dropped (R212, R289, R372). -/
def State.dropEverywhere (s : State) (ln : Nat) : State :=
  { s with halls := s.halls.map (fun p => (p.1, { p.2 with cache := mdel p.2.cache ln })),
           cores := s.cores.map (fun p => (p.1, { p.2 with l1 := mdel p.2.l1 ln })) }

/-- What warps have read ahead of a line of global memory is not used any more. -/
def State.forgetEarly (s : State) (gone : Nat → Bool) : State :=
  { s with warps := s.warps.map (fun p => (p.1, { p.2 with early := p.2.early.filter (fun x => !(x.space == .global && gone x.line)) })) }

/-- A line of a framed recipe tile is written to its frame: a copy that the host or the Gallery holds of the frame goes first (R289, R350). -/
def State.frameWrite (s : State) (ln key : Nat) (data : Line) (pois : BitVec 4) : State := ((s.backInv ln).galDrop ln).hbmWrite ln key data pois

/-- A line reads as zero from now on, changed at its home without write-back; copies and retention marks go (R212). -/
def State.zeroLine (s : State) (ctx : Option Nat) (ln key : Nat) (src : Option Nat) : State :=
  let s1 := (s.galWriteP ctx ln key 0 (BitVec.allOnes 128) 0 src).dropEverywhere ln
  { s1 with gal := mupd s1.gal ln (fun g => { g with keep := [], pois := 0 }) }

/-- A line's cached copies are discarded without write-back (R289). -/
def State.forgetLine (s : State) (ln : Nat) : State := { (s.dropEverywhere ln).forgetEarly (· == ln) with gal := mdel s.gal ln }

/-- No write of a context is on its way from a hall to its home (R305). -/
def State.writesDone (s : State) (h ctx : Nat) : Bool := (s.hall h).pend.all (fun p => p.ctx != ctx)

/-- The hall has applied every invalidation sent up to stamp `n` (R306). -/
def State.invsApplied (s : State) (h n : Nat) : Bool := s.invs.all (fun p => p.1 != h || decide (n < p.2.2))

end Sys2Proof.Machine
end

