-- ==== Sys2Proof/Machine/Translate.lean ====
section
/-!
DEFINITION. Sys2Proof/Machine/Translate.lean: page tables, walks, translation caches and checks 3 to 5 of an access
(R29, R32, R190, R288, R314 to R318, R371).
-/
namespace Sys2Proof.Machine

/-! ## Page-table entries (R314) -/

def pteV (e : Word) : Bool := e.getLsbD 0
def pteLeaf (e : Word) : Bool := e.getLsbD 1
def pteAddr (e : Word) : Nat := fld e 51 8 * 256
/-- RES0 of every entry: bits 55:52 and 7:5. -/
def pteRes (e : Word) : Bool := fld e 55 52 != 0 || fld e 7 5 != 0
/-- KEYID, X, W, RD: zero in a table entry. -/
def pteLeafBits (e : Word) : Bool := fld e 63 56 != 0 || fld e 4 2 != 0

/-- The lowest virtual address bit that a level indexes, and its number of entries. -/
def lvlShift : Nat → Nat
  | 4 => 48 | 3 => 39 | 2 => 30 | 1 => 21 | _ => 16
def lvlEntries : Nat → Nat
  | 0 => 32 | _ => 512

/-- An entry is malformed (R315): at level `l`, a RES0 bit is set, LEAF stands at level 4 or 3 or is missing at level 0,
ADDR has bits below the page size or the next table's alignment, or a next table lies outside local HBM (R349). -/
def pteBad (l : Nat) (e : Word) : Bool :=
  pteRes e ||
    (if pteLeaf e then l == 4 || l == 3 || pteAddr e % 2 ^ lvlShift l != 0
     else l == 0 || pteLeafBits e || pteAddr e % (if l == 1 then 256 else 4096) != 0 || decide (localBytes ≤ pteAddr e))

/-- How a walk ends (R315, R361). -/
inductive WRes where
  | ok (x : Xlat) (used : List (Nat × Nat × Word))
  | bad (cause : BitVec 8)
  deriving DecidableEq, Repr

def leafXlat (ctx va l : Nat) (e : Word) : Xlat :=
  { ctx := ctx, va := va / 2 ^ lvlShift l * 2 ^ lvlShift l, size := 2 ^ lvlShift l, pa := pteAddr e, key := fld e 63 56,
    r := e.getLsbD 2, w := e.getLsbD 3, x := e.getLsbD 4 }

/-- The entry a walk uses: from the walk cache (levels 4 to 1), else read at the Gallery as one unit (R315, R316). -/
def State.pteRead (s : State) (ctx l va table : Nat) : Option Word :=
  match s.walkCache.find? (fun p => p.1 == ctx && p.2.1 == l && p.2.2.1 == va / 2 ^ lvlShift l && l != 0) with
  | some p => some p.2.2.2
  | none =>
    let r := s.galBytes (table + 8 * (va / 2 ^ lvlShift l % lvlEntries l)) 8 0
    if r.2 then none else some (BitVec.ofNat 64 r.1)

/-- A walk from a table at a level down (R315). -/
def State.walkFrom (s : State) (ctx va : Nat) : List Nat → Nat → List (Nat × Nat × Word) → WRes
  | [], _, _ => .bad cPageProtection
  | l :: ls, table, used =>
    match s.pteRead ctx l va table with
    | none => .bad cMemoryPoison
    | some e =>
      if !pteV e then .bad cPageNotPresent
      else if pteBad l e then .bad cPageProtection
      else if pteLeaf e then .ok (leafXlat ctx va l e) ((l, va / 2 ^ lvlShift l, e) :: used)
      else s.walkFrom ctx va ls (pteAddr e) ((l, va / 2 ^ lvlShift l, e) :: used)

/-- A page of the package's own window in the load-store domain is the local page (R349). -/
def State.ownPage (s : State) (x : Xlat) : Xlat :=
  match s.physKind x.pa with
  | .dev p => { x with pa := p }
  | _ => x
/-- The walk of a virtual address of a context, from its root (R32, R314). -/
def State.walk (s : State) (ctx va : Nat) : WRes :=
  match mget s.ctxs ctx with
  | none => .bad cPageNotPresent
  | some c => if localBytes ≤ c.cfg.root then .bad cPageProtection else match s.walkFrom ctx va [4, 3, 2, 1, 0] c.cfg.root [] with
    | .ok x used => .ok (s.ownPage x) used
    | .bad k => .bad k

/-! ## Translation caches (R316) -/

def xlatCovers (x : Xlat) (ctx va : Nat) : Bool := x.ctx == ctx && decide (x.va ≤ va) && decide (va < x.va + x.size)

/-- A translation put in a cache of some ways in sets, in the place of the oldest of its set where that is full. -/
def tlbPut (kind sets ways : Nat) (t : List Xlat) (x : Xlat) : List Xlat :=
  let u := t.filter (· != x)
  let mine := u.filter (fun y => sameSet kind sets (x.va / 65536) (y.va / 65536))
  x :: (match (mine.drop (ways - 1)).getLast? with
    | some y => u.erase y
    | none => u)

/-- A translation that the core, its cluster or its hall holds. -/
def State.tlbFind (s : State) (core ctx va : Nat) : Option Xlat :=
  match (s.core core).tlb.find? (fun x => xlatCovers x ctx va) with
  | some x => some x
  | none => match (s.cluster (clusterOfCore core)).tlb.find? (fun x => xlatCovers x ctx va) with
    | some x => some x
    | none => (s.hall (hallOfCore core)).tlb.find? (fun x => xlatCovers x ctx va)

/-- A walk's translation enters the three caches on the way to a core. -/
def State.tlbFill (s : State) (core : Nat) (x : Xlat) : State :=
  let s1 := s.updCore core (fun c => { c with tlb := tlbPut 6 1 Config.coreTlb c.tlb x })
  let s2 := s1.updCluster (clusterOfCore core) (fun c => { c with tlb := tlbPut 4 512 8 c.tlb x })
  s2.updHall (hallOfCore core) (fun c => { c with tlb := tlbPut 5 4096 16 c.tlb x })

/-- Entries of levels 4 to 1 that a walk used enter the walk cache; a walk that ended in a fault enters nothing
(R315, R316). -/
def State.walkFill (s : State) (ctx : Nat) (used : List (Nat × Nat × Word)) : State :=
  let es := (used.filter (fun u => u.1 != 0)).map (fun u => (ctx, u.1, u.2.1, u.2.2))
  { s with walkCache := (es ++ s.walkCache.filter (fun p => !es.contains p)).take Config.walkCache }

/-- The 64 KiB pages that a range of bytes touches, lowest first. -/
def pagesOf (va n : Nat) : List Nat := if n = 0 then [] else (List.range ((va + n - 1) / 65536 + 1 - va / 65536)).map (· + va / 65536)

/-- Translates at once, walking where no cache holds the page: the walk begins and ends in one step (log entry 36). -/
def State.xlatNow (s : State) (core ctx va : Nat) : State × Except (BitVec 8) Xlat :=
  match s.tlbFind core ctx va with
  | some x => (s, .ok x)
  | none => match s.walk ctx va with
    | .ok x used => ((s.tlbFill core x).walkFill ctx used, .ok x)
    | .bad c => (s, .error c)

/-- Of the pages that a range needs and no cache holds none is being walked, since a miss on such a page attaches to its walk and sends nothing of
its own; and one of the Gallery's 512 walkers is free for them, so that no miss waits for one (R316). -/
def State.walkClear (s : State) (core ctx va n : Nat) : Bool :=
  (decide (s.walks.length < Config.walkers) || (pagesOf va n).all (fun pg => (s.tlbFind core ctx (max va (pg * 65536))).isSome)) &&
  s.walks.all (fun w => w.ctx != ctx || decide (w.page < va / 65536) || decide ((va + n - 1) / 65536 < w.page)
    || (s.tlbFind core ctx (max va (w.page * 65536))).isSome)

/-- The physical address of a virtual one under a translation. -/
def Xlat.phys (x : Xlat) (va : Nat) : Nat := x.pa + (va - x.va)

/-- The location that a byte of an address names: its physical byte where a translation covers it (R254). -/
def locOf (xl : List Xlat) (a : Nat) : Nat :=
  match xl.find? (fun x => decide (x.va ≤ a) && decide (a < x.va + x.size)) with
  | some x => x.phys a
  | none => a

/-- Whether two ranges of a context name a common byte of global memory: one address, or two that the tables map to one place
(R254). -/
def State.sameBytes (s : State) (ctx a n b m : Nat) : Bool :=
  let loc (x : Nat) : Option Nat := match s.walk ctx x with
    | .ok l _ => some (l.phys x)
    | .bad _ => none
  decide (a < b + m) && decide (b < a + n) ||
    ((List.range n).any (fun i => (List.range m).any (fun j => (a + i) % 65536 == (b + j) % 65536)) &&
      ((List.range n).filterMap (fun i => loc (a + i))).any (fun p => ((List.range m).filterMap (fun j => loc (b + j))).contains p))

/-! ## Checks 4 and 5 (R190) -/

/-- What an access asks of a page. -/
inductive Need where
  | rd | wr | rw | ex
  deriving DecidableEq, Repr

def Xlat.allows (x : Xlat) : Need → Bool
  | .rd => x.r | .wr => x.w | .rw => x.r && x.w | .ex => x.x

/-- Check 4: the page's permission, its key ID (permitted to the context and holding a key, R371), and a physical
address that exists (R349). Host and CXL memory ignores the key ID (R318). -/
def State.pageOk (s : State) (x : Xlat) (n : Need) (va : Nat) : Bool :=
  x.allows n &&
    (match s.physKind (x.phys va) with
     | .bad => false
     | .host _ => true
     | _ => s.keyHeld x.key && (match mget s.ctxs x.ctx with
        | some c => c.keys.contains x.key
        | none => false))

/-- Two ranges of bytes overlap. -/
def overlaps (a n b m : Nat) : Bool := decide (a < b + m) && decide (b < a + n)

/-- The range touches one pinned by `RECPIN` (R250). -/
def Ctx.pinnedAt (c : Ctx) (va n : Nat) : Bool := c.pins.any (fun p => overlaps va n p.1 p.2)
/-- The valid recipe whose tile the byte lies in. -/
def Ctx.recipeAt (c : Ctx) (va : Nat) : Option (Nat × Recipe) :=
  c.recipes.find? (fun p => decide (p.2.tile ≤ va) && decide (va < p.2.tile + p.2.size))
def Ctx.recipeOver (c : Ctx) (va n : Nat) : Bool := c.recipes.any (fun p => overlaps va n p.2.tile p.2.size)

/-- Check 5: a write reaches a pinned range or a valid recipe tile (R190, R288). -/
def State.immutable (s : State) (ctx va n : Nat) : Bool :=
  match mget s.ctxs ctx with
  | some c => c.pinnedAt va n || c.recipeOver va n
  | none => false

/-- Translates every page of a range but those that `skip` names (the hall store window, R28) and makes checks 3 and 4 on
each: all the translations, or the first failing cause with its lowest byte, check 3 before check 4. -/
def State.xlatRange (s : State) (core ctx va n : Nat) (need : Need) (skip : Nat → Bool) :
    State × Except (BitVec 8 × Nat) (List Xlat) :=
  let pages := (pagesOf va n).filter (fun pg => !skip (pg * 65536))
  let r := pages.foldl (fun (a : State × List Xlat × Option (BitVec 8 × Nat)) pg =>
    let lo := max va (pg * 65536)
    match a.1.xlatNow core ctx lo with
    | (s1, .ok x) => (s1, a.2.1 ++ [x], a.2.2)
    | (s1, .error c) => (s1, a.2.1, match a.2.2 with
      | none => some (c, lo)
      | some e => some e)) (s, [], none)
  match r.2.2 with
  | some (c, lo) => (r.1, .error (c, lo))
  | none =>
    match pages.find? (fun pg => let lo := max va (pg * 65536)
        match r.2.1.find? (fun x => xlatCovers x ctx lo) with
        | some x => !r.1.pageOk x need lo
        | none => true) with
    | some pg => (r.1, .error (cPageProtection, max va (pg * 65536)))
    | none => (r.1, .ok r.2.1)

/-- The physical address of a byte under the translations held for a range. -/
def physIn (xs : List Xlat) (va : Nat) : Option (Nat × Nat) :=
  (xs.find? (fun x => decide (x.va ≤ va) && decide (va < x.va + x.size))).map (fun x => (x.phys va, x.key))

end Sys2Proof.Machine
end

