-- ==== Sys2Proof/Machine/Records.lean ====
section
/-!
DEFINITION. Sys2Proof/Machine/Records.lean: MSI-X messages, recorder events and fault records (R335, R336, R356, R365,
R366).
-/
namespace Sys2Proof.Machine

/-! ## MSI-X (R352, R356) -/

/-- The vector's mask bit in the MSI-X table, set until the host clears it (as PCIe, log entry 15). -/
def State.msixMasked (s : State) (v : Nat) : Bool := (mgetD s.msixTable (4 * v + 3) 1).getLsbD 0

/-- The message of a vector: the address and data of its table entry. -/
def State.msixOut (s : State) (v : Nat) : HostOut :=
  let d (i : Nat) : BitVec 32 := mgetD s.msixTable (4 * v + i) 0
  .msix v (d 1 ++ d 0) (d 2)
/-- Sends a message, or marks it pending while its vector is masked. -/
def State.msix (s : State) (v : Nat) : State :=
  if s.msixMasked v then { s with msixPend := sadd s.msixPend v } else { s with out := s.out ++ [s.msixOut v] }

/-- The 2 µs spacing of a context's messages allows one now (R356). -/
def Ctx.msixFree (c : Ctx) (now : Nat) : Bool :=
  match c.msixAt with
  | some t => decide (t + 2000 ≤ now)
  | none => true
/-- A context's PROD has advanced: a message at once, or at the end of the 2 µs spacing (R356). -/
def State.msixCtx (s : State) (ctx : Nat) : State :=
  match mget s.ctxs ctx with
  | none => s
  | some c =>
    if c.msixFree s.time then { s with ctxs := mset s.ctxs ctx { c with msixAt := some s.time, msixDue := false } }.msix ctx
    else { s with ctxs := mset s.ctxs ctx { c with msixDue := true } }

/-! ## Recorders (R365) -/

/-- The 32 bytes of an event (R365). -/
def REvent.bytes (e : REvent) : BitVec 256 :=
  let w2 : Nat := e.code * 2 ^ 48 + (match e.ctx with
    | some c => c * 2 ^ 42 + 2 ^ 41
    | none => 0) + e.unit % 2 ^ 32
  BitVec.ofNat 256 (e.time % 2 ^ 64 + (e.seq % 2 ^ 64) * 2 ^ 64 + w2 * 2 ^ 128 + e.detail.toNat * 2 ^ 192)

/-! ## Recipe table entries (R283, R284, R286) -/

def bitN (b : Bool) (k : Nat) : Nat := if b then 2 ^ k else 0
/-- CTL of a valid entry (R286). -/
def Recipe.ctl (r : Recipe) : Nat :=
  2 ^ 63 + bitN r.mat 62 + bitN r.framed 61 + bitN r.run 60 + r.depth % 8 * 2 ^ 56 + r.pinned % 256 * 2 ^ 48 + (r.warps - 1) % 2 * 2 ^ 8
/-- The 64 bytes of a valid entry. -/
def Recipe.entryBytes (r : Recipe) : Nat := r.img.toNat % 2 ^ 384 + r.crc.toNat * 2 ^ 384 + r.ctl * 2 ^ 448

/-- A table entry takes a recipe, or becomes invalid; the table in device memory follows (R283). -/
def State.setRecipe (s : State) (ctx idx : Nat) (r : Option Recipe) : State :=
  match mget s.ctxs ctx with
  | none => s
  | some c =>
    let a := c.cfg.recipeBase + 64 * idx
    match r with
    | some x => { s with ctxs := mset s.ctxs ctx { c with recipes := mset c.recipes idx x } }.galPut (some ctx) a 64 0 x.entryBytes
    | none => { s with ctxs := mset s.ctxs ctx { c with recipes := mdel c.recipes idx } }.galPut (some ctx) (a + 56) 8 0 0
/-- A change to a valid entry. -/
def State.updRecipe (s : State) (ctx idx : Nat) (f : Recipe → Recipe) : State :=
  match (mget s.ctxs ctx).bind (fun c => mget c.recipes idx) with
  | some r => s.setRecipe ctx idx (some (f r))
  | none => s

/-! ## Fault records (R335, R336) -/

/-- Word 0 of a record. -/
def recWord0 (kind cause ctx level mode slot lane seq : Nat) : Word :=
  BitVec.ofNat 64 (kind * 2 ^ 60 + cause * 2 ^ 48 + ctx % 64 * 2 ^ 42 + level % 4 * 2 ^ 40 + mode % 4 * 2 ^ 38 + slot % 64 * 2 ^ 32
    + lane % 64 * 2 ^ 26 + seq % 2 ^ 26)

/-- CONS of a context's fault queue, as the servicer last wrote it (R335). -/
def State.faultCons (s : State) (c : Ctx) : Nat := (s.galBytes (c.cfg.faultCtl + 8) 8 0).1

/-- PROD of a context's fault queue, in its control block (R335). -/
def State.faultProd (s : State) (c : Ctx) : Nat := (s.galBytes c.cfg.faultCtl 8 0).1
/-- The ring has room for one more record. -/
def State.ringRoom (s : State) (c : Ctx) : Bool := decide (s.faultProd c < s.faultCons c + 2 ^ c.cfg.faultLog2)

/-- Writes a record into its context's ring and advances PROD, under key ID 0 (R335). -/
def State.writeRecord (s : State) (r : FRec) : State :=
  match mget s.ctxs r.ctx with
  | none => s
  | some c =>
    let a := c.cfg.faultBase + 32 * (s.faultProd c % 2 ^ c.cfg.faultLog2)
    let v := r.w0.toNat + r.info.toNat * 2 ^ 64 + r.block.toNat * 2 ^ 128 + r.handle.toNat * 2 ^ 192
    let s1 := (s.galPut (some r.ctx) a 32 0 v).galPut (some r.ctx) c.cfg.faultCtl 8 0 ((s.faultProd c + 1) % 2 ^ 64)
    s1.msixCtx r.ctx

/-- Posts a record: at once while the ring has room and no record of the context waits, else in the pending buffer
(R335). -/
def State.post (s : State) (r : FRec) : State :=
  match mget s.ctxs r.ctx with
  | none => s
  | some c =>
    if s.ringRoom c && s.frecs.all (fun q => q.ctx != r.ctx) then s.writeRecord r else { s with frecs := s.frecs ++ [r] }

/-- The next record of a context finds room: in the pending buffer, or in its ring with none of its records waiting (R335). -/
def State.recRoom (s : State) (ctx : Nat) : Bool :=
  decide (s.frecs.length < Config.pendingBuffer) ||
    (match mget s.ctxs ctx with
     | some c => s.ringRoom c && s.frecs.all (fun q => q.ctx != ctx)
     | none => false)
/-- A faulting warp may post: there is room, and the record of its context's stop does not wait for it (R335). -/
def State.postRoom (s : State) (ctx : Nat) : Bool :=
  s.recRoom ctx && (match mget s.ctxs ctx with
    | some c => c.stopRec.isNone
    | none => true)
/-- The contexts whose stop's record waits and has room now. -/
def State.stopsFit (s : State) : List Nat := (s.ctxs.filter (fun p => p.2.stopRec.isSome && s.recRoom p.1)).map (·.1)
/-- The record of a context's stop is posted where there is room, and else waits for it (R335). -/
def State.postStop (s : State) (ctx : Nat) (r : FRec) : State :=
  if s.recRoom ctx then ({ s with ctxs := mupd s.ctxs ctx (fun c => { c with stopRec := none }) } : State).post r
  else { s with ctxs := mupd s.ctxs ctx (fun c => { c with stopRec := some r }) }
/-- The records of stops that have room now are posted. -/
def State.postStops (s : State) : State :=
  s.stopsFit.foldl (fun (s : State) ctx => match (mget s.ctxs ctx).bind (·.stopRec) with
    | some r => s.postStop ctx r
    | none => s) s
/-- What comes of a step of a context posts no record, or there is room for it. -/
def State.postsFit (s t : State) (ctx : Nat) : Bool := decide (t.frecs.length ≤ s.frecs.length) || s.postRoom ctx

end Sys2Proof.Machine
end

