-- ==== Sys2Proof/Machine/Ops.lean ====
section
/-!
DEFINITION. Sys2Proof/Machine/Ops.lean: the operations that every meaning is built from: outcomes, tokens and frames
(R77 to R89), how a slot fires in its lanes (R79 to R81), entering the emulation and trap handlers (R268 to R272, R101),
parking on the fault queue (R100), stopping a context, and ending a warp (R172, R173).
-/
namespace Sys2Proof.Machine

/-! ## Outcomes -/

abbrev Out := Host.Outcome State Fault Refusal

/-- What no step changes but the passing of time: device time (R19), the fuse map (R6) and the inputs not yet taken; and
the lines written in the step reach HBM (R312). -/
def close (s t : State) : State :=
  { t with time := s.time, fuses := s.fuses, inbox := s.inbox, mem := drain s.mem t.hbmq, hbmq := [], cur := none }

/-- A meaning that has taken effect. -/
def ran (s t : State) : Out := if s.powered then .next (close s t) else .fault .moduleOff

/-- An event: it happens where `ok`, and is refused by name elsewhere. -/
def event (s : State) (name : String) (ok : Bool) (t : State) : Out := if ok then ran s t else .refused (.notEnabled name)

/-! ## Tokens (R77, R20) -/

def Tok.isPoison : Tok → Bool
  | .poison _ _ _ => true
  | _ => false
/-- The value of a token; zero for null, the origin for poison (R20, R77). -/
def Tok.val : Tok → Word
  | .value v => v
  | .null => 0
  | .poison s c _ => BitVec.ofNat 64 (s.toNat + c.toNat * 256)
/-- Kind code of R20. -/
def Tok.code : Tok → Nat
  | .value _ => 0 | .null => 1 | .poison _ _ _ => 2
/-- A poison whose origin is a slot (R78). -/
def faultTok (slot : Nat) (cause : BitVec 8) (info : Word) : Tok := .poison (BitVec.ofNat 6 slot) cause info

/-- The key of a token: ports 0 to 3 for operands a, b, c and p of a slot, 4 for a declared write slot. -/
def tokKey (port slot lane : Nat) : Nat := (port * 64 + slot) * 64 + lane

/-- What a legal target names (R43). -/
def tgtPort (t : BitVec 9) : Option (Nat × Nat) :=
  if t = 0x1FF#9 then none
  else if 448 ≤ t.toNat then some (4, t.toNat - 448)
  else some (t.toNat / 128, t.toNat % 128)

def Frame.tok (f : Frame) (port slot lane : Nat) : Option Tok := mget f.toks (tokKey port slot lane)
def Frame.dep (f : Frame) (port slot lane : Nat) : Nat := mgetD f.deps (tokKey port slot lane) 0
def Frame.opVal (f : Frame) (port slot lane : Nat) : Word :=
  match f.tok port slot lane with
  | some t => t.val
  | none => 0

/-- Sends a token to one target in one lane. -/
def Frame.send1 (f : Frame) (lane : Nat) (t : Tok) (dep : Nat) (tg : BitVec 9) : Frame :=
  match tgtPort tg with
  | none => f
  | some p => { f with toks := mset f.toks (tokKey p.1 p.2 lane) t, deps := msetD f.deps (tokKey p.1 p.2 lane) dep 0 }

/-- Sends a token to every target in one lane (R103). -/
def Frame.send (f : Frame) (ts : List (BitVec 9)) (lane : Nat) (t : Tok) (dep : Nat) : Frame :=
  ts.foldl (fun f tg => f.send1 lane t dep tg) f

def Frame.doneIn (f : Frame) (slot lane : Nat) : Bool := hasLane (mgetD f.done slot 0) lane
def Frame.markDone (f : Frame) (slot lane : Nat) : Frame :=
  { f with done := mset f.done slot (mgetD f.done slot 0 ||| laneBit lane) }
def Frame.markFired (f : Frame) (slot lane : Nat) : Frame :=
  { f with fired := mset f.fired slot (mgetD f.fired slot 0 ||| laneBit lane) }
/-- A sink slot has received poison in a lane (R83, R84). -/
def Frame.poisonSink (f : Frame) (slot lane : Nat) (t : Tok) : Frame := { f with spois := f.spois ++ [(slot, lane, t)] }
def Frame.word (f : Frame) (slot : Nat) : Insn := (f.blk.slots[slot]?).getD 0
def Frame.targets (f : Frame) (slot : Nat) : List (BitVec 9) := targetsOf (f.word slot)

/-! ## Firing per lane (R79, R80) -/

/-- How a slot stands in one lane. -/
inductive LaneGo where
  | wait | off | pois (t : Tok) | fire
  deriving DecidableEq, Repr

/-- How a slot stands in a lane, by the ports of the operands it takes. -/
def Frame.laneGoP (f : Frame) (slot : Nat) (ports : List Nat) (pm : BitVec 2) (lane : Nat) : LaneGo :=
  let ops := ports.all (fun p => (f.tok p slot lane).isSome)
  if f.doneIn slot lane then .wait
  else if pm = 0#2 then (if ops then .fire else .wait)
  else match f.tok 3 slot lane with
    | none => .wait
    | some p =>
      if pm = 3#2 then (if ops then .fire else .wait)
      else match p with
        | .value v => if v.getLsbD 0 == (pm == 1#2) then (if ops then .fire else .wait) else .off
        | .null => .off
        | .poison a b c => .pois (.poison a b c)
def Frame.laneGo (f : Frame) (slot nops : Nat) (pm : BitVec 2) (lane : Nat) : LaneGo := f.laneGoP slot (List.range nops) pm lane

/-- The operand tokens of a slot in a lane, in the order a, b, c. -/
def Frame.ops (f : Frame) (slot nops lane : Nat) : List Tok :=
  (List.range nops).map (fun p => (f.tok p slot lane).getD .null)

/-- The newest stamp that the operands of a slot and its predicate derive from (R261). -/
def Frame.opDep (f : Frame) (slot nops lane : Nat) : Nat :=
  (List.range nops).foldl (fun a p => max a (f.dep p slot lane)) (f.dep 3 slot lane)

/-- R80: the first poison, else null, else what `k` makes of the values. -/
def kindRule (ts : List Tok) (k : Tok) : Tok :=
  match ts.find? Tok.isPoison with
  | some t => t
  | none => if ts.contains .null then .null else k

/-- What a slot does in a lane where it fires with values. -/
inductive LaneOut where
  /-- delivers a token -/
  | out (t : Tok)
  /-- delivers a value that is kept for the lanes in which the slot fires later (R19) -/
  | sample (v : Word)
  /-- records a branch output and delivers a link (R168, R170) -/
  | branch (b : BOut) (link : Tok)
  /-- records a special-register write (R84) -/
  | swreg (n : Nat) (v : Word)
  /-- records a resume (R177) -/
  | resume (h : Word)
  /-- a sink that receives poison of its own (R174) -/
  | fail (t : Tok)
  deriving DecidableEq, Repr

/-- Delivers what a slot made in a lane; a poison made by a sink poisons it (R83, R84). -/
def Frame.put (f : Frame) (slot lane : Nat) (ts : List (BitVec 9)) (snk : Bool) (dep : Nat) (o : LaneOut) : Frame :=
  match o with
  | .out t => let g := f.send ts lane t dep
              if snk && t.isPoison then g.poisonSink slot lane t else g
  | .sample v => { f.send ts lane (.value v) dep with samples := mset f.samples slot (.value v) }
  | .branch b link => { f.send ts lane link dep with bouts := f.bouts ++ [(slot, lane, b)] }
  | .swreg n v => { f with swr := f.swr ++ [(slot, lane, n, v)] }
  | .resume h => { f with fres := f.fres ++ [(lane, h)] }
  | .fail t => f.poisonSink slot lane t

/-- A class L slot in one lane: `raw` gives the token from the operand tokens where the slot's entry overrides R80, and
`fn` acts on values. -/
def Frame.fireLane (f : Frame) (slot nops : Nat) (pm : BitVec 2) (ts : List (BitVec 9)) (snk : Bool)
    (fn : Frame → Nat → Word → Word → Word → LaneOut) (lane : Nat) : Frame :=
  match f.laneGo slot nops pm lane with
  | .wait => f
  | .off => (f.send ts lane .null (f.dep 3 slot lane)).markDone slot lane
  | .pois t => (f.put slot lane ts snk 0 (.out t)).markDone slot lane
  | .fire =>
    let ops := f.ops slot nops lane
    let g := (f.markFired slot lane).markDone slot lane
    match ops.find? Tok.isPoison with
    | some t => g.put slot lane ts snk 0 (.out t)
    | none =>
      if ops.contains .null then g.send ts lane .null (f.opDep slot nops lane)
      else g.put slot lane ts snk (f.opDep slot nops lane) (fn f lane (f.opVal 0 slot lane) (f.opVal 1 slot lane) (f.opVal 2 slot lane))

/-- A class L slot in every active lane. -/
def Frame.fireAll (f : Frame) (slot nops : Nat) (pm : BitVec 2) (ts : List (BitVec 9)) (snk : Bool)
    (fn : Frame → Nat → Word → Word → Word → LaneOut) : Frame :=
  (lanesOf f.mask).foldl (fun g l => g.fireLane slot nops pm ts snk fn l) f

/-! ## Warps, levels and the slot under the cursor -/

def State.warp (s : State) (wid : Nat) : Option Warp := mget s.warps wid
def State.setWarp (s : State) (wid : Nat) (w : Warp) : State := { s with warps := mset s.warps wid w }

/-- The frame of the innermost level. -/
def Warp.frame (w : Warp) : Option Frame :=
  match w.levels with
  | lv :: _ => lv.frame
  | [] => none
def Warp.top (w : Warp) : Option Level := w.levels.head?
def Warp.setTop (w : Warp) (f : Level → Level) : Warp :=
  match w.levels with
  | lv :: r => { w with levels := f lv :: r }
  | [] => w
def Warp.setFrame (w : Warp) (f : Frame) : Warp := w.setTop (fun lv => { lv with frame := some f })
/-- Handler levels standing, 0 to 2: `ow.depth` (R271). -/
def Warp.depth (w : Warp) : Nat := w.levels.length - 1
/-- The mode a warp runs in (R31). -/
def Warp.modeNow (w : Warp) : Mode := if w.depth = 0 then w.mode else .handler
def modeCode : Mode → Nat
  | .user => 0 | .handler => 1 | .supervisor => 2

/-- Applies `g` to the frame with instance number `fid`, at whatever level it stands. -/
def Warp.updFid (w : Warp) (fid : Nat) (g : Frame → Frame) : Warp :=
  { w with levels := w.levels.map (fun lv => match lv.frame with
      | some f => if f.fid = fid then { lv with frame := some (g f) } else lv
      | none => lv) }
/-- The level whose frame has instance number `fid`. -/
def Warp.levelOf (w : Warp) (fid : Nat) : Option Level :=
  w.levels.find? (fun lv => match lv.frame with
    | some f => f.fid == fid
    | none => false)
/-- Adds an entry to the completion record of the level whose frame has instance number `fid` (R87). -/
def Warp.record (w : Warp) (fid : Nat) (e : RecE) : Warp :=
  { w with levels := w.levels.map (fun lv => match lv.frame with
      | some f => if f.fid = fid then { lv with rcd := lv.rcd.filter (fun q => !(q.slot == e.slot && q.lane == e.lane)) ++ [e] } else lv
      | none => lv) }

def State.updWarp (s : State) (wid : Nat) (g : Warp → Warp) : State :=
  match s.warp wid with
  | some w => s.setWarp wid (g w)
  | none => s
def State.updFid (s : State) (wid fid : Nat) (g : Frame → Frame) : State := s.updWarp wid (fun w => w.updFid fid g)
/-- The frame instance of a warp. -/
def State.fidFrame (s : State) (wid fid : Nat) : Option Frame :=
  match s.warp wid with
  | some w => match w.levelOf fid with
    | some lv => lv.frame
    | none => none
  | none => none

/-- The slot the cursor names, with its warp, level and frame. -/
structure Env where
  wid : Nat
  slot : Nat
  w : Warp
  lv : Level
  f : Frame
  deriving DecidableEq, Repr

/-- The cursor names a slot of a running, unfrozen frame. -/
def State.env? (s : State) : Option Env :=
  match s.cur with
  | none => none
  | some c => match s.warp c.wid with
    | none => none
    | some w => match w.levels with
      | [] => none
      | lv :: _ => match lv.frame with
        | none => none
        | some f => if f.vec.isNone && decide (w.stat = .ready) && decide (c.slot < f.blk.nslot)
                    then some ⟨c.wid, c.slot, w, lv, f⟩ else none

/-- The frame of the slot goes back; the warp has dispatched (R329). -/
def State.putFrame (s : State) (e : Env) (f : Frame) : State :=
  s.setWarp e.wid { (e.w.setFrame f) with lastDispatch := s.time, raised := 0 }

/-- What a slot made of the frame goes back; where it resolved or fired in no lane, nothing was dispatched. -/
def State.dispatch (s : State) (e : Env) (f : Frame) : State := if f = e.f then s else s.putFrame e f

def State.fresh (s : State) : Nat × State := (s.nextId, { s with nextId := s.nextId + 1 })

/-! ## Work around a warp -/

def State.wgOf (s : State) (w : Warp) : Option Wg := mget s.wgs w.wg
def State.coreOf (s : State) (w : Warp) : Nat :=
  match mget s.wgs w.wg with
  | some g => g.core
  | none => 0
def State.hallOf (s : State) (w : Warp) : Nat := hallOfCore (s.coreOf w)
def State.gridOf (s : State) (w : Warp) : Option Grid :=
  match mget s.wgs w.wg with
  | some g => mget s.grids g.gid
  | none => none
/-- The placed slice that a workgroup belongs to (R291). -/
def State.sliceOf (s : State) (wg : Nat) : Option Slice := s.slices.find? (fun x => x.placed && x.wgs.contains wg)
/-- SEQ of a fault record (R336): zero for a slice warp (R291). -/
def State.seqOf (s : State) (w : Warp) : Nat :=
  match s.gridOf w with
  | some g => match g.kind with
    | .slice _ => 0
    | .alcove => 0
    | _ => g.seq
  | none => 0

/-- The recorder of a core's hall notes an event of the core (R365). -/
def State.noteCore (s : State) (core code : Nat) (ctx : Option Nat) (detail : Word) : State :=
  s.note (hallOfCore core) code ctx (core / 8 % 13 * 256 + core % 8) detail

/-! ## Discarding a frame (R88) -/

/-- Drops the accesses in flight of a frame. -/
def State.dropAccs (s : State) (wid fid : Nat) : State :=
  { s with accs := s.accs.filter (fun p => !(p.2.wid == wid && p.2.fid == fid)) }

/-- The innermost frame is dropped with its buffered stores; the completion record stays (R87, R88). -/
def State.discardTop (s : State) (wid : Nat) : State :=
  match s.warp wid with
  | none => s
  | some w =>
    let s1 := match w.frame with
      | some f => s.dropAccs wid f.fid
      | none => s
    s1.setWarp wid (w.setTop (fun lv => { lv with frame := none }))

/-! ## Fetching (R290, R310) -/

def Fetching.idle : Fetching := { waits := [], fails := [], tiles := [], away := [], got := [] }
/-- A fetch waits for recipe lines and for lines of fill entries. -/
def Fetching.wait (f : Fetching) (recipes lines : List Nat) : Fetching := { f with waits := recipes, away := lines }
/-- The slice of the recipe that holds some of the bytes has failed. -/
def Fetching.fail (f : Fetching) (hit : Nat → Bool) (cause : BitVec 8) : Fetching :=
  { f with waits := f.waits.filter (fun a => !hit a), fails := f.fails ++ (f.waits.filter hit).map (fun a => (a, cause)) }
/-- A slice has passed: the lines of its recipe come, as `line` gives them. -/
def Fetching.pass (f : Fetching) (hit : Nat → Bool) (line : Nat → CLine) : Fetching :=
  { f with waits := f.waits.filter (fun a => !hit a), tiles := f.tiles ++ (f.waits.filter hit).map (fun a => (a / 128, line a)) }
/-- A line has come to the fill entry on which the fetch waits. -/
def Fetching.arrive (f : Fetching) (ln : Nat) (c : CLine) : Fetching :=
  if f.away.contains ln then { f with away := f.away.filter (· != ln), got := f.got.filter (fun g => g.1 != ln) ++ [(ln, c)] } else f

/-! ## Delivering to a frame instance -/

/-- A cause is delivered to a warp: MEMORY_POISON is recorded (R366). -/
def State.notePois (s : State) (w : Warp) (cause : BitVec 8) (info : Word) : State :=
  if cause = cMemoryPoison then s.noteCore (s.coreOf w) 0x0003 (some w.ctx) info else s

/-- Delivers a token of an access or wait to a lane of its slot, and marks the lane resolved. `snk`: a poison also
poisons the sink; `keep`: the effect was performed and is recorded (R87). -/
def State.deliverTo (s : State) (wid fid slot lane : Nat) (t : Tok) (dep : Nat) (snk keep : Bool) : State :=
  match s.warp wid with
  | none => s
  | some w =>
    let w1 := w.updFid fid (fun f => (f.put slot lane (f.targets slot) snk dep (.out t)).markDone slot lane)
    let w2 := if keep then w1.record fid { slot := slot, lane := lane, t0 := some t, t1 := none, waiting := none, dep := dep } else w1
    (match t with
     | .poison _ c info => s.notePois w c info
     | _ => s).setWarp wid w2

/-- What a slot read once for its warp goes to every lane in which it has fired, and is kept for those that fire later (R19, R126). -/
def State.deliverShared (s : State) (wid fid slot : Nat) (t : Tok) : State :=
  match s.warp wid with
  | none => s
  | some w =>
    let give (f : Frame) : Frame :=
      (lanesOf (mgetD f.fired slot 0 &&& ~~~(mgetD f.done slot 0))).foldl (fun (f : Frame) l => (f.send (f.targets slot) l t s.stamp).markDone slot l)
        { f with samples := mset f.samples slot t }
    (match t with
     | .poison _ c info => s.notePois w c info
     | _ => s).updFid wid fid give

/-- The slot of a frame instance reads once for its whole warp: `GENK` (R126). -/
def State.readsOnce (s : State) (wid fid slot : Nat) : Bool :=
  match (s.warp wid).bind (fun w => (w.levelOf fid).bind (fun lv => lv.frame)) with
  | some f => fOp (f.word slot) == 0x004#9
  | none => false

/-- The first recorded token of a slot in a lane, of a level's completion record. -/
def Level.recorded (lv : Level) (slot lane : Nat) : Option RecE := lv.rcd.find? (fun q => q.slot == slot && q.lane == lane)

/-! ## Ending work -/

/-- A copy, a matrix operation or a gang access still names a workgroup's memory (R22, R26, R219). -/
def State.wgInUse (s : State) (wg : Nat) : Bool :=
  s.cores.any (fun p => p.2.chans.any (fun c => c.2.wg == wg || c.2.srcWg == wg || c.2.dstWg == wg) ||
    p.2.mres.any (fun r => r.wg == wg && (!r.ops.isEmpty || r.slaved != 0)))
  || s.warps.any (fun p => p.2.levels.any (fun lv => match lv.frame with
      | some f => f.waits.any (fun q => match q.2 with
          | .bar _ _ _ (.space (.scratch t) _) _ => t == wg && wg != p.2.wg
          | _ => false) || f.sinks.any (fun x => x.space == .scratch wg && wg != p.2.wg)
      | none => false) || p.2.stq.any (fun g => g.sinks.any (fun x => x.space == .scratch wg && wg != p.2.wg)))

/-- Frees an ended workgroup's scratch and tiles once nothing names them. -/
def State.reap (s : State) (wg : Nat) : State :=
  match mget s.wgs wg with
  | some g => if g.ended && !s.wgInUse wg then { s with wgs := mdel s.wgs wg } else s
  | none => s

/-- Frees the ended workgroups of a list that nothing names any more. -/
def State.reapAll (s : State) (l : List Nat) : State := l.foldl (fun (s : State) g => s.reap g) s
/-- The workgroups of a gang. -/
def State.gangWgs (s : State) (gang : Nat) : List Nat := ((mget s.gangs gang).map (·.wgs)).getD []

/-- The implicit `MREL` of a workgroup (R227): its reservation takes no more operations and frees with the last. -/
def State.mrelease (s : State) (core wg : Nat) : State :=
  s.updCore core (fun c =>
    let rs := c.mres.map (fun r => if r.wg = wg then { r with releasing := true } else r)
    { c with mres := rs.filter (fun r => !(r.releasing && r.ops.isEmpty && r.slaved == 0)) })

/-- A workgroup whose last warp has ended (R172): it counts as triggered and ended (R188). -/
def State.wgEnd (s : State) (wg : Nat) : State :=
  match mget s.wgs wg with
  | none => s
  | some g =>
    let s1 := { s with wgs := mset s.wgs wg { g with ended := true, warps := [] } }
    let s2 := s1.mrelease g.core wg
    let s3 := { s2 with grids := mupd s2.grids g.gid (fun x =>
      { x with endedWgs := x.endedWgs + 1, triggered := if g.triggered then x.triggered else x.triggered ++ [g.num] }) }
    let live := s3.wgs.any (fun p => p.2.gang == g.gang && !p.2.ended)
    let s4 := if live then s3 else { s3 with gangs := mupd s3.gangs g.gang (fun x => { x with stat := .ended }) }
    let s5 := match mget s4.grids g.gid with
      | some gr => match gr.kind with
        | .stage q => (match mget s4.queues q with
          | some qq => (match qq.graph with
            | some n => { s4 with ctxs := mupd s4.ctxs qq.ctx (fun c => { c with graphs := mupd c.graphs n (fun y => { y with progress := true }) }) }
            | none => s4)
          | none => s4)
        | .plain => s4
        | _ => { s4 with gangs := mdel s4.gangs g.gang,
                         grids := if s4.wgs.any (fun p => p.2.gid == g.gid && !p.2.ended) then s4.grids else mdel s4.grids g.gid }
      | none => s4
    let s6 := if g.alcove then s5.updCore g.core (fun c => { c with alcWid := none }) else s5
    s6.reapAll (sadd (s.gangWgs g.gang) wg)

/-- Ends a warp: its frames, levels and divergence records go; the workgroup ends with its last warp (R172). -/
def State.warpEnd1 (s : State) (wid : Nat) : State :=
  match s.warp wid with
  | none => s
  | some w =>
    let s1 := { s with warps := mdel s.warps wid, accs := s.accs.filter (fun p => p.2.wid != wid) }
    match mget s1.wgs w.wg with
    | none => s1
    | some g =>
      let ws := sdel g.warps wid
      let s2 := { s1 with wgs := mset s1.wgs w.wg { g with warps := ws } }
      let s3 := s2.updCore g.core (fun c => { c with mres := c.mres.map (fun r => if r.held = some wid then { r with held := none } else r) })
      if ws.isEmpty then s3.wgEnd w.wg else s3

/-- Delivers one token to every active lane of a class U slot and marks them resolved. -/
def Frame.deliverAll (f : Frame) (slot : Nat) (ts : List (BitVec 9)) (t : Tok) (dep : Nat) : Frame :=
  (lanesOf f.mask).foldl (fun f l => (f.send ts l t dep).markDone slot l) f

/-- The slot is a poisoned sink with this poison, reported in lane `l` (R81, R89). -/
def Frame.failAll (f : Frame) (slot : Nat) (ts : List (BitVec 9)) (t : Tok) (l : Nat) : Frame :=
  (f.deliverAll slot ts t 0).poisonSink slot l t

/-- A poison that a warp's slot receives is recorded where its cause is MEMORY_POISON (R366). -/
def State.noteTok (s : State) (wid : Nat) (t : Tok) : State :=
  match s.warp wid, t with
  | some w, .poison _ c info => s.notePois w c info
  | _, _ => s
/-- A command of a class U slot fails while it waits: poison to every active lane, not recorded (R87, R218). -/
def State.failSlot (s : State) (wid fid slot : Nat) (t : Tok) : State :=
  (s.noteTok wid t).updFid wid fid (fun f => ({ f with waits := f.waits.filter (fun q => q.1 != slot) } : Frame).failAll slot (f.targets slot) t (leaderOf f.mask))

/-- An access becomes poison: its lane of its slot, or its whole command, receives the cause, with a detail; an access that
would write poisons its sink (R83, R84). -/
def State.accFail (s : State) (aid : Nat) (cause : BitVec 8) (info : Word) : State :=
  match mget s.accs aid with
  | none => s
  | some a =>
    let t := faultTok a.slot cause info
    match a.kind with
    | .record _ _ => { s.failSlot a.wid a.fid a.slot t with accs := mdel s.accs aid }
    | .barrier _ => { s.failSlot a.wid a.fid a.slot t with accs := mdel s.accs aid }
    | .atomic _ _ _ _ _ => { s.deliverTo a.wid a.fid a.slot a.lane t 0 true false with accs := mdel s.accs aid }
    | .load _ =>
      if s.readsOnce a.wid a.fid a.slot then { s.deliverShared a.wid a.fid a.slot t with accs := mdel s.accs aid }
      else { s.deliverTo a.wid a.fid a.slot a.lane t 0 false false with accs := mdel s.accs aid }
    | .store _ => { s.deliverTo a.wid a.fid a.slot a.lane t 0 true false with accs := mdel s.accs aid }

/-- A slice fails (R295): its warps end, its staging copy is dropped, RUN returns to 0, and every waiting miss receives
the cause: an access its poison, an instruction fetch its fault, a copy its mark (R290). -/
def State.sliceFail (s : State) (x : Slice) (cause : BitVec 8) : State :=
  let s1 := x.wgs.foldl (fun (s : State) g => (match mget s.wgs g with
    | some y => y.warps.foldl (fun (s : State) w => s.warpEnd1 w) s
    | none => s)) { s with slices := s.slices.filter (fun y => !(y.ctx == x.ctx && y.idx == x.idx)) }
  let s2 := s1.updRecipe x.ctx x.idx (fun r => { r with run := false })
  let waits (p : Nat × Access) : Bool := p.2.stat == .recipe x.idx && (match s2.warp p.2.wid with
    | some w => w.ctx == x.ctx
    | none => false)
  let s3 := (s2.accs.filter waits).foldl (fun (s : State) p => s.accFail p.1 cause (BitVec.ofNat 64 p.2.va)) s2
  let hit (ctx a : Nat) : Bool := ctx == x.ctx && (match mget s3.ctxs x.ctx with
    | some c => (match c.recipeAt a with
      | some q => q.1 == x.idx
      | none => false)
    | none => false)
  let fetch (w : Warp) : Warp := { w with fetch := w.fetch.fail (hit w.ctx) cause }
  let copy (q : Copy) : Copy := match q.wait with
    | some (i, ln) => if q.ctx = x.ctx ∧ i = x.idx then { q with wait := none, failed := q.failed ++ [ln] } else q
    | none => q
  { s3 with warps := s3.warps.map (fun p => (p.1, fetch p.2)),
            cores := s3.cores.map (fun p => (p.1, { p.2 with chans := p.2.chans.map (fun q => (q.1, copy q.2)) })) }

/-- Ends a warp; a slice warp that ends without `RECDONE` makes its slice fail (R251, R295). -/
def State.warpEnd (s : State) (wid : Nat) : State :=
  match s.warp wid with
  | none => s
  | some w => match s.sliceOf w.wg with
    | some x => if x.doneWids.contains wid then s.warpEnd1 wid else (s.warpEnd1 wid).sliceFail x cRecipeFailed
    | none => s.warpEnd1 wid

/-! ## Stopping a context (R32, R101, R363) -/

/-- Everything of a context that runs ends: warps, workgroups, gangs, accesses, copies, matrix operations, slices. Its
grids never complete; queues, recipe table and memory stay (R321, R363). -/
def State.endContextWork (s : State) (ctx : Nat) : State :=
  let mine (wg : Nat) : Bool := match mget s.wgs wg with
    | some g => g.ctx == ctx
    | none => false
  let mineW (wid : Nat) : Bool := match s.warp wid with
    | some w => w.ctx == ctx
    | none => false
  let mineG (g : Nat) : Bool := match mget s.gangs g with
    | some gg => (match mget s.grids gg.gid with
      | some gr => gr.ctx == ctx
      | none => true)
    | none => true
  { s with
    cores := s.cores.map (fun p => (p.1, { p.2 with chans := p.2.chans.filter (fun q => q.2.ctx != ctx),
                                                    mres := p.2.mres.filter (fun r => !mine r.wg),
                                                    alcWid := p.2.alcWid.filter (fun w => !mineW w),
                                                    resv := p.2.resv.filter (fun g => !mineG g) })),
    accs := s.accs.filter (fun p => !mineW p.2.wid),
    warps := s.warps.filter (fun p => p.2.ctx != ctx),
    wgs := s.wgs.filter (fun p => p.2.ctx != ctx),
    gangs := s.gangs.filter (fun p => match mget s.grids p.2.gid with
      | some g => g.ctx != ctx
      | none => true),
    slices := s.slices.filter (fun x => x.ctx != ctx),
    walks := s.walks.filter (fun x => x.ctx != ctx) }

/-- UNIT of an event of a core: its cluster in the hall and its number there (R365). -/
def coreUnit (core : Nat) : Nat := core / 8 % 13 * 256 + core % 8
/-- The context stops with CONTEXT_FATAL: a record of kind 4 with the original cause, and recorder event 0x0031 in a hall's recorder. -/
def State.contextStop (s : State) (ctx : Nat) (code cause : BitVec 8) (w0lo : Nat) (block : Word) (r unit : Nat) : State :=
  match mget s.ctxs ctx with
  | none => s
  | some c =>
    if c.stopped then s else
    let s0 := { s with ctxs := mset s.ctxs ctx { c with stopped := true } }
    let s1 := (c.recipes.filter (fun p => p.2.run)).foldl (fun (s : State) p => s.updRecipe ctx p.1 (fun r => { r with run := false })) s0
    let w0 := recWord0 4 code.toNat ctx 0 0 0 0 0 ||| BitVec.ofNat 64 w0lo
    let s2 := s1.postStop ctx { ctx := ctx, w0 := w0, info := zx (cause.zeroExtend 64) 8, block := block, handle := 0 }
    (s2.note r 0x0031 (some ctx) unit (cause.zeroExtend 64)).endContextWork ctx

/-! ## Taking an exception -/

def Window.empty : Window :=
  { a := [], b := [], c := [], p := [], kind := [], mask := 0, insn := 0, lit := 0, slot := 0, cause := 0, depth := 0, block := 0,
    info := 0, d0 := [], d1 := [], dkind := [] }

/-- A level entered at a handler's entry block, with the lanes of the path below it, undiverged (R271, R101). -/
def handlerLevel (kind : LvlKind) (entry : Nat) (mask : Lanes) (win : Window) : Level :=
  { kind := kind, pc := BitVec.ofNat 64 entry, mask := mask, returned := 0, exited := 0, div := [], frame := none, rcd := [], win := win,
    spilled := false, hold := false }

/-- The frames of a core that a warp's levels occupy: its own, and a shadow frame for each handler level, of either handler, less those
moved to the spill area (R101, R328). -/
def Warp.framesUsed (w : Warp) : Nat := (w.levels.filter (fun lv => !lv.spilled)).length
/-- The spare frames of a core that shadow frames hold: what the levels of its warps occupy beyond one frame each (R328). -/
def State.shadows (s : State) (core : Nat) : Nat :=
  ((mvals s.warps).filter (fun w => s.coreOf w == core)).foldl (fun a w => a + (w.framesUsed - 1)) 0
/-- The other declared warp of a width-16 slot, while it lives. -/
def State.partner (s : State) (wid : Nat) (w : Warp) : Option (Nat × Warp) :=
  if w.width = 16 then
    let p := if w.idx % 2 = 0 then wid + 1 else wid - 1
    match s.warp p with
    | some v => if v.wg = w.wg ∧ v.idx / 2 = w.idx / 2 then some (p, v) else none
    | none => none
  else none
/-- The pairs of a core, by their second warps, in the order of their warps' starting. -/
def State.pairsOn (s : State) (core : Nat) : List Nat :=
  (s.warps.filter (fun p => decide (p.2.width = 16) && p.2.idx % 2 == 1 && s.coreOf p.2 == core && (s.partner p.1 p.2).isSome)).map (·.1)
/-- The oldest frozen frame of a core that is not in the spill area: its instance number. -/
def State.oldestFrozen (s : State) (core : Nat) : Option Nat :=
  let l := ((mvals s.warps).filter (fun w => s.coreOf w == core)).map (fun w => w.levels.filterMap (fun lv => match lv.frame with
    | some f => if f.vec.isSome && !lv.spilled then some f.fid else none
    | none => none))
  match l.flatten with
  | [] => none
  | x :: r => some (r.foldl min x)
/-- Marks the innermost level below the top that stands without a frame: the frame that it keeps serves its handler level. -/
def spillEmpty : List Level → List Level
  | [] => []
  | lv :: r => if lv.frame.isNone && !lv.spilled then { lv with spilled := true } :: r else lv :: spillEmpty r
def Warp.spillEmpty (w : Warp) : Warp :=
  match w.levels with
  | lv :: r => { w with levels := lv :: Machine.spillEmpty r }
  | [] => w
/-- A shadow frame that finds none of the 7 spare frames free, beside those that the second warps of width-16 slots hold, takes the
place of the core's oldest frozen frame, which moves to the spill area (R328). Where no frame of the core is frozen, a trap-handler level
runs in the empty frame of the level below it (DESIGN CHOICE, log entry 28). -/
def State.spillFrame (s : State) (core : Nat) : State :=
  let n := s.shadows core
  if n + min (s.pairsOn core).length (8 - n) ≤ 7 then s
  else match s.oldestFrozen core with
    | none => (match s.warps.find? (fun p => s.coreOf p.2 == core && p.2.spillEmpty != p.2) with
        | some p => s.setWarp p.1 p.2.spillEmpty
        | none => s)
    | some fid => { s with warps := s.warps.map (fun p => (p.1, { p.2 with levels := p.2.levels.map (fun lv => match lv.frame with
        | some f => if f.fid = fid then { lv with spilled := true } else lv
        | none => lv) })) }

/-- The fields of a fault record that name a warp's level, mode and grid (R336). -/
def State.recOf (s : State) (w : Warp) (kind : Nat) (cause : BitVec 8) (slot lane : Nat) : Word :=
  recWord0 kind cause.toNat w.ctx w.depth (modeCode w.modeNow) slot lane (s.seqOf w)

/-- A warp stops its context: an absent handler (R32) or a fault in a trap handler (R101). -/
def State.fatalBy (s : State) (w : Warp) (cause : BitVec 8) (slot lane : Nat) (block : Word) : State :=
  s.contextStop w.ctx cContextFatal cause (s.recOf w 0 0 slot lane).toNat block (s.hallOf w) (coreUnit (s.coreOf w))

/-- A cause destined for the fault queue (R100): the block is discarded, a record of kind 0 is posted with a new resume
handle, and the warp parks until `FRESUME`. -/
def State.park (s : State) (wid : Nat) (cause : BitVec 8) (slot lane : Nat) (info block : Word) : State :=
  match s.warp wid with
  | none => s
  | some w =>
    let h : Word := BitVec.ofNat 64 s.nextId
    let s1 := { (s.discardTop wid) with nextId := s.nextId + 1 }
    let s2 := s1.updWarp wid (fun w => { w with stat := .parked h, fetch := Fetching.idle })
    s2.post { ctx := w.ctx, w0 := s.recOf w 0 cause slot lane, info := info, block := block, handle := h }

/-- A cause destined for the trap handler (R101): a slice warp's slice fails (R295); with the entry absent, in a
trap-handler level or at depth 2 the context stops (R101, R281); else the block is discarded and the warp enters the trap
handler's entry block in a new level with the window of R20. -/
def State.enterTrap (s : State) (wid : Nat) (cause : BitVec 8) (slot lane : Nat) (info block : Word) (mask : Lanes) : State :=
  match s.warp wid with
  | none => s
  | some w =>
    match s.sliceOf w.wg with
    | some x => s.sliceFail x (if cause = cRecipeDiverged ∨ cause = cRecipeDepth then cause else cRecipeFailed)
    | none =>
      let inTrap := match w.top with
        | some lv => lv.kind == .trap
        | none => false
      match mget s.ctxs w.ctx with
      | none => s
      | some c => match c.cfg.trap with
        | none => s.fatalBy w cause slot lane block
        | some entry =>
          if inTrap || decide (2 ≤ w.depth) then s.fatalBy w cause slot lane block
          else
            let win := { Window.empty with mask := mask, slot := slot, cause := cause, depth := w.depth + 1, block := block, info := info }
            ((s.discardTop wid).updWarp wid (fun w => { w with levels := handlerLevel .trap entry mask win :: w.levels, fetch := Fetching.idle })).spillFrame (s.coreOf w)

/-- A trap of a warp, to the destination its cause code has in R100. -/
def State.takeTrap (s : State) (wid : Nat) (toQueue : Bool) (cause : BitVec 8) (slot lane : Nat) (info block : Word) (mask : Lanes) : State :=
  if toQueue then s.park wid cause slot lane info block else s.enterTrap wid cause slot lane info block mask

/-- The literal words that follow a `GENL`-like word: two where MOD[1:0] is 11, else one (R49, R125). -/
def Frame.lits (f : Frame) (slot : Nat) : Word :=
  if (fOp (f.word slot)).toNat = 5 then
    (if fMd (f.word slot) &&& 3#3 = 3#3 then (f.word (slot + 2)).zeroExtend 64 <<< 32 else 0) ||| (f.word (slot + 1)).zeroExtend 64
  else 0

/-- The kind code of an operand as the window shows it: absent where the slot takes none (R20, R272). -/
def Frame.kindCode (f : Frame) (port slot nops lane : Nat) (pm : BitVec 2) : Nat :=
  if port = 3 ∧ pm = 0#2 then 3
  else match f.tok port slot lane with
    | some t => if port = 3 ∨ port < nops ∨ (opRow (fOp (f.word slot)).toNat).isNone then t.code else 3
    | none => 3

/-- The window of an emulation entry (R272). -/
def Frame.window (f : Frame) (slot : Nat) (cause : BitVec 8) (mask : Lanes) (depth : Nat) : Window :=
  let w := f.word slot
  let nops := ((opRow (fOp w).toNat).map (·.nops)).getD 3
  let pm := if fmtOf w == .K then 0#2 else fPm w
  let per (port : Nat) : NMap Word := (lanesOf mask).map (fun l => (l, if f.kindCode port slot nops l pm = 3 then 0 else f.opVal port slot l))
  { Window.empty with
    a := per 0, b := per 1, c := per 2, p := per 3,
    kind := (lanesOf mask).map (fun l => (l, BitVec.ofNat 64 (f.kindCode 0 slot nops l pm + 4 * f.kindCode 1 slot nops l pm
      + 16 * f.kindCode 2 slot nops l pm + 64 * f.kindCode 3 slot nops l pm))),
    mask := mask, insn := w, lit := f.lits slot, slot := slot, cause := cause, depth := depth, block := f.blk.addr }

/-- Entering the emulation handler (R268 to R272): the frame freezes; at depth 2 the slot raises EMU_NEST instead (R280);
with the entry absent the context stops (R32); a record that finds no room makes the warp wait (R335). EMU_NEST has no reported lane of
R89: its record names the lowest lane of `ow.mask` (DESIGN CHOICE, log entry 30). `drain` holds entry back until the matrix operations accepted have
retired (R269). -/
def State.enterEmu (s : State) (wid slot : Nat) (cause : BitVec 8) (mask : Lanes) (drain : Bool) : State :=
  match s.warp wid with
  | none => s
  | some w => match w.top with
    | none => s
    | some lv => match lv.frame with
      | none => s
      | some f =>
        if 2 ≤ w.depth then (if s.postRoom w.ctx then s.park wid cEmuNest slot (leaderOf mask) 0 f.blk.addr else s)
        else match mget s.ctxs w.ctx with
          | none => s
          | some c => match c.cfg.emu with
            | none => if s.postRoom w.ctx then s.fatalBy w cause slot (leaderOf mask) f.blk.addr else s
            | some entry =>
              let frozen := w.setFrame { f with vec := some { slot := slot, cause := cause, mask := mask, drain := drain } }
              if drain then
                (s.setWarp wid frozen).updCore (s.coreOf w) (fun k => { k with mres := k.mres.map (fun r =>
                  if r.wg = w.wg ∧ r.releasing = false then { r with held := some wid } else r) })
              else
                let lv1 := handlerLevel .emu entry f.mask (f.window slot cause mask (w.depth + 1))
                (s.setWarp wid { frozen with levels := lv1 :: frozen.levels }).spillFrame (s.coreOf w)

/-! ## A class L slot (R79, R268) -/

/-- Sends recorded tokens to a slot's targets in a lane, first and second (R87, R278). -/
def Frame.sendRec (f : Frame) (ts : List (BitVec 9)) (l : Nat) (r : RecE) : Frame :=
  let f1 := match r.t0, ts with
    | some t, tg :: _ => f.send1 l t r.dep tg
    | _, _ => f
  match r.t1, ts with
  | some t, _ :: tg :: _ => f1.send1 l t r.dep tg
  | _, _ => f1

/-- A class L slot that vectors (R75, R268): lanes that the predicate turns off resolve as they come, and lanes whose tokens
the completion record holds receive them again (R278); the others are held, and once every active lane is resolved or held,
and one is held, the frame freezes. -/
def State.vectorP (s : State) (e : Env) (pm : BitVec 2) (ports : List Nat) (ts : List (BitVec 9)) (snk : Bool) (cause : BitVec 8) : State :=
  let f1 := (lanesOf e.f.mask).foldl (fun f l => match f.laneGoP e.slot ports pm l with
    | .wait => f
    | .off => (f.send ts l .null (f.dep 3 e.slot l)).markDone e.slot l
    | .pois t => (f.put e.slot l ts snk 0 (.out t)).markDone e.slot l
    | .fire => match e.lv.recorded e.slot l with
      | some r =>
        let g := (f.sendRec ts l r).markDone e.slot l
        (match r.t0 with
         | some t => if t.isPoison && snk then g.poisonSink e.slot l t else g
         | none => g)
      | none => f.markFired e.slot l) e.f
  let held := (mgetD f1.fired e.slot 0) &&& ~~~(mgetD f1.done e.slot 0) &&& f1.mask
  let s1 := s.dispatch e f1
  if held ≠ 0 ∧ (mgetD f1.done e.slot 0 ||| held) &&& f1.mask = f1.mask then s1.enterEmu e.wid e.slot cause held false else s1
def State.vectorL (s : State) (e : Env) (pm : BitVec 2) (nops : Nat) (ts : List (BitVec 9)) (snk : Bool) (cause : BitVec 8) : State :=
  s.vectorP e pm (List.range nops) ts snk cause

/-- The cause with which a class L slot vectors: PM 11 and reserved encodings before those not in hardware (R75). -/
def vecCause (pm : BitVec 2) (reserved disabled : Bool) : Option (BitVec 8) :=
  if pm = 3#2 || reserved then some cEmuReserved else if disabled then some cEmuDisabled else none

/-- The meaning of a class L slot whose effect lies within its frame. -/
def slotL (s : State) (pm : BitVec 2) (reserved : Bool) (nops : Nat) (ts : List (BitVec 9)) (snk : Bool)
    (fn : Env → Frame → Nat → Word → Word → Word → LaneOut) : Out :=
  match s.env? with
  | none => .refused .noSlot
  | some e => ran s (match vecCause pm reserved false with
    | some c => s.vectorL e pm nops ts snk c
    | none => s.dispatch e (e.f.fireAll e.slot nops pm ts snk (fn e)))

/-- One active lane at a time, lowest first, for a class L slot that acts on memory: `k` is given the lanes that fire with
values and for which the orders of `ok` hold; the other lanes resolve by R79 and R80. -/
def State.foldLanes (s : State) (e : Env) (pm : BitVec 2) (nops : Nat) (ts : List (BitVec 9)) (snk : Bool)
    (ok : State → Nat → Word → Word → Word → Bool) (k : State → Nat → Word → Word → Word → State) : State :=
  (lanesOf e.f.mask).foldl (fun s l =>
    match s.fidFrame e.wid e.f.fid with
    | none => s
    | some f =>
      match f.laneGo e.slot nops pm l with
      | .wait => s
      | .off => s.updFid e.wid e.f.fid (fun f => (f.send ts l .null (f.dep 3 e.slot l)).markDone e.slot l)
      | .pois t => s.updFid e.wid e.f.fid (fun f => (f.put e.slot l ts snk 0 (.out t)).markDone e.slot l)
      | .fire =>
        if hasLane (mgetD f.fired e.slot 0) l then s
        else
          let ops := f.ops e.slot nops l
          let s1 := s.updFid e.wid e.f.fid (fun f => f.markFired e.slot l)
          let a := f.opVal 0 e.slot l
          let b := f.opVal 1 e.slot l
          let c := f.opVal 2 e.slot l
          match ops.find? Tok.isPoison with
          | some t => s1.updFid e.wid e.f.fid (fun f => (f.put e.slot l ts snk 0 (.out t)).markDone e.slot l)
          | none =>
            if ops.contains .null then s1.updFid e.wid e.f.fid (fun f => (f.send ts l .null (f.opDep e.slot nops l)).markDone e.slot l)
            else if ok s l a b c then k s1 l a b c else s) s

/-- Some lane of the slot resolves without firing, or may fire. -/
def State.anyLane (s : State) (e : Env) (pm : BitVec 2) (nops : Nat) (ok : State → Nat → Word → Word → Word → Bool) : Bool :=
  (lanesOf e.f.mask).any (fun l => match e.f.laneGo e.slot nops pm l with
    | .wait => false
    | .off => true
    | .pois _ => true
    | .fire => !hasLane (mgetD e.f.fired e.slot 0) l &&
        ((e.f.ops e.slot nops l).any (fun t => t.isPoison || t == .null) || ok s l (e.f.opVal 0 e.slot l) (e.f.opVal 1 e.slot l) (e.f.opVal 2 e.slot l)))

/-- The meaning of a class L slot that acts on memory: each lane resolves as its own tokens arrive (R79). `ok`: the orders of R256 and
R257 that a lane with values waits for; until they hold, nothing happens in the lane. -/
def slotM (s : State) (pm : BitVec 2) (reserved : Bool) (nops : Nat) (ts : List (BitVec 9)) (snk : Bool)
    (ok : Env → State → Nat → Word → Word → Word → Bool) (k : Env → State → Nat → Word → Word → Word → State) : Out :=
  match s.env? with
  | none => .refused .noSlot
  | some e => ran s (match vecCause pm reserved false with
    | some c => s.vectorL e pm nops ts snk c
    | none => if (s.putFrame e e.f).anyLane e pm nops (ok e) then (s.putFrame e e.f).foldLanes e pm nops ts snk (ok e) (k e) else s)

/-- Every active lane of a slot is resolved or has all its tokens. -/
def Env.allArrived (e : Env) (nops : Nat) (pm : BitVec 2) : Bool :=
  (lanesOf e.f.mask).all (fun l => e.f.doneIn e.slot l || decide (e.f.laneGo e.slot nops pm l ≠ .wait))
/-- Every participant of a lane operation has received its predicate and every operand, whatever their kinds (R143). -/
def Env.allTokens (e : Env) (nops : Nat) (pm : BitVec 2) : Bool :=
  (lanesOf e.f.mask).all (fun l => e.f.doneIn e.slot l ||
    ((List.range nops).all (fun p => (e.f.tok p e.slot l).isSome) && (decide (pm = 0#2) || (e.f.tok 3 e.slot l).isSome)))

/-! ## A class U slot (R81, R269) -/

/-- What a class U command comes to when it is performed. -/
inductive UOut where
  /-- performed; the value goes to every active lane, and is recorded (R87) -/
  | done (v : Word)
  /-- performed; no value -/
  | quiet
  /-- a check failed: poison to every active lane, not recorded (R218) -/
  | fail (cause : BitVec 8) (info : Word)
  /-- performed so far; the slot waits -/
  | waits (w : Wait)
  /-- not performed yet: what it waits for, such as a release of earlier stores, has not happened -/
  | hold
  /-- performed so far; an access that it began ends it -/
  | began
  deriving DecidableEq, Repr

/-- The newest stamp that a class U slot's squash derives from: the predicates of every active lane, and the leader's operands (R261). -/
def Frame.uDep (f : Frame) (slot nops : Nat) : Nat :=
  (lanesOf f.mask).foldl (fun a l => max a (f.dep 3 slot l)) (f.opDep slot nops (leaderOf f.mask))
def Frame.predReady (f : Frame) (slot : Nat) (pm : BitVec 2) : Bool :=
  pm == 0#2 || (lanesOf f.mask).all (fun l => (f.tok 3 slot l).isSome)
/-- The lowest active lane whose predicate is poison. -/
def Frame.predPoison (f : Frame) (slot : Nat) (pm : BitVec 2) : Option (Nat × Tok) :=
  if pm = 0#2 then none
  else ((lanesOf f.mask).filterMap (fun l => match f.tok 3 slot l with
    | some (.poison a b c) => some (l, Tok.poison a b c)
    | _ => none)).head?
/-- The quantifier of R64 over the active lanes; a null predicate counts as false. -/
def Frame.quant (f : Frame) (slot : Nat) (pm : BitVec 2) : Bool :=
  let t (l : Nat) : Bool := match f.tok 3 slot l with
    | some (.value v) => v.getLsbD 0
    | _ => false
  if pm = 0#2 then true
  else if pm = 1#2 then (lanesOf f.mask).any t
  else if pm = 2#2 then (lanesOf f.mask).all t
  else !(lanesOf f.mask).any t

def State.putTop (s : State) (wid : Nat) (g : Frame → Frame) : State :=
  s.updWarp wid (fun w => match w.frame with
    | some f => w.setFrame (g f)
    | none => w)

/-- The lowest active lane in which an operand is poison (R119). -/
def Frame.polluted (f : Frame) (slot port : Nat) : Option (Nat × Tok) :=
  ((lanesOf f.mask).filterMap (fun l => match f.tok port slot l with
    | some (.poison a b c) => some (l, Tok.poison a b c)
    | _ => none)).head?

/-- The innermost frame waits for the drain that comes before its handler's entry (R269). -/
def Warp.draining (w : Warp) : Bool := (w.frame.bind (·.vec)).any (·.drain)
/-- The frame stands in the innermost handler level that holds the matrix reservation, or in a level nested above it, and no vector of
the warp waits for its drain (R269). -/
def Warp.inHold (w : Warp) (fid : Nat) : Bool :=
  !w.draining && (match w.levels.findIdx? (·.hold) with
    | some i => (w.levels.take (i + 1)).any (fun lv => (lv.frame.map (·.fid)) == some fid)
    | none => false)
/-- The matrix reservation of the workgroup is held by a vector that holds this command back: that of another warp, or one inside whose
level the command does not stand (R269). -/
def Env.heldOut (e : Env) (c : Core) : Bool := c.mres.any (fun r => r.wg == e.w.wg && !r.releasing && (match r.held with
  | some h => h != e.wid || !e.w.inHold e.f.fid
  | none => false))

/-- A class U slot is resolved already, or waits already. -/
def Env.uBusy (e : Env) : Bool :=
  e.f.doneIn e.slot (leaderOf e.f.mask) || e.f.waits.any (fun q => q.1 == e.slot)

/-- Applies what a performed command came to. -/
def State.uApply (s : State) (wid fid slot : Nat) (ts : List (BitVec 9)) (o : UOut) : State :=
  match o with
  | .done v => (s.updFid wid fid (fun f => f.deliverAll slot ts (.value v) s.stamp)).updWarp wid (fun w =>
      w.record fid { slot := slot, lane := 64, t0 := some (.value v), t1 := some (.value v), waiting := none, dep := s.stamp })
  | .quiet => (s.updFid wid fid (fun f => f.deliverAll slot ts .null s.stamp)).updWarp wid (fun w =>
      w.record fid { slot := slot, lane := 64, t0 := some .null, t1 := none, waiting := none, dep := s.stamp })
  | .fail c i => (match s.warp wid with
      | some w => s.notePois w c i
      | none => s).updFid wid fid (fun f => f.failAll slot ts (faultTok slot c i) (leaderOf f.mask))
  | .hold => s
  | .began => s
  | .waits q => s.updFid wid fid (fun f => { f with waits := f.waits.filter (fun x => x.1 != slot) ++ [(slot, q)] })

/-- Replays a recorded command (R87): its tokens go to its targets again, an injected one's lane by lane, and injected poison
poisons the sink again (R276, R278). -/
def Frame.replay (f : Frame) (slot : Nat) (ts : List (BitVec 9)) (lv : Level) (r : RecE) : Frame :=
  let of (l : Nat) : RecE := (lv.recorded slot l).getD r
  let g := (lanesOf f.mask).foldl (fun f l => (f.sendRec ts l (of l)).markDone slot l) f
  match (lanesOf f.mask).filterMap (fun l => match (of l).t0, (of l).t1 with
    | some (.poison a b c), _ => some (l, Tok.poison a b c)
    | _, some (.poison a b c) => some (l, Tok.poison a b c)
    | _, _ => none) with
  | (l, t) :: _ => g.poisonSink slot l t
  | [] => g

/-- The meaning of a class U slot (R81). `allC`: the last operand must arrive in every active lane too (the scale operand of R119);
`drain` says that handler entry waits for the matrix operations accepted (R269); `perform` carries the
command out with the leader's values. -/
def slotU (s : State) (pm : BitVec 2) (reserved : Env → Bool) (disabled : Env → Bool) (nops : Nat) (ts : List (BitVec 9)) (allC drain : Bool)
    (perform : Env → State → Word → Word → Word → State × UOut) : Out :=
  match s.env? with
  | none => .refused .noSlot
  | some e =>
    let f := e.f
    let ld := leaderOf f.mask
    let every := (lanesOf f.mask).all (fun l => (List.range nops).all (fun p => (f.tok p e.slot l).isSome))
    let scales := (lanesOf f.mask).all (fun l => (f.tok (nops - 1) e.slot l).isSome)
    let lead := (List.range nops).all (fun p => (f.tok p e.slot ld).isSome)
    ran s (
      if e.uBusy || !f.predReady e.slot pm then s
      else if reserved e || disabled e then
        if !every then s
        else if (f.predPoison e.slot pm).isNone && !f.quant e.slot pm then s.putFrame e (f.deliverAll e.slot ts .null (f.uDep e.slot nops))
        else match e.lv.recorded e.slot 64 with
          | some r => s.putFrame e (f.replay e.slot ts e.lv r)
          | none =>
            if drain && e.heldOut (s.core (s.coreOf e.w)) then s
            else (s.putFrame e f).enterEmu e.wid e.slot (if reserved e then cEmuReserved else cEmuDisabled) f.mask drain
      else if !lead || (allC && !scales) then s
      else match f.predPoison e.slot pm with
        | some (l, t) => s.putFrame e (f.failAll e.slot ts t l)
        | none =>
          if !f.quant e.slot pm then s.putFrame e (f.deliverAll e.slot ts .null (f.uDep e.slot nops))
          else match (f.ops e.slot nops ld).find? Tok.isPoison with
            | some t => s.putFrame e (f.failAll e.slot ts t ld)
            | none => match (if allC then f.polluted e.slot (nops - 1) else none) with
             | some (l, t) => s.putFrame e (f.failAll e.slot ts t l)
             | none =>
              if (f.ops e.slot nops ld).contains .null then s.putFrame e (f.deliverAll e.slot ts .null (f.uDep e.slot nops))
              else match e.lv.recorded e.slot 64 with
                | some r => if r.waiting.isSome then
                    let p := perform e (s.putFrame e f) (f.opVal 0 e.slot ld) (f.opVal 1 e.slot ld) (f.opVal 2 e.slot ld)
                    (match p.2 with
                     | .hold => s
                     | o => p.1.uApply e.wid f.fid e.slot ts o)
                  else s.putFrame e (f.replay e.slot ts e.lv r)
                | none =>
                  let p := perform e (s.putFrame e f) (f.opVal 0 e.slot ld) (f.opVal 1 e.slot ld) (f.opVal 2 e.slot ld)
                  (match p.2 with
                   | .hold => s
                   | o => p.1.uApply e.wid f.fid e.slot ts o))

end Sys2Proof.Machine
end

