-- ==== Sys2Proof/Machine/Operands.lean ====
section
/-!
DEFINITION. Sys2Proof/Machine/Operands.lean: how the operands of the calculating instructions are read and where their
result goes (R103, R108, R122, R136).
-/
namespace Sys2Proof.Machine

/-- Width N of sets W, WU and WX (R122). -/
def widthOf (md : BitVec 3) : Nat := if md.getLsbD 0 then 64 else 32
/-- u(v): the low N bits, unsigned. -/
def uVal (md : BitVec 3) (v : Word) : Nat := v.toNat % 2 ^ widthOf md
/-- s(v): signed, or unsigned where MOD[1] is 1 (set WU). -/
def sVal (md : BitVec 3) (v : Word) : Int := if md.getLsbD 1 then (uVal md v : Int) else sint v (widthOf md)
/-- value(wrap(x, N)). -/
def wrapW (md : BitVec 3) (x : Int) : Word := wrapN x (widthOf md)
/-- MOD sets W, WU and WX: the values that are reserved (R65). -/
def resW (md : BitVec 3) : Bool := 2 ≤ md.toNat
def resWU (md : BitVec 3) : Bool := 4 ≤ md.toNat
/-- MOD set RN, and the others whose MOD[2] must be zero. -/
def resRN (md : BitVec 3) : Bool := md.getLsbD 2
/-- MOD set F. -/
def resF (md : BitVec 3) : Bool := md.extractLsb' 0 2 != 0#2
/-- sx(IMM12, 12). -/
def imm64 (imm : BitVec 12) : Word := imm.signExtend 64

/-- A slot that makes one value from the values of its operands and sends it to TA and TB. -/
def alu (s : State) (pm : BitVec 2) (reserved : Bool) (nops : Nat) (tb ta : BitVec 9) (fn : Word → Word → Word → Word) : Out :=
  slotL s pm reserved nops [ta, tb] false (fun _ _ _ a b c => .out (.value (fn a b c)))
/-- A slot of format I or M that makes one value and sends it to T. -/
def aluT (s : State) (pm : BitVec 2) (reserved : Bool) (nops : Nat) (t : BitVec 9) (fn : Word → Word → Word → Word) : Out :=
  slotL s pm reserved nops [t] false (fun _ _ _ a b c => .out (.value (fn a b c)))
/-- A slot of group G2 or G3 that vectors with EMU_DISABLED wherever it fires with a valid MOD and PM (R74, R158). -/
def aluOff (s : State) (pm : BitVec 2) (reserved : Bool) (nops : Nat) (tb ta : BitVec 9) : Out :=
  match s.env? with
  | none => .refused .noSlot
  | some e => ran s (s.vectorL e pm nops [ta, tb] false (if pm = 3#2 ∨ reserved then cEmuReserved else cEmuDisabled))

end Sys2Proof.Machine
end

