-- ==== Sys2Proof/Machine/Const.lean ====
section
/-!
DEFINITION. Sys2Proof/Machine/Const.lean: constants and special registers (R15 to R21, R124, R125, R129, R130).
-/
namespace Sys2Proof.Machine

/-! ## Special registers (R17) -/

/-- The numbers of R17 that every mode may read. -/
def sregUser : List Nat :=
  [0x000, 0x001, 0x002, 0x003, 0x004, 0x005, 0x008, 0x009, 0x00A, 0x00C, 0x00D, 0x00E, 0x010, 0x011, 0x012, 0x014, 0x015, 0x016,
   0x017, 0x018, 0x019, 0x020, 0x021, 0x022, 0x023, 0x024, 0x025, 0x040, 0x041, 0x042, 0x043, 0x044, 0x045]
/-- The numbers marked H: the operand window and h0 to h15. -/
def sregHandler (n : Nat) : Bool :=
  (decide (0x080 ≤ n) && decide (n ≤ 0x08C)) || (decide (0x090 ≤ n) && decide (n ≤ 0x092)) || (decide (0x0C0 ≤ n) && decide (n ≤ 0x0CF))
/-- The numbers marked W. -/
def sregWrite (n : Nat) : Bool := (decide (0x090 ≤ n) && decide (n ≤ 0x092)) || (decide (0x0C0 ≤ n) && decide (n ≤ 0x0CF))
/-- An `SREG` that R18 refuses. -/
def sregRefused (m : Mode) (n : Nat) : Bool := !(sregUser.contains n || (sregHandler n && m != .user))
/-- An `SWREG` that R18 refuses. -/
def swregRefused (m : Mode) (n : Nat) : Bool := !(sregWrite n && m != .user)

/-- Declared warps of a workgroup (R12). -/
def LaunchRec.declared (r : LaunchRec) : Nat := if r.width = 64 then r.warps / 2 else if r.width = 16 then 2 * r.warps else r.warps
/-- Bytes of a grid's hall store on a hall (R28, R319). -/
def LaunchRec.storeBytes (r : LaunchRec) : Nat := 65536 * r.hstore

/-- `cap.scratch` of a core (R25). -/
def Fuses.capScratch (f : Fuses) (core : Nat) : Nat := if f.noMezz.contains core then 0x200000 else 0x400000
/-- `cap.feat` of a core (R25). -/
def Fuses.capFeat (f : Fuses) (core : Nat) : Nat :=
  (if f.noPair.contains core then 0 else 16) + (if f.noMezz.contains core then 0 else 2) + (if f.mmani4 then 1 else 0)

/-- `clock`: the island's clocks since it left reset (R19); an island runs at 800 MHz until firmware changes it. -/
def State.clock (s : State) (core : Nat) : Word :=
  let c := s.core core
  toWord (c.clkBase + (s.time - max c.clkSince s.resetAt) * mgetD s.islands core 800 / 1000)

/-- The identity registers, by the launch record, the workgroup, its gang and its grid. -/
def sregIdentity (n core : Nat) (gr : Grid) (gg : Gang) (wg : Wg) : Nat :=
  let r := gr.lr
  match n with
  | 0x005 => r.declared
  | 0x008 => wg.num % r.gx
  | 0x009 => wg.num / r.gx % r.gy
  | 0x00A => wg.num / r.gx / r.gy
  | 0x00C => r.gx
  | 0x00D => r.gy
  | 0x00E => r.gz
  | 0x010 => wg.rank
  | 0x011 => r.gang
  | 0x012 => (match gr.kind with
    | .slice _ => 0
    | _ => gg.num)
  | 0x014 => gg.hallIx
  | 0x015 => r.halls
  | 0x016 => hallOfCore core
  | 0x017 => clusterOfCore core % 13
  | 0x018 => core % 8
  | 0x019 => core
  | 0x021 => gr.seq
  | 0x022 => r.prio
  | 0x023 => wg.size
  | 0x024 => wg.tiles
  | 0x025 => r.storeBytes
  | _ => 0

/-- The operand window of the innermost handler level; outside every level, R18's values. -/
def windowVal (w : Warp) (lv : Level) (n l : Nat) : Word :=
  let win := lv.win
  if w.depth = 0 then (if n = 0x084 then 0xFF else 0)
  else match n with
    | 0x080 => mgetD win.a l 0
    | 0x081 => mgetD win.b l 0
    | 0x082 => mgetD win.c l 0
    | 0x083 => mgetD win.p l 0
    | 0x084 => if lv.kind = .emu then mgetD win.kind l 0xFF else 0
    | 0x085 => win.mask
    | 0x086 => win.insn.zeroExtend 64
    | 0x087 => win.lit
    | 0x088 => toWord win.slot
    | 0x089 => win.cause.zeroExtend 64
    | 0x08A => toWord win.depth
    | 0x08B => win.block
    | 0x08C => win.info
    | 0x090 => mgetD win.d0 l 0
    | 0x091 => mgetD win.d1 l 0
    | _ => mgetD win.dkind l 0

/-- `clock` or `time`: what the slot sampled once for the warp, or what it samples now (R19). -/
def Env.sampled (e : Env) (now : Word) : Word :=
  match mget e.f.samples e.slot with
  | some t => t.val
  | none => now

/-- The value of special register `n` in lane `l` (R17), as it stood when the block started (R129). -/
def State.sregVal (s : State) (e : Env) (n l : Nat) : Word :=
  let core := e.f.start.core
  match n with
  | 0x000 => toWord l
  | 0x001 => lowLanes l
  | 0x002 => toWord e.w.idx
  | 0x003 => toWord e.w.width
  | 0x004 => e.f.mask
  | 0x020 => toWord e.w.ctx
  | 0x040 => e.sampled (s.clock (s.coreOf e.w))
  | 0x041 => e.sampled (toWord s.time)
  | 0x042 => toWord (s.fuses.capScratch core)
  | 0x043 => toWord (s.fuses.capFeat core)
  | 0x044 => 0x0200
  | 0x045 => e.f.start.drophint
  | _ =>
    if 0x0C0 ≤ n then mgetD e.f.start.hregs ((n - 0x0C0) * 64 + l) 0
    else if 0x080 ≤ n then windowVal e.w e.lv n l
    else match s.wgOf e.w with
      | none => 0
      | some g => match mget s.gangs g.gang, mget s.grids g.gid with
        | some gg, some gr => toWord (sregIdentity n core gr gg g)
        | _, _ => 0

/-! ## Meanings -/

/-- `GEN` (R124). -/
def execGen (imm : BitVec 20) (t : BitVec 9) (s : State) : Out := aluT s 0 false 0 t (fun _ _ _ => imm.signExtend 64)

/-- `GENF` (R124). -/
def execGenf (imm : BitVec 20) (t : BitVec 9) (s : State) : Out := aluT s 0 false 0 t (fun _ _ _ => imm.zeroExtend 64 <<< 12)

/-- The constant of `GENL` (R125). -/
def genlVal (md : BitVec 3) (lit0 lit1 : Insn) : Word :=
  if md = 0 then lit0.zeroExtend 64
  else if md = 1 then lit0.signExtend 64
  else if md = 2 then lit0 ++ lit0
  else lit1 ++ lit0

/-- `GENL` (R125). -/
def execGenl (pm : BitVec 2) (md : BitVec 3) (tb ta : BitVec 9) (lit0 lit1 : BitVec 32) (s : State) : Out :=
  alu s pm (md.getLsbD 2) 0 tb ta (fun _ _ _ => genlVal md lit0 lit1)

/-- The mode of the warp under the cursor; user where there is none. -/
def State.curMode (s : State) : Mode :=
  match s.env? with
  | some e => e.w.modeNow
  | none => .user

/-- `SREG` (R129). -/
def execSreg (pm : BitVec 2) (imm : BitVec 12) (t : BitVec 9) (s : State) : Out :=
  slotL s pm (sregRefused s.curMode imm.toNat) 0 [t] false (fun e _ l _ _ _ =>
    if imm = 0x040 ∨ imm = 0x041 then .sample (s.sregVal e imm.toNat l) else .out (.value (s.sregVal e imm.toNat l)))

/-- `SWREG` (R130): recorded, and written at commit. -/
def execSwreg (pm : BitVec 2) (imm : BitVec 12) (s : State) : Out :=
  slotL s pm (swregRefused s.curMode imm.toNat) 1 [] true (fun _ _ _ a _ _ => .swreg imm.toNat a)

end Sys2Proof.Machine
end

