-- ==== Sys2Proof/Machine/Float.lean ====
section
/-!
DEFINITION. Sys2Proof/Machine/Float.lean: element formats, exact values, rounding, sums, comparison and conversion (R104
to R116, R150 to R167). A finite exact value is ±(m + ε)·2^e with 0 ≤ ε < 1; `stk` says that ε is not zero.
-/
namespace Sys2Proof.Machine

/-! ## Exact values -/

/-- An exact real with a sign even when zero, an infinity, or NaN (R110). -/
inductive FV where
  | nan
  | inf (neg : Bool)
  | fin (neg : Bool) (m : Nat) (e : Int) (stk : Bool)
  deriving DecidableEq, Repr

/-- A binary format with infinities and NaNs: exponent and fraction bits (R104). -/
structure FF where
  eb : Nat
  fb : Nat
  deriving DecidableEq, Repr

def fp64 : FF := ⟨11, 52⟩
def fp32 : FF := ⟨8, 23⟩
def fp16 : FF := ⟨5, 10⟩
def bf16 : FF := ⟨8, 7⟩
def f8e5 : FF := ⟨5, 2⟩
def FF.bias (f : FF) : Nat := 2 ^ (f.eb - 1) - 1
def FF.emax (f : FF) : Nat := 2 ^ f.eb - 1
def FF.infBits (f : FF) : Nat := f.emax * 2 ^ f.fb
def FF.signBit (f : FF) : Nat := 2 ^ (f.eb + f.fb)
/-- The canonical NaN: quiet bit set, positive (R105). -/
def FF.nanBits (f : FF) : Nat := f.infBits + 2 ^ (f.fb - 1)
/-- Largest finite code. -/
def FF.maxBits (f : FF) : Nat := f.infBits - 1

/-- The value of a code of a format (R104). -/
def FF.dec (f : FF) (v : Nat) : FV :=
  let fr := v % 2 ^ f.fb
  let ex := v / 2 ^ f.fb % 2 ^ f.eb
  let neg := v / f.signBit % 2 == 1
  if ex = f.emax then (if fr = 0 then .inf neg else .nan)
  else if ex = 0 then .fin neg fr (1 - (f.bias : Int) - f.fb) false
  else .fin neg (2 ^ f.fb + fr) ((ex : Int) - f.bias - f.fb) false

/-- Subnormal or zero code whose fraction is not zero. -/
def FF.isSub (f : FF) (v : Nat) : Bool := v / 2 ^ f.fb % 2 ^ f.eb == 0 && v % 2 ^ f.fb != 0
def FF.isNan (f : FF) (v : Nat) : Bool := v / 2 ^ f.fb % 2 ^ f.eb == f.emax && v % 2 ^ f.fb != 0
/-- An operand under flush: a subnormal is read as zero of its sign (R113). -/
def FF.flush (f : FF) (ftz : Bool) (v : Nat) : Nat := if ftz && f.isSub v then v / f.signBit * f.signBit else v

/-! ## Rounding (R109, R110) -/

/-- Rounding modes, coded as MOD[1:0]. -/
inductive RM where
  | rne | rtz | rup | rdn
  deriving DecidableEq, Repr

def rmOf (m : BitVec 2) : RM := if m = 0 then .rne else if m = 1 then .rtz else if m = 2 then .rup else .rdn

/-- |x| = (m + ε)·2^e rounded to a multiple of 2^q: the multiple. -/
def roundAt (neg : Bool) (m : Nat) (e : Int) (stk : Bool) (q : Int) (rm : RM) : Nat :=
  if q ≤ e then m * 2 ^ (e - q).toNat
  else
    let d := (q - e).toNat
    let lo := m / 2 ^ d
    let rem := m % 2 ^ d
    let half := 2 ^ (d - 1)
    let inexact := rem != 0 || stk
    let up := match rm with
      | .rne => decide (half < rem) || (rem == half && (stk || lo % 2 == 1))
      | .rtz => false
      | .rup => !neg && inexact
      | .rdn => neg && inexact
    if up then lo + 1 else lo

/-- |x| rounded to `p` significant bits, exponent unbounded: (n, q) with value n·2^q and 2^(p-1) ≤ n < 2^p. -/
def roundSig (neg : Bool) (m : Nat) (e : Int) (stk : Bool) (p : Nat) (rm : RM) : Nat × Int :=
  let q : Int := e + m.log2 - (p - 1 : Nat)
  let n := roundAt neg m e stk q rm
  if n = 2 ^ p then (2 ^ (p - 1), q + 1) else (n, q)

/-- The code of |x| for a format of `fb` fraction bits and bias `bias`, without regard to overflow: subnormals on the
grid of min_sub, normals with an implicit bit. -/
def codeOf (fb bias : Nat) (neg : Bool) (m : Nat) (e : Int) (stk : Bool) (rm : RM) : Nat :=
  let emin : Int := 1 - (bias : Int)
  if e + m.log2 < emin then roundAt neg m e stk (emin - fb) rm
  else
    let y := roundSig neg m e stk (fb + 1) rm
    (y.2 + fb + bias).toNat * 2 ^ fb + (y.1 - 2 ^ fb)

/-- What an overflow gives (R110). -/
def overflowBits (f : FF) (rm : RM) (neg : Bool) : Nat :=
  let s := if neg then f.signBit else 0
  match rm, neg with
  | .rne, _ => s + f.infBits
  | .rtz, _ => s + f.maxBits
  | .rup, true => s + f.maxBits
  | .rup, false => f.infBits
  | .rdn, true => s + f.infBits
  | .rdn, false => f.maxBits

/-- rnd(x, F, rm, ftz) (R110). -/
def FF.rnd (f : FF) (x : FV) (rm : RM) (ftz : Bool) : Nat :=
  match x with
  | .nan => f.nanBits
  | .inf neg => (if neg then f.signBit else 0) + f.infBits
  | .fin neg m e stk =>
    let s := if neg then f.signBit else 0
    if m = 0 ∧ !stk then s
    else
      let y := roundSig neg m e stk (f.fb + 1) rm
      if (f.emax : Int) - 1 - f.bias < y.2 + f.fb then overflowBits f rm neg
      else if ftz ∧ y.2 + f.fb < 1 - (f.bias : Int) then s
      else s + codeOf f.fb f.bias neg m e stk rm

/-! ## Exact arithmetic (R111, R150) -/

def FV.neg : FV → FV
  | .nan => .nan
  | .inf s => .inf !s
  | .fin s m e k => .fin (!s) m e k
def FV.isNan : FV → Bool
  | .nan => true
  | _ => false
def FV.isInf (sign : Bool) : FV → Bool
  | .inf s => s == sign
  | _ => false

def FV.mul : FV → FV → FV
  | .nan, _ => .nan
  | _, .nan => .nan
  | .inf s, .inf t => .inf (s != t)
  | .inf s, .fin t m _ _ => if m = 0 then .nan else .inf (s != t)
  | .fin s m _ _, .inf t => if m = 0 then .nan else .inf (s != t)
  | .fin s m e _, .fin t n d _ => .fin (s != t) (m * n) (e + d) false

/-- The exponent of a finite value, for the common scale of a sum. -/
def FV.exp : FV → Int
  | .fin _ m e _ => if m = 0 then 4096 else e
  | _ => 4096
def FV.sgn : FV → Bool
  | .fin s _ _ _ => s
  | .inf s => s
  | .nan => false
def FV.zero? : FV → Bool
  | .fin _ m _ _ => m == 0
  | _ => false
/-- A finite value at scale 2^q, q at most its exponent. -/
def FV.scaled (q : Int) : FV → Int
  | .fin s m e _ => if m = 0 then 0 else (if s then -1 else 1) * ((m * 2 ^ (e - q).toNat : Nat) : Int)
  | _ => 0

/-- The exact sum of terms, with NaN, infinities and the sign of a zero sum (R111, R116, R118). -/
def sumFV (rm : RM) (ts : List FV) : FV :=
  if ts.any FV.isNan then .nan
  else if ts.any (FV.isInf true) && ts.any (FV.isInf false) then .nan
  else if ts.any (FV.isInf true) then .inf true
  else if ts.any (FV.isInf false) then .inf false
  else
    let q : Int := ts.foldl (fun (a : Int) (t : FV) => min a t.exp) 4096
    let t : Int := ts.foldl (fun (a : Int) (x : FV) => a + x.scaled q) 0
    if t = 0 then
      if ts.all (fun x => x.zero? && x.sgn) then .fin true 0 0 false
      else if ts.all (fun x => x.zero? && !x.sgn) then .fin false 0 0 false
      else .fin (decide (rm = .rdn)) 0 0 false
    else .fin (decide (t < 0)) t.natAbs q false

def FV.div : FV → FV → FV
  | .nan, _ => .nan
  | _, .nan => .nan
  | .inf _, .inf _ => .nan
  | .inf s, .fin t _ _ _ => .inf (s != t)
  | .fin s _ _ _, .inf t => .fin (s != t) 0 0 false
  | .fin s m e _, .fin t n d _ =>
    if n = 0 then (if m = 0 then .nan else .inf (s != t))
    else if m = 0 then .fin (s != t) 0 0 false
    else
      let k := 130 + n.log2
      let num := m * 2 ^ k
      .fin (s != t) (num / n) (e - d - k) (num % n != 0)

/-- The bits of the integer square root of `n` from bit `i` down. -/
def isqrtGo (n : Nat) : Nat → Nat → Nat
  | 0, r => r
  | i + 1, r => isqrtGo n i (if (r + 2 ^ i) * (r + 2 ^ i) ≤ n then r + 2 ^ i else r)
/-- ⌊√n⌋. -/
def isqrt (n : Nat) : Nat := isqrtGo n (n.log2 / 2 + 1) 0

def FV.sqrt : FV → FV
  | .nan => .nan
  | .inf true => .nan
  | .inf false => .inf false
  | .fin s m e _ =>
    if m = 0 then .fin s 0 0 false
    else if s then .nan
    else
      let odd := e % 2 != 0
      let m1 := (if odd then 2 * m else m) * 2 ^ 140
      let e1 := (if odd then e - 1 else e) - 140
      let r := isqrt m1
      .fin false r (e1 / 2) (r * r != m1)

/-! ## Comparison (R151, R153) -/

/-- a < b for values that are not NaN; zeros are equal. -/
def FV.lt : FV → FV → Bool
  | .inf s, .inf t => s && !t
  | .inf s, .fin _ _ _ _ => s
  | .fin _ _ _ _, .inf t => !t
  | .fin s m e k, .fin t n d l =>
    let q := min (FV.fin s m e k).exp (FV.fin t n d l).exp
    decide ((FV.fin s m e k).scaled q < (FV.fin t n d l).scaled q)
  | _, _ => false
def FV.eq (a b : FV) : Bool := !a.isNan && !b.isNan && !a.lt b && !b.lt a

/-- The relations of `FCMP` and `DCMP` by MOD (R153). -/
def fcmp (md : BitVec 3) (a b : FV) : Bool :=
  let un := a.isNan || b.isNan
  if md = 0 then !un && a.eq b
  else if md = 1 then un || !a.eq b
  else if md = 2 then !un && a.lt b
  else if md = 3 then !un && (a.lt b || a.eq b)
  else if md = 4 then un
  else !un

/-- minimumNumber and maximumNumber on codes (R151): a NaN yields to a number, −0 lies below +0. -/
def FF.minmax (f : FF) (mx ftz : Bool) (x y : Nat) : Nat :=
  let a := f.flush ftz x
  let b := f.flush ftz y
  if f.isNan a && f.isNan b then f.nanBits
  else if f.isNan a then b
  else if f.isNan b then a
  else
    let va := f.dec a
    let vb := f.dec b
    let less := va.lt vb || (va.eq vb && va.sgn && !vb.sgn)
    if less == mx then b else a

/-! ## FP32 and FP64 operations on token bits (R108, R150 to R157) -/

def lo32 (v : Word) : Nat := v.toNat % 2 ^ 32
def hi32 (v : Word) : Nat := v.toNat / 2 ^ 32
def rmR (md : BitVec 3) : RM := rmOf (md.extractLsb' 0 2)
def ftzR (md : BitVec 3) : Bool := md.getLsbD 2
/-- The value of an FP32 element, flushed where MOD says (R113). -/
def f32v (md : BitVec 3) (v : Nat) : FV := fp32.dec (fp32.flush (ftzR md) v)

/-- Binary and ternary operations of R150 on exact values. -/
inductive FOp where
  | add | sub | mul | fma | div | sqrt
  deriving DecidableEq, Repr

def FOp.app (o : FOp) (rm : RM) (a b c : FV) : FV :=
  match o with
  | .add => sumFV rm [a, b]
  | .sub => sumFV rm [a, b.neg]
  | .mul => a.mul b
  | .fma => sumFV rm [a.mul b, c]
  | .div => a.div b
  | .sqrt => a.sqrt

def f32op (o : FOp) (md : BitVec 3) (a b c : Nat) : Nat :=
  fp32.rnd (o.app (rmR md) (f32v md a) (f32v md b) (f32v md c)) (rmR md) (ftzR md)
/-- An FP32 form: bits 31:0 of each operand, bits 63:32 of the result zero (R148). -/
def fOp32 (o : FOp) (md : BitVec 3) (a b c : Word) : Word := toWord (f32op o md (lo32 a) (lo32 b) (lo32 c))
def fOp64 (o : FOp) (md : BitVec 3) (a b c : Word) : Word :=
  toWord (fp64.rnd (o.app (rmR md) (fp64.dec a.toNat) (fp64.dec b.toNat) (fp64.dec c.toNat)) (rmR md) false)
/-- An .X2 form (R159). -/
def fOpX2 (o : FOp) (md : BitVec 3) (a b c : Word) : Word :=
  toWord (f32op o md (lo32 a) (lo32 b) (lo32 c) + 2 ^ 32 * f32op o md (hi32 a) (hi32 b) (hi32 c))
/-- An .X4 form in FP16 or BF16 (R160). -/
def fOpX4 (f : FF) (o : FOp) (md : BitVec 3) (a b c : Word) : Word :=
  toWord ((List.range 4).foldl (fun r i =>
    let el (v : Word) : FV := f.dec (v.toNat / 2 ^ (16 * i) % 65536)
    r + 2 ^ (16 * i) * f.rnd (o.app (rmR md) (el a) (el b) (el c)) (rmR md) false) 0)
/-- `FDOT.X2` (R116). -/
def fDotX2 (md : BitVec 3) (a b : Word) : Word :=
  toWord (fp32.rnd (sumFV (rmR md) [(f32v md (lo32 a)).mul (f32v md (lo32 b)), (f32v md (hi32 a)).mul (f32v md (hi32 b))]) (rmR md) (ftzR md))

/-- `FABS` and `FNEG` (R152). -/
def fAbs (a : Word) : Word := if fp32.isNan (lo32 a) then toWord fp32.nanBits else toWord (lo32 a % 2 ^ 31)
def fNeg (a : Word) : Word := if fp32.isNan (lo32 a) then toWord fp32.nanBits else toWord ((lo32 a + 2 ^ 31) % 2 ^ 32)

/-- `FCLASS` (R154). -/
def fClass (a : Word) : Word :=
  let v := lo32 a
  let neg := v / 2 ^ 31 == 1
  if fp32.isNan v then toWord 256
  else if v % 2 ^ 31 = fp32.infBits then (if neg then toWord 1 else toWord 128)
  else if v % 2 ^ 31 = 0 then (if neg then toWord 8 else toWord 16)
  else if fp32.isSub v then (if neg then toWord 4 else toWord 32)
  else (if neg then toWord 2 else toWord 64)

/-- `FRND` (R155). -/
def fRnd (md : BitVec 3) (a : Word) : Word :=
  match f32v md (lo32 a) with
  | .fin s m e k => toWord (fp32.rnd (.fin s (roundAt s m e k 0 (rmR md)) 0 false) (rmR md) false)
  | x => toWord (fp32.rnd x (rmR md) false)

/-- `FSCALE` (R156). -/
def fScale (md : BitVec 3) (a b : Word) : Word :=
  match f32v md (lo32 a) with
  | .fin s m e k => toWord (fp32.rnd (.fin s m (e + sint b 32) k) (rmR md) (ftzR md))
  | x => toWord (fp32.rnd x (rmR md) (ftzR md))

/-! ## Integer and widening conversion (R163, R164) -/

/-- An integer clamped to a range. -/
def clampI (x lo hi : Int) : Int := if x < lo then lo else if hi < x then hi else x

/-- `CVT.F2I` (R164). -/
def cvtF2i (md : BitVec 3) (a : Word) : Word :=
  let n := if md.getLsbD 2 then 64 else 32
  let lo : Int := -(2 ^ (n - 1))
  let hi : Int := 2 ^ (n - 1) - 1
  match fp32.dec (lo32 a) with
  | .nan => 0
  | .inf s => wrapN (if s then lo else hi) n
  | .fin s m e k =>
    let r : Int := roundAt s m e k 0 (rmR md)
    wrapN (clampI (if s then -r else r) lo hi) n

/-- An exact integer. -/
def FV.ofInt (x : Int) : FV := .fin (decide (x < 0)) x.natAbs 0 false
/-- `CVT.I2F` (R163). -/
def cvtI2f (md : BitVec 3) (a : Word) : Word :=
  toWord (fp32.rnd (FV.ofInt (if md.getLsbD 2 then (a.toNat : Int) else a.toInt)) (rmR md) false)
/-- Element MOD[1:0] of FP16 or BF16, widened (R163). -/
def cvtH (dst : FF) (md : BitVec 3) (a : Word) : Word :=
  let f := if md.getLsbD 2 then bf16 else fp16
  toWord (dst.rnd (f.dec (a.toNat / 2 ^ (16 * (md.extractLsb' 0 2).toNat) % 65536)) .rne false)
/-- `CVT.I2I` (R164). -/
def cvtI2i (md : BitVec 3) (a : Word) : Word :=
  if md = 0 then wrapN (clampI a.toInt (-(2 ^ 31)) (2 ^ 31 - 1)) 32
  else if md = 1 then wrapN (clampI a.toInt 0 (2 ^ 32 - 1)) 32
  else if md = 2 then wrapN (clampI a.toInt (-(2 ^ 15)) (2 ^ 15 - 1)) 16
  else wrapN (clampI a.toInt (-128) 127) 8
def cvtF2d (a : Word) : Word := toWord (fp64.rnd (fp32.dec (lo32 a)) .rne false)
def cvtD2f (rm : RM) (a : Word) : Word := toWord (fp32.rnd (fp64.dec a.toNat) rm false)

/-! ## Narrow formats (R104, R105, R114, R115, R167) -/

/-- Destinations of `NCVT`. -/
inductive NF where
  | h | b | e4 | e5 | f4 | sc | i8 | i4
  deriving DecidableEq, Repr

/-- The floating destinations: fraction bits, bias, sign bit, largest finite code, and the NaN and infinity codes they
have. -/
structure NFmt where
  fb : Nat
  bias : Nat
  sign : Nat
  maxc : Nat
  nan : Nat
  inf : Nat
  deriving DecidableEq, Repr
def nfmt : NF → NFmt
  | .h => ⟨10, 15, 0x8000, 0x7BFF, 0x7E00, 0x7C00⟩
  | .b => ⟨7, 127, 0x8000, 0x7F7F, 0x7FC0, 0x7F80⟩
  | .e4 => ⟨3, 7, 0x80, 0x7E, 0x7F, 0⟩
  | .e5 => ⟨2, 15, 0x80, 0x7B, 0x7E, 0x7C⟩
  | .f4 => ⟨1, 1, 0x8, 0x7, 0, 0⟩
  | _ => ⟨2, 32, 0, 0xFF, 0, 0⟩

/-- The policies of R115. -/
inductive Policy where
  | sat | inf | nan | trap
  deriving DecidableEq, Repr
def policyOf (md : BitVec 3) : Policy :=
  let p := md.extractLsb' 0 2
  if p = 0 then .sat else if p = 1 then .inf else if p = 2 then .nan else .trap
/-- A policy that the destination cannot encode (R69). -/
def policyReserved (n : NF) (md : BitVec 3) : Bool :=
  match policyOf md, n with
  | .inf, .h => false | .inf, .b => false | .inf, .e5 => false | .inf, _ => true
  | .nan, .f4 => true | .nan, .sc => true | .nan, .i8 => true | .nan, .i4 => true
  | _, _ => false

/-- A narrow conversion (R114, R115): `none` is CONVERT_TRAP. -/
def ncvt (n : NF) (md : BitVec 3) (a : Word) : Option Nat :=
  let rm := if md.getLsbD 2 then RM.rtz else RM.rne
  let f := nfmt n
  let pol := policyOf md
  let onNan : Option Nat := if pol = .trap then none else some f.nan
  let excess (sat inf : Nat) : Option Nat := match pol with
    | .sat => some sat | .inf => some inf | .nan => some f.nan | .trap => none
  match n, fp32.dec (lo32 a) with
  | _, .nan => onNan
  | .sc, .inf s => excess (if s then 0 else 0xFF) 0
  | .sc, .fin s m e k =>
    if s then excess 0 0
    else if m = 0 then some 0
    else if e + m.log2 < -31 then
      (match rm with
       | .rne => if roundAt false m e k (-31) .rne = 0 then some 0 else some 4
       | _ => some 0)
    else
      let y := roundSig false m e k 3 rm
      if 29 < y.2 then excess 0xFF 0 else some ((y.2 + 34).toNat * 4 + (y.1 - 4))
  | .i8, .inf s => excess (if s then 0x80 else 0x7F) 0
  | .i4, .inf s => excess (if s then 0x8 else 0x7) 0
  | .i8, .fin s m e k =>
    let r := roundAt s m e k 0 rm
    if s then (if 128 < r then excess 0x80 0 else some ((256 - r) % 256)) else if 127 < r then excess 0x7F 0 else some r
  | .i4, .fin s m e k =>
    let r := roundAt s m e k 0 rm
    if s then (if 8 < r then excess 0x8 0 else some ((16 - r) % 16)) else if 7 < r then excess 0x7 0 else some r
  | _, .inf s => let g := if s then f.sign else 0; excess (g + f.maxc) (g + f.inf)
  | _, .fin s m e k =>
    let g := if s then f.sign else 0
    if m = 0 then some g
    else
      let c := codeOf f.fb f.bias s m e k rm
      if f.maxc < c then excess (g + f.maxc) (g + f.inf) else some (g + c)

/-- The element formats of `UNPACK` and the matrix engine, by the codes of R70. -/
def elemBits (md : BitVec 3) : Nat := if md = 0 ∨ md = 1 then 16 else if md = 4 ∨ md = 6 then 4 else 8
/-- The exact value of an sc8 code (R104). -/
def sc8v (c : Nat) : FV := if c / 4 % 64 = 0 then .fin false 0 0 false else .fin false (4 + c % 4) ((c / 4 % 64 : Nat) - 34) false
/-- The exact value of a code whose all-ones exponent is ordinary (F8E4, F4E2). -/
def plainv (fb eb bias : Nat) (c : Nat) : FV :=
  let fr := c % 2 ^ fb
  let ex := c / 2 ^ fb % 2 ^ eb
  let neg := c / 2 ^ (fb + eb) % 2 == 1
  if ex = 0 then .fin neg fr (1 - (bias : Int) - fb) false else .fin neg (2 ^ fb + fr) ((ex : Int) - bias - fb) false
def f8e4v (c : Nat) : FV := if c % 128 = 0x7F then .nan else plainv 3 4 7 (c % 256)
def f4e2v (c : Nat) : FV := plainv 1 2 1 (c % 16)
/-- The exact value of element code `c` of a format (R104, R106). -/
def elemv (md : BitVec 3) (c : Nat) : FV :=
  if md = 0 then fp16.dec c else if md = 1 then bf16.dec c else if md = 2 then f8e4v c else if md = 3 then f8e5.dec c
  else if md = 4 then f4e2v c else if md = 5 then FV.ofInt (sint (toWord c) 8) else if md = 6 then FV.ofInt (sint (toWord c) 4)
  else sc8v c
/-- `UNPACK` (R167). -/
def unpack (md : BitVec 3) (a b : Word) : Word :=
  let n := elemBits md
  let i := b.toNat % (64 / n)
  toWord (fp32.rnd (elemv md (a.toNat / 2 ^ (n * i) % 2 ^ n)) .rne false)
/-- `PACK` (R166). -/
def pack (md : BitVec 3) (a b : Word) : Word :=
  let p := 8 * md.toNat
  (a &&& ~~~(0xFF#64 <<< p)) ||| ((b &&& 0xFF#64) <<< p)

end Sys2Proof.Machine
end

