-- ==== Sys2Proof/Machine/Memory.lean ====
section
/-!
DEFINITION. Sys2Proof/Machine/Memory.lean: scratch, tiles and hall stores; address checks (R23 to R28, R190); and the
orders that a slot's memory-order slot places on it (R85, R195, R207, R256 to R258, R396).
-/
namespace Sys2Proof.Machine

/-! ## Bytes in units -/

/-- `n` bytes at `a` of a space held in units of `u` bytes. -/
def readUnits (u : Nat) (get : Nat → Nat) (a n : Nat) : Nat :=
  ((List.range ((a + n + u - 1) / u - a / u)).foldl (fun r i => r + get (a / u + i) * 2 ^ (8 * u * i)) 0) / 2 ^ (8 * (a % u)) % 2 ^ (8 * n)

/-- `m` bytes `d` at `b`, laid over `n` bytes `v` at `a`. -/
def overBytes (v a n d b m : Nat) : Nat :=
  let lo := max a b
  let hi := min (a + n) (b + m)
  if lo < hi then
    let k := 8 * (hi - lo)
    let at_ := 2 ^ (8 * (lo - a))
    v - (v / at_ % 2 ^ k) * at_ + (d / 2 ^ (8 * (lo - b)) % 2 ^ k) * at_
  else v

/-- The units that `n` bytes at `a` touch. -/
def unitsOf (u a n : Nat) : List Nat := (List.range ((a + n + u - 1) / u - a / u)).map (· + a / u)
/-- The bytes cover unit `i` whole. -/
def coversUnit (u i a n : Nat) : Bool := decide (a ≤ u * i) && decide (u * i + u ≤ a + n)

def WgMem.empty : WgMem := { words := [], full := [], wpois := [], elems := [], epois := [] }

/-- Scratch (R24): eight-byte words. -/
def WgMem.scr (m : WgMem) (a n : Nat) : Nat := readUnits 8 (fun i => (mgetD m.words i 0).toNat) a n
def WgMem.scrPois (m : WgMem) (a n : Nat) : Bool := (unitsOf 8 a n).any (fun i => m.wpois.contains i)
/-- Writes scratch bytes; a word written whole loses its poison mark (R360). -/
def WgMem.scrPut (m : WgMem) (a n v : Nat) : WgMem :=
  (unitsOf 8 a n).foldl (fun m i =>
    { m with words := msetD m.words i (BitVec.ofNat 64 (overBytes (mgetD m.words i 0).toNat (8 * i) 8 v a n)) 0,
             wpois := if coversUnit 8 i a n then sdel m.wpois i else m.wpois }) m
/-- Tile memory (R27): four-byte elements. -/
def WgMem.tile (m : WgMem) (a n : Nat) : Nat := readUnits 4 (fun i => (mgetD m.elems i 0).toNat) a n
def WgMem.tilePois (m : WgMem) (a n : Nat) : Bool := (unitsOf 4 a n).any (fun i => m.epois.contains i)
def WgMem.tilePut (m : WgMem) (a n v : Nat) : WgMem :=
  (unitsOf 4 a n).foldl (fun m i =>
    { m with elems := msetD m.elems i (BitVec.ofNat 32 (overBytes (mgetD m.elems i 0).toNat (4 * i) 4 v a n)) 0,
             epois := if coversUnit 4 i a n then sdel m.epois i else m.epois }) m
/-- Marks words or elements as poisoned (R361). -/
def WgMem.scrMark (m : WgMem) (a n : Nat) : WgMem := { m with wpois := (unitsOf 8 a n).foldl (fun l i => sadd l i) m.wpois }
def WgMem.tileMark (m : WgMem) (a n : Nat) : WgMem := { m with epois := (unitsOf 4 a n).foldl (fun l i => sadd l i) m.epois }
/-- The full-empty bit of the granule that holds an address (R198). -/
def WgMem.isFull (m : WgMem) (a : Nat) : Bool := m.full.contains (a / 16)
def WgMem.fill (m : WgMem) (a n : Nat) : WgMem := { m with full := (unitsOf 16 a n).foldl (fun l i => sadd l i) m.full }
def WgMem.empt (m : WgMem) (a n : Nat) : WgMem := { m with full := (unitsOf 16 a n).foldl (fun l i => sdel l i) m.full }

/-- A hall store (R28, R307): 128-byte lines, poisoned by sector. -/
def HStore.bytes (h : HStore) (a n : Nat) : Nat := readUnits 128 (fun i => (mgetD h.lines i 0).toNat) a n
def HStore.poisoned (h : HStore) (a n : Nat) : Bool := (unitsOf 32 a n).any (fun i => h.pois.contains i)
def HStore.put (h : HStore) (a n v : Nat) : HStore :=
  { h with lines := (unitsOf 128 a n).foldl (fun l i =>
             msetD l i (BitVec.ofNat 1024 (overBytes (mgetD l i 0).toNat (128 * i) 128 v a n)) 0) h.lines,
           pois := h.pois.filter (fun i => !coversUnit 32 i a n) }

def State.updMem (s : State) (wg : Nat) (g : WgMem → WgMem) : State := { s with wgs := mupd s.wgs wg (fun x => { x with mem := g x.mem }) }
def State.memOf (s : State) (wg : Nat) : WgMem := ((mget s.wgs wg).map (·.mem)).getD WgMem.empty
def State.storeOf (s : State) (hall gid : Nat) : HStore := (mget (s.hall hall).stores gid).getD { size := 0, lines := [], pois := [] }
def State.updStore (s : State) (hall gid : Nat) (g : HStore → HStore) : State :=
  s.updHall hall (fun h => { h with stores := mupd h.stores gid g })

/-! ## Where an access reaches: checks 1 and 2 (R190) -/

/-- The address forms of format M and S. -/
inductive Form where
  | glob | scr | win | tile
  deriving DecidableEq, Repr

/-- The reservation of a workgroup on a core. -/
def Core.resOf (c : Core) (wg : Nat) : Option MRes := c.mres.find? (fun r => r.wg == wg && !r.releasing)

/-- The follower of a leader workgroup: the holder of the follower reservation on the next core, in the same gang
(R231, R236). -/
def State.followerOf (s : State) (wg : Nat) : Option Nat :=
  match mget s.wgs wg with
  | none => none
  | some g => match (s.core g.core).resOf wg with
    | none => none
    | some r =>
      if r.mode = 1 then
        ((s.core (g.core + 1)).mres.find? (fun q => q.mode == 2 && !q.releasing && (match mget s.wgs q.wg with
          | some h => h.gang == g.gang
          | none => false))).map (·.wg)
      else none

/-- A handler level entered from a pair operation reaches the follower (R275). -/
def Level.pairReach (lv : Level) : Bool :=
  lv.kind == .emu && (fOp lv.win.insn == 0x0D4#9 || (fOp lv.win.insn == 0x0D2#9 && (fMd lv.win.insn).getLsbD 2))

/-- The hall store window of the grid of a warp: its base, and the store's size (R28). -/
def State.window (s : State) (w : Warp) : Option (Nat × Nat) :=
  match s.gridOf w with
  | some g => if g.lr.hstore = 0 then none else some (g.lr.hsbase, g.lr.storeBytes)
  | none => none
def State.inWindow (s : State) (w : Warp) (a : Nat) : Option Nat :=
  match s.window w with
  | some (b, _) => if b ≤ a ∧ a < b + 0x800000 then some (a - b) else none
  | none => none

/-- Check 1: the space and offset that an effective address reaches, or the refusing cause (R23 to R28, R275). R275
lets a handler level reach its partner where PAIRED is 1; the model tests PAIRED at each access and not once for the level (DESIGN CHOICE, log
entry 41). -/
def State.locate (s : State) (w : Warp) (lv : Level) (form : Form) (ea : Word) (n : Nat) : Except (BitVec 8) (Space × Nat) :=
  let a := ea.toNat
  match form with
  | .glob =>
    if 2 ^ 57 < a + n then .error cPageProtection
    else match s.window w with
      | none => .ok (.global, a)
      | some (b, size) =>
        let inW (x : Nat) : Bool := decide (b ≤ x) && decide (x < b + 0x800000)
        let last := a + n - 1
        if (inW a && decide (b + size ≤ a)) || (inW last && decide (b + size ≤ last)) then .error cPageProtection
        else if inW a && inW last then .ok (.hallStore, a - b)
        else .ok (.global, a)
  | .scr =>
    let own := match mget s.wgs w.wg with
      | some g => if a + n ≤ g.size then Except.ok (Space.scratch w.wg, a) else .error cScratchRange
      | none => .error cScratchRange
    if lv.pairReach ∧ a / 2 ^ 22 = 1 then
      (match s.followerOf w.wg with
       | some f => (match mget s.wgs f with
         | some g => if a % 2 ^ 22 + n ≤ g.size then .ok (.scratch f, a % 2 ^ 22) else .error cScratchRange
         | none => .error cScratchRange)
       | none => .error cScratchRange)
    else if 2 ^ 22 ≤ a then .error cScratchRange else own
  | .win =>
    if 2 ^ 27 ≤ a ∨ fld ea 23 22 ≠ 0 then .error cScratchRange
    else match mget s.wgs w.wg with
      | none => .error cScratchRange
      | some g => match mget s.gangs g.gang with
        | none => .error cScratchRange
        | some gg => match gg.wgs[fld ea 26 24]? with
          | none => .error cScratchRange
          | some t => match mget s.wgs t with
            | none => .error cScratchRange
            | some x => if x.ended ∨ x.size < a % 2 ^ 22 + n then .error cScratchRange else .ok (.scratch t, a % 2 ^ 22)
  | .tile =>
    if lv.pairReach ∧ a / 2 ^ 18 = 1 then
      (match s.followerOf w.wg with
       | some f => (match mget s.wgs f with
         | some g => if a % 2 ^ 18 / 16384 < g.tiles then .ok (.tile f, a % 2 ^ 18) else .error cTileRange
         | none => .error cTileRange)
       | none => .error cTileRange)
    else if 2 ^ 18 ≤ a then .error cTileRange
    else match mget s.wgs w.wg with
      | some g => if a / 16384 < g.tiles then .ok (.tile w.wg, a) else .error cTileRange
      | none => .error cTileRange

/-- Checks 1 and 2 of an access of `n` bytes (R190): its address in range, then aligned to `unit`, then its last byte in range. -/
def State.reach (s : State) (w : Warp) (lv : Level) (form : Form) (ea : Word) (n unit : Nat) : Except (BitVec 8) (Space × Nat) :=
  match s.locate w lv form ea 1 with
  | .error c => .error c
  | .ok _ => if ea.toNat % unit ≠ 0 then .error cAlignment else s.locate w lv form ea n

/-- The cause of an address outside its space, for the detail's cause in R190. -/
def outCause : Form → BitVec 8
  | .glob => cPageProtection
  | .scr => cScratchRange
  | .win => cScratchRange
  | .tile => cTileRange

/-! ## What the opcodes of group G5 are (R72, R207) -/

/-- Bytes, alignment and offset unit of a size code (R66). -/
def szBytes (md : BitVec 3) : Nat := if md = 0 ∨ md = 1 then 1 else if md = 2 ∨ md = 3 then 2 else if md = 4 ∨ md = 5 then 4 else 8
def szUnit (md : BitVec 3) : Nat := if md = 7 then 4 else szBytes md

/-- The effective address (R47, R103). -/
def eaOf (a : Word) (off : Int) (unit : Nat) : Word := a + BitVec.ofInt 64 (off * unit)

def opOf (w : Insn) : Nat := (fOp w).toNat
/-- The memory-order slot of a slot word of format M or S. -/
def mosOf (w : Insn) : Option Nat :=
  match fmtOf w with
  | .M => some (fMos w).toNat
  | .S => some (fMos w).toNat
  | _ => none

def opIsLoad (o : Nat) : Bool := decide (0x140 ≤ o) && decide (o ≤ 0x148)
def opIsStore (o : Nat) : Bool := decide (0x150 ≤ o) && decide (o ≤ 0x156)
def opIsAtomic (o : Nat) : Bool := decide (0x160 ≤ o) && decide (o ≤ 0x166)
/-- The accesses of R207: neither fences nor hints. -/
def opIsAccess (o : Nat) : Bool := opIsLoad o || opIsStore o || opIsAtomic o || o == 0x176 || o == 0x177 || o == 0x17C || o == 0x17D
/-- Form, bytes and unit of a data access, from its word (R193 to R205). -/
def opShape (w : Insn) : Form × Nat × Nat :=
  let o := opOf w
  let md := fMdM w
  if o = 0x140 ∨ o = 0x141 ∨ o = 0x150 then (.glob, szBytes md, szUnit md)
  else if o = 0x144 ∨ o = 0x151 then (.scr, szBytes md, szUnit md)
  else if o = 0x146 ∨ o = 0x153 then (.win, szBytes md, szUnit md)
  else if o = 0x147 ∨ o = 0x154 then (.tile, szBytes md, szUnit md)
  else if o = 0x142 ∨ o = 0x155 ∨ o = 0x160 ∨ o = 0x162 ∨ o = 0x163 ∨ o = 0x166 then (.glob, 4, 4)
  else if o = 0x143 ∨ o = 0x156 ∨ o = 0x161 ∨ o = 0x164 then (.glob, 8, 8)
  else if o = 0x165 then (.scr, 4, 4)
  else (.scr, 8, 8)
/-- The signed offset of a slot of format M or S (R46). -/
def offOf (w : Insn) : Int :=
  match fmtOf w with
  | .M => (fOff4 w).toInt
  | _ => (fOff13 w).toInt

/-! ## Literal slots and dataflow (R49, R45) -/

/-- Which slots hold literal words. -/
def litGo : List Insn → Nat → List Bool
  | [], _ => []
  | _ :: r, n + 1 => true :: litGo r n
  | w :: r, 0 => false :: litGo r (if fOp w = 0x005#9 then (if fMd w &&& 3#3 = 3#3 then 2 else 1) else 0)
/-- The instruction slots of a block with their words. -/
def Block.insns (b : Block) : List (Nat × Insn) :=
  (((List.range b.slots.length).zip (b.slots.zip (litGo b.slots 0))).filter (fun p => !p.2.2)).map (fun p => (p.1, p.2.1))
def Block.litSlots (b : Block) : List Nat :=
  (((List.range b.slots.length).zip (litGo b.slots 0)).filter (fun p => p.2)).map (·.1)

/-- The slots that the targets of a word name. -/
def targetSlots (ts : List (BitVec 9)) : List Nat :=
  ts.filterMap (fun t => match tgtPort t with
    | some (p, x) => if p < 4 then some x else none
    | none => none)
/-- The slots reached from a set of slots in up to `n` steps of dataflow. -/
def Block.reachGo (b : Block) : Nat → List Nat → List Nat
  | 0, l => l
  | n + 1, l => b.reachGo n (l.foldl (fun l i => (targetSlots (targetsOf ((b.slots[i]?).getD 0))).foldl (fun l j => sadd l j) l) l)
/-- A token of slot `j` derives from slot `i` (R396). -/
def Block.derives (b : Block) (i j : Nat) : Bool := (b.reachGo 64 (targetSlots (targetsOf ((b.slots[i]?).getD 0)))).contains j
/-- The address operand of slot `j` derives from slot `i`. -/
def Block.derivesAddr (b : Block) (i j : Nat) : Bool :=
  (i :: b.reachGo 64 (targetSlots (targetsOf ((b.slots[i]?).getD 0)))).any (fun k => (targetsOf ((b.slots[k]?).getD 0)).any (fun t => tgtPort t == some (0, j)))

/-! ## Orders (R85, R195, R207, R256 to R258) -/

/-- A slot is resolved in every active lane. -/
def Frame.allDone (f : Frame) (slot : Nat) : Bool := (lanesOf f.mask).all (fun l => f.doneIn slot l)

/-- The slots with a lower memory-order slot. -/
def Frame.lower (f : Frame) (m : Nat) : List (Nat × Insn) :=
  f.blk.insns.filter (fun p => match mosOf p.2 with
    | some k => decide (k < m)
    | none => false)

/-- The access with the lowest memory-order slot of a block (R258). -/
def Block.firstAccess (b : Block) : Option (Nat × Insn) :=
  let l := b.insns.filterMap (fun p => match mosOf p.2 with
    | some k => if opIsAccess (opOf p.2) then some (k, p) else none
    | none => none)
  match l with
  | [] => none
  | x :: r => some (r.foldl (fun (a : Nat × Nat × Insn) y => if y.1 < a.1 then y else a) x).2
/-- The slot whose read is the acquire of a block with ACQ; none where ACQ acts as a fence at block start (R258). -/
def Block.acqSlot (b : Block) : Option Nat :=
  if b.acq then (match b.firstAccess with
    | some p => if opIsLoad (opOf p.2) || (opIsAtomic (opOf p.2) && opOf p.2 != 0x166) then some p.1 else none
    | none => none)
  else none
/-- ACQ acts as a `FENCE.ACQ` at RELSCOPE at block start (R258). -/
def Block.acqAtStart (b : Block) : Bool := b.acq && b.acqSlot.isNone

/-- The scope at which a load or returning atomic acquires: that of `LDA`, and RELSCOPE for the acquire of ACQ. -/
def Frame.acqScope (f : Frame) (slot : Nat) : Nat :=
  let w := f.word slot
  max (if opOf w = 0x142 ∨ opOf w = 0x143 then (fMdM w).toNat else 0) (if f.blk.acqSlot = some slot then f.blk.relscope else 0)

/-- The acquires and fences ahead of a slot with memory-order slot `m` are performed: `LDA`, `LDS.FE`, `FENCE.ACQ`,
`FENCE.AR`, the acquire of ACQ, and, for an atomic, `FENCE.REL`. -/
def Frame.acquired (f : Frame) (slot m : Nat) (atomic : Bool) : Bool :=
  (f.lower m).all (fun p =>
    let o := opOf p.2
    if o = 0x142 ∨ o = 0x143 ∨ o = 0x145 ∨ o = 0x170 ∨ o = 0x172 ∨ (atomic = true ∧ o = 0x171) then f.allDone p.1 else true)
  && (match f.blk.acqSlot with
    | some q => q == slot || f.allDone q
    | none => true)

/-- The acquire of the block is performed, or this slot must come before it because its token leads there (R258, R396). -/
def Env.acqFree (e : Env) : Bool :=
  match e.f.blk.acqSlot with
  | some q => e.f.allDone q || e.f.blk.derives e.slot q
  | none => true
/-- A command that accesses memory comes after the acquire of its block (R256, R258, R388). -/
def acqFirst (perform : Env → State → Word → Word → Word → State × UOut) (e : Env) (s : State) (a b c : Word) : State × UOut :=
  if e.acqFree then perform e s a b c else (s, .hold)

/-- Where the access of another slot lies in a lane: nowhere, not known yet, or at an address. -/
inductive Foot where
  | nowhere | unknown | at_ (sp : Space) (a n : Nat)
  deriving DecidableEq, Repr

def State.foot (s : State) (e : Env) (f : Frame) (p : Nat × Insn) (lane : Nat) : Foot :=
  let sh := opShape p.2
  match f.tok 0 p.1 lane with
  | none => .unknown
  | some (.value v) => (match s.reach e.w e.lv sh.1 (eaOf v (offOf p.2) sh.2.2) sh.2.1 sh.2.2 with
    | .ok x => .at_ x.1 x.2 sh.2.1
    | .error _ => .nowhere)
  | some _ => .nowhere

/-- Two accesses of one warp reach a common byte. -/
def State.meets (s : State) (ctx : Nat) (sp : Space) (a n : Nat) (q : Space) (b k : Nat) : Bool :=
  q == sp && (if sp = .global then s.sameBytes ctx a n b k else overlaps a n b k)

/-- A load or atomic waits, in its lane, for a lower atomic, and a load for a lower store, to bytes it reads; while the
other address is unknown it waits too, unless that address derives from this slot (R85, R396). -/
def State.laneOrder (s : State) (e : Env) (f : Frame) (m lane : Nat) (sp : Space) (a n : Nat) (load : Bool) : Bool :=
  (f.lower m).all (fun p =>
    if opIsAtomic (opOf p.2) || (load && opIsStore (opOf p.2)) then
      f.doneIn p.1 lane || (match s.foot e f p lane with
        | .nowhere => true
        | .unknown => f.blk.derivesAddr e.slot p.1
        | .at_ q b k => !s.meets e.w.ctx sp a n q b k)
    else true)

/-- The accesses of higher memory-order slots that a store or atomic derives from, in the opcodes that R85 orders after it: for an
atomic the loads and atomics, for a store the loads. `LDK` reads a constant bank, which no store of the grid may change (R21). -/
def Frame.aheadOf (f : Frame) (slot m : Nat) (atomic : Bool) : List (Nat × Insn) :=
  f.blk.insns.filter (fun p => (match mosOf p.2 with
    | some k => decide (m < k)
    | none => false) && ((opIsLoad (opOf p.2) && opOf p.2 != 0x148) || (atomic && opIsAtomic (opOf p.2))) && f.blk.derives p.1 slot)
/-- No access that a store or atomic derives from stands, in its lane, at a higher memory-order slot and on bytes of its own: where one does,
the order of R85 would have made each wait for the other, and this one is never performed (R396, log entry 30). -/
def State.laneClear (s : State) (e : Env) (f : Frame) (slot m lane : Nat) (sp : Space) (a n : Nat) (atomic : Bool) : Bool :=
  (f.aheadOf slot m atomic).all (fun p => !hasLane (mgetD f.fired p.1 0) lane || (match s.foot e f p lane with
    | .at_ q b k => !s.meets e.w.ctx sp a n q b k
    | _ => true))

/-- `LD.O` waits for the lane's reads with lower memory-order slots (R85, R193, R256). -/
def Frame.readsDone (f : Frame) (m lane : Nat) : Bool :=
  (f.lower m).all (fun p => if opIsLoad (opOf p.2) || opIsAtomic (opOf p.2) then f.doneIn p.1 lane else true)

/-! ## Forwarding (R85) -/

/-- The buffered stores of a lane below memory-order slot `m`, in memory-order slot order. -/
def insSink (x : Sink) : List Sink → List Sink
  | [] => [x]
  | y :: r => if x.mos ≤ y.mos then x :: y :: r else y :: insSink x r
def SinkKind.isData : SinkKind → Bool
  | .store => true | .storeFE => true | .strel _ => true | _ => false
def Frame.storesBelow (f : Frame) (m lane : Nat) (sp : Space) : List Sink :=
  (f.sinks.filter (fun x => x.lane == lane && decide (x.mos < m) && x.space == sp && x.kind.isData)).foldl (fun l x => insSink x l) []
/-- The byte that a store writes to a location. -/
def Sink.byteAt (x : Sink) (p : Nat) : Option Nat :=
  ((List.range x.size).find? (fun j => locOf x.xl (x.addr + j) == p)).map (fun j => x.data.toNat / 2 ^ (8 * j) % 256)
/-- The bytes that a load sees, and whether memory supplies none of them. -/
def Frame.forward (f : Frame) (m lane : Nat) (sp : Space) (xl : List Xlat) (a n v : Nat) : Nat × Bool :=
  let l := f.storesBelow m lane sp
  let bytes := (List.range n).map (fun i => l.foldl (fun (r : Option Nat) x => match x.byteAt (locOf xl (a + i)) with
    | some b => some b
    | none => r) none)
  (((List.range n).zip bytes).foldl (fun r q => r + (q.2.getD (v / 2 ^ (8 * q.1) % 256)) * 2 ^ (8 * q.1)) 0, bytes.all (·.isSome))

/-- The value that a load of a size code delivers (R193). -/
def extendSz (md : BitVec 3) (n v : Nat) : Word :=
  if md = 1 ∨ md = 3 ∨ md = 5 then sx (toWord v) (8 * n) else toWord v

/-- The token of a load that has read `raw`: poison at check 6 unless forwarding covers every byte. -/
def Frame.loadTok (f : Frame) (slot m lane : Nat) (sp : Space) (xl : List Xlat) (a n : Nat) (md : BitVec 3) (raw : Nat) (pois : Bool) (ea : Word) : Tok :=
  let r := f.forward m lane sp xl a n raw
  if pois && !r.2 then faultTok slot cMemoryPoison ea else .value (extendSz md n r.1)

/-! ## Atomic operations (R203, R204) -/

/-- The new value of an atomic on N bits. -/
def atomNew (aop : BitVec 3) (n old b : Nat) : Nat :=
  let p := toWord old
  let q := toWord b
  let x : Nat := if aop = 0 then old + b
    else if aop = 1 then (if sint q n < sint p n then b else old)
    else if aop = 2 then (if sint p n < sint q n then b else old)
    else if aop = 3 then (p &&& q).toNat
    else if aop = 4 then (p ||| q).toNat
    else if aop = 5 then (p ^^^ q).toNat
    else b
  x % 2 ^ n
/-- The new value of `ATOMF`, `CAS` or another atomic, from the old value (R203, R204, R358). -/
def atomApply (aop : BitVec 3) (w64 cas f32 : Bool) (old b c : Nat) : Nat :=
  let n := if w64 then 64 else 32
  if cas then (if old % 2 ^ n = b % 2 ^ n then c % 2 ^ n else old % 2 ^ n)
  else if f32 then (fp32.rnd (sumFV .rne [fp32.dec (old % 2 ^ 32), fp32.dec (b % 2 ^ 32)]) .rne false)
  else atomNew aop n old b

end Sys2Proof.Machine
end

