-- ==== Sys2Proof/Machine/Access.lean ====
section
/-!
DEFINITION. Sys2Proof/Machine/Access.lean: how a fired access reaches its data: translation and its parking (R190, R192,
R316), caches (R304 to R306), recipe tiles (R289, R290, R294), the hall link (R345, R390), host memory and other packages
(R349, R350, R357, R358).
-/
namespace Sys2Proof.Machine

/-! ## Ports and requests that leave the package (R349, R350, R357, R358) -/

def Port.up0 : Port :=
  { lanes := 4, training := false, busy := 0, held := [], waiting := [], nextSeq := 0, replay := [], sent := [], since := 0, expect := 0, ackOwed := none,
    accepted := [] }
def State.port (s : State) (p : Nat) : Port := mgetD s.ports p Port.up0
def State.setPort (s : State) (p : Nat) (x : Port) : State := { s with ports := mset s.ports p x }

/-- A port that is up sends one flit with the messages that wait, while its replay buffer has room. -/
def Port.pump (p : Port) (now : Nat) : Port :=
  if p.lanes ≠ 0 ∧ p.training = false ∧ !p.waiting.isEmpty ∧ p.replay.length < 64 then
    let f : HFlit := { seq := p.nextSeq, msgs := p.waiting, ack := none, nak := none }
    { p with waiting := [], nextSeq := (p.nextSeq + 1) % 1024, replay := p.replay ++ [f], sent := p.sent ++ [{ f with ack := p.ackOwed }],
             since := if p.replay.isEmpty then now else p.since, ackOwed := none }
  else p
/-- Resends every unacknowledged flit from sequence number `n` on. -/
def Port.resend (p : Port) (n now : Nat) : Port :=
  { p with sent := p.sent ++ p.replay.filter (fun g => decide (seqDiff g.seq n ≤ 512)), since := now }

/-- The port that carries the traffic of a line of a package: of the ports that the routing table gives for it, the first that is not down,
counted from the line's own (R357, log entry 18). -/
def State.portOf (s : State) (pkg ln : Nat) : Option Nat :=
  let l := (mget s.routes pkg).getD (List.range 64)
  ((List.range l.length).filterMap (fun i => l[(ln + i) % l.length]?)).find? (fun p => (s.port p).lanes != 0)
/-- Messages of no tracker: answers, and requests that hold one. -/
def State.portPut (s : State) (p : Nat) (m : HMsg) : State :=
  let x := s.port p; s.setPort p (({ x with waiting := x.waiting ++ [m] } : Port).pump s.time)
def State.sendMsg (s : State) (m : HMsg) : State :=
  match s.portOf m.dst (m.pa / 128) with
  | some p => s.portPut p m
  | none => s
/-- A request takes a tracker of its port, or waits behind those that wait for one (R5, R313). -/
def State.sendReq (s : State) (m : HMsg) : State :=
  match s.portOf m.dst (m.pa / 128) with
  | some p =>
    let x := s.port p
    let s1 := { s with ext := mupd s.ext m.tag (fun r => { r with port := p }) }
    if x.busy < Config.portTrackers ∧ x.held.isEmpty = true then (s1.setPort p { x with busy := x.busy + 1 }).portPut p m
    else s1.setPort p { x with held := x.held ++ [m] }
  | none => s
/-- A request is over: its tracker goes to the oldest request that waits for one. -/
def State.portFree (s : State) (p : Nat) : State :=
  let x := s.port p
  match x.held with
  | m :: r => (s.setPort p { x with held := r }).portPut p m
  | [] => s.setPort p { x with busy := x.busy - 1 }

/-- Sends a request to host memory or another package under a new end-to-end tag (R358). -/
def State.sendOut (s : State) (m : HMsg) (host : Bool) (aid : Option Nat) (copy hall wtag : Nat) : State :=
  let s1 := s.hostSend m aid copy hall wtag
  if host then s1 else ({ s1 with ext := mupd s1.ext s.nextId (fun r => { r with host := false }) } : State).sendReq { m with tag := s.nextId }

/-! ## Writes that leave a core (R305) -/

/-- A write to global memory leaves a core: to the hall cache and on to its home, or out of the package as a store or as the discard of a
line. The bytes lie in one line. -/
def State.globWrite (s : State) (core : Nat) (p : PendW) (key : Nat) (kind : HKind) : State :=
  let h := hallOfCore core
  match s.home p.pa with
  | .dev a => s.hallWrite h { p with pa := a } key (if kind = .disc then 1 else if kind = .clean then 2 else 0)
  | k =>
    let x := s.hall h
    let tag := s.newTag h
    let s1 := s.setHall h { x with pend := x.pend ++ [{ p with tag := tag }], nextTag := (tag + 1) % 65536 }
    let s2 := { s1 with stamp := s1.stamp + 1 }
    let m : HMsg := { kind := kind, src := fld s.domain 9 0, dst := 0, tag := 0, ctx := p.ctx, key := key, pa := 0, size := 0, aop := 0,
                      acas := false, af32 := false, data := p.data, mask := p.mask, poisoned := p.pois != 0 }
    match k with
    | .host off => s2.sendOut { m with pa := off } true none 0 h tag
    | .remote pk off => s2.sendOut { m with dst := pk, pa := off } false none 0 h tag
    | _ => s2

/-- No write of a context that a release at `scope` waits for is on its way (R305): at device scope those to local memory,
at domain and system scope every one, with the record of each store that timed out (R358). -/
def State.released (s : State) (h ctx scope : Nat) : Bool :=
  if scope < 4 then true
  else (s.hall h).pend.all (fun p => p.ctx != ctx || (decide (scope < 5) && (match s.physKind p.pa with
      | .dev _ => false
      | _ => true)))
    && (decide (scope < 5) || s.frecs.all (fun r => r.ctx != ctx || fld r.w0 63 60 != 5))

/-! ## Acquires (R306) -/

/-- An acquire at a scope of gang or wider drops the core's L1. -/
def State.acquireL1 (s : State) (core scope : Nat) : State :=
  if scopeL1 scope then s.updCore core (fun c => { c with l1 := [] }) else s
/-- What comes after this point in a warp's program order is ordered after what came before it, by an edge of R256 that is no acquire: the
lines read ahead are not used any more, and, behind an acquire at device scope, neither are cached lines older than this (R264). -/
def Warp.ordered (w : Warp) (stamp : Nat) : Warp := { w with early := [], floor := w.floor.map (fun _ => stamp) }
/-- A warp acquires at a scope: lines that it has read ahead are not used any more, and its core's L1 goes where the scope reaches beyond the
core (R257, R264, R306). -/
def State.acquire (s : State) (wid scope : Nat) : State :=
  if scope = 0 then s
  else match s.warp wid with
    | none => s
    | some w => (s.acquireL1 (s.coreOf w) scope).setWarp wid
        (if scopeDev scope then { w with early := [], floor := some (w.floor.getD 0) } else w.ordered s.stamp)
/-- An acquire without a read may complete: at device scope or wider, once the hall has applied the invalidations sent to
it so far. -/
def State.mayAcquire (s : State) (core scope : Nat) : Bool := if scopeDev scope then s.invsApplied (hallOfCore core) s.stamp else true

/-! ## Delivering an access -/

/-- The accesses that are performed once, at their home (R87, R202, R385). -/
def AKind.isAtomic : AKind → Bool
  | .atomic _ _ _ _ _ => true
  | .barrier _ => true
  | _ => false
def AKind.isStore : AKind → Bool
  | .store _ => true
  | _ => false
/-- The accesses whose failure poisons a sink (R83, R84). -/
def AKind.isSink (k : AKind) : Bool := k.isAtomic || k.isStore

def State.setAcc (s : State) (aid : Nat) (a : Access) : State := { s with accs := mset s.accs aid a }
/-- The access becomes poison, with an address as detail. -/
def State.accPoison (s : State) (aid : Nat) (a : Access) (cause : BitVec 8) (info : Nat) : State :=
  (s.setAcc aid a).accFail aid cause (toWord info)

/-- The lines' part of an access that is read now: for a straddling x2 load one 4-byte half (R191). -/
def Access.straddles (a : Access) : Bool := decide (128 < a.va % 128 + a.size)
def Access.pieceVa (a : Access) : Nat := if a.straddles && a.c.getLsbD 0 then a.va + 4 else a.va
def Access.pieceLen (a : Access) : Nat := if a.straddles then 4 else a.size

/-- The stamp that a load's line must have: that of what its address derives from (R261), and, behind an acquire at device scope, of the
edges since, that of `LD.O` among them (R264). -/
def State.accDep (s : State) (a : Access) : Nat :=
  let d := match s.fidFrame a.wid a.fid with
    | some f => max (max (f.dep 0 a.slot a.lane) (f.dep 1 a.slot a.lane)) (f.dep 3 a.slot a.lane)
    | none => 0
  let floor := (s.warp a.wid).bind (·.floor)
  let o := match s.fidFrame a.wid a.fid with
    | some f => opOf (f.word a.slot) == 0x141
    | none => false
  if o && floor.isSome then s.stamp else max d (floor.getD 0)
def State.accCore (s : State) (a : Access) : Nat :=
  match s.warp a.wid with
  | some w => s.coreOf w
  | none => 0
def State.accCtx (s : State) (a : Access) : Nat :=
  match s.warp a.wid with
  | some w => w.ctx
  | none => 0

/-! ## Recipe tiles (R289 to R294) -/

/-- Asks for a slice of a recipe unless one runs or waits (R290), near a core. -/
def State.spawnSlice (s : State) (ctx idx core : Nat) : State :=
  match mget s.ctxs ctx with
  | none => s
  | some c => match mget c.recipes idx with
    | none => s
    | some r =>
      if r.run then s
      else
        let x : Slice := { ctx := ctx, idx := idx, band := r.depth, order := s.nextId, hall := hallOfCore core, cluster := clusterOfCore core,
                           wgs := [], doneWids := [], staging := [], placed := false }
        { s with nextId := s.nextId + 1, slices := s.slices ++ [x] }.setRecipe ctx idx (some { r with run := true })

/-- The tile of a recipe holds the byte. -/
def Recipe.holds (r : Recipe) (va : Nat) : Bool := decide (r.tile ≤ va) && decide (va < r.tile + r.size)
/-- A byte lies in a source of a recipe. -/
def Recipe.isSource (r : Recipe) (va : Nat) : Bool := r.srcs.any (fun x => match x with
  | some (b, n) => decide (b ≤ va) && decide (va < b + n)
  | none => false)

/-- What a read of a byte finds in a context's recipe tiles. -/
inductive RecRead where
  /-- no valid recipe tile -/
  | plain
  /-- the line's bytes -/
  | line (l : Line) (pois : BitVec 4)
  /-- the line is dropped: wait for the recipe's slice -/
  | miss (idx : Nat)
  | refused (cause : BitVec 8)
  deriving DecidableEq, Repr

/-- A read of the line of `va` by a workgroup (or by an engine for it): a slice's own tile is its staging copy; a slice may
read only its sources among the recipe tiles (R293, R294); a recipe of level 5 or more is never readable (R290). -/
def State.recRead (s : State) (ctx wg va : Nat) : RecRead :=
  match mget s.ctxs ctx with
  | none => .plain
  | some c => match c.recipeAt va with
    | none => .plain
    | some (i, r) =>
      let k := (va - r.tile) / 128
      let other := if r.present.contains k then RecRead.line (mgetD r.bytes k 0) (mgetD r.pois k 0) else if 4 < r.depth then .refused cRecipeDepth else .miss i
      match s.sliceOf wg with
      | none => other
      | some x =>
        if x.idx = i then .line (mgetD x.staging k 0) 0
        else if (match mget c.recipes x.idx with
            | some own => own.isSource va
            | none => false) then other
        else .refused cRecipeFailed

/-- A read has used the line of a recipe tile (R308). -/
def State.recTouch (s : State) (ctx va : Nat) : State :=
  match (mget s.ctxs ctx).bind (fun c => c.recipeAt va) with
  | some (i, r) => s.touchTile ctx i ((va - r.tile) / 128)
  | none => s

/-! ## Reading one line for an access -/

/-- Loads that no order of R256 holds back from being performed before their block: `LD`, `LDS`, `LDC` and `LDT` that do not acquire. -/
def Frame.plainLoad (f : Frame) (slot : Nat) : Bool :=
  let o := opOf (f.word slot)
  (o == 0x140 || o == 0x144 || o == 0x146 || o == 0x147) && f.acqScope slot == 0
/-- The first line that the warp has read ahead that holds these bytes and is not older than what the load's address derives from (R261, R263). -/
def Warp.earlyLine (w : Warp) (sp : Space) (a n dep : Nat) : Option Line :=
  let m := byteMask (a % 128) n
  if 128 < a % 128 + n then none
  else (w.early.find? (fun x => x.space == sp && x.line == a / 128 && x.valid &&& sectTouched m == sectTouched m && decide (dep ≤ x.stamp))).map (·.data)
/-- The line read ahead that serves a load of a slot. -/
def State.readAhead (s : State) (wid fid slot : Nat) (sp : Space) (a n dep : Nat) : Option Line :=
  match s.warp wid, s.fidFrame wid fid with
  | some w, some f => if f.plainLoad slot then w.earlyLine sp a n dep else none
  | _, _ => none
/-- A write of the warp: what it has read ahead of these bytes does not stand before it (R256). -/
def Warp.wrote (w : Warp) (sp : Space) (a n : Nat) : Warp :=
  { w with early := w.early.filter (fun x => !(x.space == sp && overlaps a n (128 * x.line) 128)) }

/-- The access has its line. -/
def State.capture (s : State) (aid : Nat) (a : Access) (l : Line) (pois : Bool) (seen : Nat) : State :=
  s.setAcc aid { a with stat := .got l pois, seen := seen }

/-- The offset in the hall store that a byte of an access reaches: none for the record of an engine command (R28). -/
def State.accWindow (s : State) (a : Access) (va : Nat) : Option Nat :=
  match a.kind with
  | .record _ true => none
  | _ => (s.warp a.wid).bind (fun w => s.inWindow w va)

/-- The request of an access is on its way. -/
def AStat.onWay : AStat → Bool
  | .sent _ _ => true | .outside _ => true | _ => false
/-- The line requests of a core on their way: those of its accesses, of its copies, and of what brings lines to its L1 (R5). -/
def State.coreBusy (s : State) (core : Nat) : Nat :=
  (s.accs.filter (fun p => p.2.stat.onWay && s.accCore p.2 == core)).length
    + ((s.core core).chans.map (fun q => q.2.asked.length + ((s.hall (hallOfCore core)).reads.filter (fun r => match r.who with
      | .copy i _ => i == q.2.id
      | _ => false)).length)).foldl (· + ·) 0
    + ((s.hall (hallOfCore core)).reads.filter (fun r => r.who == .pref (some core))).length
    + (s.ext.filter (fun p => p.2.pref == some core)).length
/-- The core has a tracker for one more. -/
def State.coreRoom (s : State) (core : Nat) : Bool := decide (s.coreBusy core < Config.coreTrackers)
/-- The core has a tracker for an access, and none that began before waits for one: requests wait in the order they arose (R313). -/
def State.coreFree (s : State) (core aid : Nat) : Bool :=
  s.accs.all (fun p => !(p.2.stat == .queued && decide (p.1 < aid) && s.accCore p.2 == core)) && s.coreRoom core
/-- It has one for a request that arises now. -/
def State.coreNext (s : State) (core : Nat) : Bool := s.coreFree core s.nextId

/-- Issues the read of a translated load: its recipe line, the L1, the hall cache, the hall link, or a request that leaves
the package. -/
def State.issueLoad (s : State) (aid : Nat) (a : Access) : State :=
  let va := a.pieceVa
  let core := s.accCore a
  let h := hallOfCore core
  let ctx := s.accCtx a
  let wg := ((s.warp a.wid).map (·.wg)).getD 0
  match s.accWindow a va with
  | some o =>
    let hs := s.storeOf h (((mget s.wgs wg).map (·.gid)).getD 0)
    (match s.readAhead a.wid a.fid a.slot .hallStore o a.pieceLen (s.accDep a) with
     | some l => s.capture aid a (placeAt (lineBytes l (o % 128) a.pieceLen) (va % 128)) false 0
     | none => s.capture aid a (placeAt (hs.bytes o a.pieceLen) (va % 128)) (hs.poisoned o a.pieceLen) 0)
  | none =>
  match s.recRead ctx wg va with
  | .line l p => (s.recTouch ctx va).capture aid a l (p &&& sectTouched (byteMask (va % 128) a.pieceLen) != 0) 0
  | .refused c => s.accPoison aid a c va
  | .miss i => (s.spawnSlice ctx i core).setAcc aid { a with stat := .recipe i }
  | .plain =>
    match physIn a.xl va with
    | none => s.accPoison aid a cPageProtection va
    | some (pa, key) =>
      let m := byteMask (pa % 128) a.pieceLen
      let sect := sectTouched m
      let dep := s.accDep a
      let l1 : Option CLine := match mget (s.core core).l1 (pa / 128) with
        | some c => if c.valid &&& sect = sect ∧ dep ≤ c.stamp ∧ !scopeL1 a.scope then some c else none
        | none => none
      match s.readAhead a.wid a.fid a.slot .global pa a.pieceLen dep with
      | some l => s.capture aid a l false 0
      | none =>
      match s.home pa with
      | .bad => s.accPoison aid a cPageProtection va
      | .dev p =>
        (match l1 with
         | some c => s.capture aid a c.data (c.pois &&& sect != 0) 0
         | none =>
           match (if scopeDev a.scope then none else s.hallHit h (p / 128) sect dep) with
           | some c => (s.updCore core (fun k => k.l1Fill (Config.victim s.tick) ctx (p / 128) c.data c.valid c.pois c.stamp)).capture aid a c.data (c.pois &&& sect != 0) 0
           | none =>
             if !s.coreFree core aid then s.setAcc aid { a with stat := .queued }
             else
             let tag := s.newTag h
             let s1 := (s.setAcc aid { a with stat := .sent h tag }).updHall h (fun x => { x with nextTag := (tag + 1) % 65536 })
             s1.sendUp h { type := .read, tag := tag, ctx := ctx, sect := sect, aop := 0, a64 := false, acas := false, af32 := false,
                           key := key, pa := p, data := 0, mask := 0, pois := 0 })
      | k =>
        (match l1 with
         | some c => s.capture aid a c.data (c.pois &&& sect != 0) 0
         | none =>
           if !s.coreFree core aid then s.setAcc aid { a with stat := .queued }
           else
           let msg : HMsg := { kind := .load, src := fld s.domain 9 0, dst := 0, tag := 0, ctx := ctx, key := key, pa := 0, size := a.pieceLen,
                               aop := 0, acas := false, af32 := false, data := 0, mask := m, poisoned := false }
           let s1 := s.setAcc aid { a with stat := .outside s.nextId }
           match k with
           | .host off => s1.sendOut { msg with pa := off } true (some aid) 0 h 0
           | .remote pk off => s1.sendOut { msg with dst := pk, pa := off } false (some aid) 0 h 0
           | _ => s1)

/-- The data slot of an atomic: the operand, and for `CAS` the new value above the expected one (R345). -/
def atomData (b c : Word) : Line := BitVec.ofNat 1024 (b.toNat + c.toNat * 2 ^ 64)

/-- Atomic operations that plain PCIe carries: add, exchange and compare-and-swap (R350). -/
def pcieAtomic (aop : BitVec 3) (cas f32 : Bool) : Bool := cas || (!f32 && (aop == 0 || aop == 6))

/-- Issues a translated atomic to its home (R202, R390); the hall's own copies of the line are dropped. -/
def State.issueAtomic (s : State) (aid : Nat) (a : Access) (aop : BitVec 3) (w64 cas f32 : Bool) : State :=
  let core := s.accCore a
  let h := hallOfCore core
  let ctx := s.accCtx a
  match physIn a.xl a.va with
  | none => s.accPoison aid a cPageProtection a.va
  | some (pa, key) =>
    match s.home pa with
    | .bad => s.accPoison aid a cPageProtection a.va
    | kind =>
    if !s.coreFree core aid then s.setAcc aid { a with stat := .queued }
    else match kind with
    | .bad => s
    | .dev p =>
      let tag := s.newTag h
      let s1 := (s.setAcc aid { a with stat := .sent h tag }).updHall h (fun x => { x with nextTag := (tag + 1) % 65536 })
      ((s1.dropLine h (p / 128)).updWarp a.wid (fun w => w.wrote .global pa a.size)).sendUp h
        { type := .atomic, tag := tag, ctx := ctx, sect := sectTouched (byteMask (p % 128) a.size), aop := aop, a64 := w64, acas := cas, af32 := f32,
          key := key, pa := p, data := if cas then atomData a.b a.c else atomData a.b 0, mask := 0, pois := 0 }
    | k =>
      let msg : HMsg := { kind := .atomic, src := fld s.domain 9 0, dst := 0, tag := 0, ctx := ctx, key := key, pa := 0, size := a.size, aop := aop,
                          acas := cas, af32 := f32, data := if cas then atomData a.b a.c else atomData a.b 0,
                          mask := byteMask (pa % 128) a.size, poisoned := false }
      let s1 := ((s.setAcc aid { a with stat := .outside s.nextId }).updCore core (fun c => { c with l1 := mdel c.l1 (pa / 128) })).updWarp a.wid (fun w => w.wrote .global pa a.size)
      match k with
      | .host off =>
        if pcieAtomic aop cas f32 then s1.sendOut { msg with pa := off } true (some aid) 0 h 0
        else s.accPoison aid a cPageProtection a.va
      | .remote pk off => s1.sendOut { msg with dst := pk, pa := off } false (some aid) 0 h 0
      | _ => s1

/-- The halls of a warp's grid, as a bit set (R183). -/
def State.hallBits (s : State) (w : Warp) : Nat :=
  match s.gridOf w with
  | some g => (List.range 8).foldl (fun a d => if g.halls.contains d then a + 2 ^ d else a) 0
  | none => 0
/-- The codes of the barrier commands in a transaction (DESIGN CHOICE, log entry 40). -/
def BCmd.code : BCmd → Nat
  | .init => 0 | .arrive => 1 | .drop => 2 | .wait => 3 | .arriveWait => 4 | .rewait => 5 | .expect => 6
def BCmd.ofCode (n : Nat) : BCmd :=
  if n = 0 then .init else if n = 1 then .arrive else if n = 2 then .drop else if n = 3 then .wait else if n = 4 then .arriveWait
  else if n = 5 then .rewait else .expect
/-- Sends a translated barrier command on a device-scope object to its home, which is local memory (R179); the hall's own copies of the
line are dropped. -/
def State.issueBarrier (s : State) (aid : Nat) (a : Access) (cmd : BCmd) : State :=
  let core := s.accCore a
  let h := hallOfCore core
  match physIn a.xl a.va with
  | none => s.accPoison aid a cPageProtection a.va
  | some (pa, key) => match s.physKind pa with
    | .dev p =>
      if !s.coreFree core aid then s.setAcc aid { a with stat := .queued }
      else
        let tag := s.newTag h
        let s1 := (s.setAcc aid { a with stat := .sent h tag }).updHall h (fun x => { x with nextTag := (tag + 1) % 65536 })
        let bits := ((s.warp a.wid).map (fun w => s.hallBits w)).getD 0
        ((s1.dropLine h (p / 128)).updWarp a.wid (fun w => w.wrote .global p 16)).sendUp h
          { type := .atomic, tag := tag, ctx := s.accCtx a, sect := sectTouched (byteMask (p % 128) 16), aop := 7, a64 := false, acas := false, af32 := false,
            key := key, pa := p, data := BitVec.ofNat 1024 (a.b.toNat + cmd.code * 2 ^ 64 + bits * 2 ^ 72), mask := 0, pois := 0 }
    | _ => s.accPoison aid a cPageProtection a.va

/-! ## A buffered store -/

/-- The slice of a workgroup writes only its own tile (R293, R294). -/
def State.ownTile (s : State) (ctx wg va n : Nat) : Bool :=
  match s.sliceOf wg, mget s.ctxs ctx with
  | some x, some c => (match mget c.recipes x.idx with
    | some r => decide (r.tile ≤ va) && decide (va + n ≤ r.tile + r.size)
    | none => false)
  | _, _ => false

/-- A store whose checks have passed is buffered in its frame (R85). -/
def State.bufferStore (s : State) (aid : Nat) (a : Access) (k : SinkKind) : State :=
  let x : Sink := { slot := a.slot, lane := a.lane, mos := a.mos, kind := k, space := .global, addr := a.va, size := a.size, data := a.b,
                    xl := a.xl, stale := false, lost := 0 }
  { s.updFid a.wid a.fid (fun f => { f with sinks := f.sinks ++ [x] }.markDone a.slot a.lane) with accs := mdel s.accs aid }

/-! ## Translation of an access (R190, R192) -/

def AKind.need : AKind → Need
  | .load _ => .rd
  | .record _ _ => .rd
  | .barrier _ => .rw
  | .atomic _ _ _ _ _ => .rw
  | .store _ => .wr

/-- The pages that an access translates: none of the hall store window (R28). -/
def State.accPages (s : State) (a : Access) : List Nat :=
  (pagesOf a.va a.size).filter (fun pg => (s.accWindow a (max a.va (pg * 65536))).isNone)
/-- The pages of an access that no translation cache holds, for a core. -/
def State.missing (s : State) (core ctx : Nat) (a : Access) : List Nat :=
  (s.accPages a).filter (fun pg => (s.tlbFind core ctx (max a.va (pg * 65536))).isNone)
def State.found (s : State) (core ctx : Nat) (a : Access) : List Xlat :=
  (s.accPages a).filterMap (fun pg => s.tlbFind core ctx (max a.va (pg * 65536)))

/-- The distinct pages on whose walks accesses of a hall wait (R316). -/
def State.hallPending (s : State) (h : Nat) : Nat :=
  (s.walks.filter (fun w => s.accs.any (fun p => p.2.stat == .walk w.page && s.accCtx p.2 == w.ctx && hallOfCore (s.accCore p.2) == h))).length
/-- A miss attaches to the walk of its page, or asks for one; while the hall's or the Gallery's queue is full it waits in its core (R316). -/
def State.enterWalk (s : State) (h ctx pg : Nat) : State :=
  if s.walks.any (fun w => w.ctx == ctx && w.page == pg) then s
  else if s.walks.length < Config.galPages ∧ (s.walks.length < Config.hallPages ∨ s.hallPending h < Config.hallPages) then
    { s with walks := s.walks ++ [{ ctx := ctx, page := pg }] }
  else s
/-- The misses that wait in their cores enter the queues in the order they arose. -/
def State.enterWalks (s : State) : State :=
  s.accs.foldl (fun (s : State) p => match p.2.stat with
    | .walk pg => s.enterWalk (hallOfCore (s.accCore p.2)) (s.accCtx p.2) pg
    | _ => s) s

/-- Carries an access through checks 3 to 5, parks it on the walk of a page, or issues it. -/
def State.accStep (s : State) (aid : Nat) (a : Access) : State :=
  let core := s.accCore a
  let ctx := s.accCtx a
  let wg := ((s.warp a.wid).map (·.wg)).getD 0
  let park (pg : Nat) : State := (s.setAcc aid { a with stat := .walk pg }).enterWalk (hallOfCore core) ctx pg
  match s.missing core ctx a with
  | pg :: _ => park pg
  | [] =>
    let xs := s.found core ctx a
    let a1 := { a with xl := xs }
    match (s.accPages a).find? (fun pg => match physIn xs (max a.va (pg * 65536)), s.tlbFind core ctx (max a.va (pg * 65536)) with
        | some _, some x => !s.pageOk x a.kind.need (max a.va (pg * 65536))
        | _, _ => true) with
    | some pg => s.accPoison aid a cPageProtection (max a.va (pg * 65536))
    | none =>
      if a.kind.isSink && s.immutable ctx a.va a.size && !s.ownTile ctx wg a.va a.size then s.accPoison aid a cRecipePinnedWrite a.va
      else match a.kind with
        | .load _ => s.issueLoad aid a1
        | .record _ _ => s.issueLoad aid a1
        | .atomic aop w64 cas f32 _ => s.issueAtomic aid a1 aop w64 cas f32
        | .barrier cmd => s.issueBarrier aid a1 cmd
        | .store k =>
          if (s.sliceOf wg).isSome && !s.ownTile ctx wg a.va a.size then s.accPoison aid a cRecipeFailed a.va
          else s.bufferStore aid a1 k

/-- A new access begins. -/
def State.begin (s : State) (a : Access) : State := (({ s with nextId := s.nextId + 1 } : State).setAcc s.nextId a).accStep s.nextId a

/-! ## Full-empty waits (R199) -/

/-- A full-empty wait of a lane: its order, its warp, frame, slot and lane, its address, and whether it keeps. -/
structure FeWait where
  order : Nat
  wid : Nat
  fid : Nat
  slot : Nat
  lane : Nat
  addr : Nat
  keep : Bool

/-- Every full-empty wait on the scratch of a workgroup. -/
def State.feWaits (s : State) (wg : Nat) : List FeWait :=
  (s.warps.map (fun p => (p.2.levels.map (fun lv => match lv.frame with
    | some f => f.waits.filterMap (fun q => match q.2 with
      | .fe l g a keep o => if g = wg then some ⟨o, p.1, f.fid, q.1, l, a, keep⟩ else none
      | _ => none)
    | none => [])).flatten)).flatten
/-- Those on one granule. -/
def State.feWaiters (s : State) (wg granule : Nat) : List FeWait := (s.feWaits wg).filter (fun x => x.addr / 16 == granule)
/-- The order of the oldest wait of a slot among some: its lanes are satisfied in increasing order (R199). -/
def feSlotOrder (ws : List FeWait) (x : FeWait) : Nat :=
  (ws.filter (fun y => y.wid == x.wid && y.fid == x.fid && y.slot == x.slot)).foldl (fun a y => min a y.order) x.order
/-- The clearing reader that a fill satisfies: of the slot that waits longest, the lowest lane. -/
def feFirst (ws : List FeWait) : Option FeWait :=
  match ws.filter (fun x => !x.keep) with
  | [] => none
  | x :: r => some (r.foldl (fun (a b : FeWait) =>
      if feSlotOrder ws b < feSlotOrder ws a ∨ (feSlotOrder ws b = feSlotOrder ws a ∧ b.lane < a.lane) then b else a) x)
/-- The wait may be satisfied: its granule is full; for a clearing reader it is the first, and no keeping reader waits. -/
def State.feReady (s : State) (q : Wait) : Bool :=
  match q with
  | .fe _ wg a keep o => (s.memOf wg).isFull a && (keep || (let ws := s.feWaiters wg (a / 16); ws.all (fun x => !x.keep) &&
      (match feFirst ws with
       | some y => y.order == o
       | none => false)))
  | .feDone _ _ _ core seen => s.invsApplied (hallOfCore core) seen
  | _ => false
/-- A lane's full-empty wait is satisfied: it reads its 8 bytes and, unless it keeps, empties the granule, and a read that empties is
recorded (R87). Where it is the acquire of its block (R257, R258), its token comes once the invalidations sent by then are applied. -/
def State.feTake (s : State) (wid fid slot lane wg a : Nat) (keep : Bool) : State :=
  let mine (q : Nat × Wait) : Bool := q.1 == slot && (match q.2 with
    | .fe l _ _ _ _ => l == lane
    | _ => false)
  let m := s.memOf wg
  let t := match s.fidFrame wid fid with
    | some f => f.loadTok slot ((mosOf (f.word slot)).getD 0) lane (.scratch wg) [] a 8 6 (m.scr a 8) (m.scrPois a 8)
        (eaOf (f.opVal 0 slot lane) (offOf (f.word slot)) 8)
    | none => .null
  let done := !keep && !t.isPoison
  let s1 := s.updFid wid fid (fun f => { f with waits := f.waits.filter (fun q => !mine q) })
  let s2 := if done then s1.updMem wg (fun m => m.empt a 8) else s1
  let core := ((s.warp wid).map (fun w => s.coreOf w)).getD 0
  let scope := match s.fidFrame wid fid with
    | some f => f.acqScope slot
    | none => 0
  if s2.mayAcquire core scope then (s2.acquire wid (max 1 scope)).deliverTo wid fid slot lane t s.stamp false done
  else
    let s3 := if done then s2.updWarp wid (fun w => w.record fid { slot := slot, lane := lane, t0 := some t, t1 := none, waiting := none, dep := s.stamp }) else s2
    s3.updFid wid fid (fun f => { f with waits := f.waits ++ [(slot, .feDone lane t s.stamp core s.stamp)] })
/-- The acquire of a lane's full-empty read ends: the core's L1 goes, and the token comes. -/
def State.feAcquired (s : State) (wid fid slot lane : Nat) (t : Tok) (dep : Nat) : State :=
  let mine (q : Nat × Wait) : Bool := q.1 == slot && (match q.2 with
    | .feDone l _ _ _ _ => l == lane
    | _ => false)
  let s1 := s.updFid wid fid (fun f => { f with waits := f.waits.filter (fun q => !mine q) })
  match s.fidFrame wid fid with
  | some f => (s1.acquire wid (max 1 (f.acqScope slot))).deliverTo wid fid slot lane t dep false false
  | none => s1
/-- The readers that the last fill of a full granule satisfies take it: every keeping reader, then the first clearing one. -/
def State.feSettle (s : State) (wg granule : Nat) : State :=
  if (s.memOf wg).isFull (16 * granule) then
    let ws := s.feWaiters wg granule
    let s1 := (ws.filter (·.keep)).foldl (fun (s : State) x => s.feTake x.wid x.fid x.slot x.lane wg x.addr true) s
    match feFirst ws with
    | none => s1
    | some y => s1.feTake y.wid y.fid y.slot y.lane wg y.addr false
  else s
/-- Before a full-empty bit changes again, the readers of its earlier change are satisfied: each change from empty to full satisfies the
keeping readers that wait at that moment and one clearing reader (R199). -/
def State.feSettleRange (s : State) (wg a n : Nat) : State :=
  (((s.feWaits wg).filter (fun x => decide (a / 16 ≤ x.addr / 16) && decide (16 * (x.addr / 16) < a + n))).foldl
    (fun (l : List Nat) x => sadd l (x.addr / 16)) []).foldl (fun (s : State) g => s.feSettle wg g) s

end Sys2Proof.Machine
end

