-- ==== Sys2Proof/Machine/Lane.lean ====
section
/-!
DEFINITION. Sys2Proof/Machine/Lane.lean: moves and the lane operations of group G0 (R127, R128, R143 to R147).
-/
namespace Sys2Proof.Machine

/-! ## Slots whose entry overrides R80 -/

/-- A slot in one lane, its token made from the operand tokens, whatever their kinds, by `k`. -/
def Frame.fireRaw (f : Frame) (slot nops : Nat) (pm : BitVec 2) (ts : List (BitVec 9)) (dep : Nat) (k : Nat → Tok) (lane : Nat) : Frame :=
  match f.laneGo slot nops pm lane with
  | .wait => f
  | .off => (f.send ts lane .null (f.dep 3 slot lane)).markDone slot lane
  | .pois t => (f.send ts lane t 0).markDone slot lane
  | .fire => (((f.markFired slot lane).markDone slot lane)).send ts lane (k lane) dep

def Frame.fireAllRaw (f : Frame) (slot nops : Nat) (pm : BitVec 2) (ts : List (BitVec 9)) (dep : Nat) (k : Nat → Tok) : Frame :=
  (lanesOf f.mask).foldl (fun g l => g.fireRaw slot nops pm ts dep k l) f

/-- The lanes of the path in which the slot fires, lowest first (R143). -/
def Frame.firing (f : Frame) (slot nops : Nat) (pm : BitVec 2) : List Nat :=
  (lanesOf f.mask).filter (fun l => decide (f.laneGo slot nops pm l = .fire))
/-- The newest stamp that the operands and predicates of the path's lanes derive from (R261). -/
def Frame.allDep (f : Frame) (slot nops : Nat) : Nat := (lanesOf f.mask).foldl (fun a l => max a (f.opDep slot nops l)) 0

/-- A lane operation: it resolves in all participants at once (R143). `k` is given the frame, the firing lanes and a
lane. -/
def slotX (s : State) (pm : BitVec 2) (reserved : Bool) (nops : Nat) (tb ta : BitVec 9) (k : Env → List Nat → Nat → Tok) : Out :=
  match s.env? with
  | none => .refused .noSlot
  | some e => ran s (match vecCause pm reserved false with
    | some c => s.vectorL e pm nops [ta, tb] false c
    | none =>
      if e.allTokens nops pm then
        s.dispatch e (e.f.fireAllRaw e.slot nops pm [ta, tb] (e.f.allDep e.slot nops) (k e (e.f.firing e.slot nops pm)))
      else s)

/-! ## The rules of the lane operations -/

def Env.opTok (e : Env) (port lane : Nat) : Tok := (e.f.tok port e.slot lane).getD .null

/-- The lanes whose operand a is a value, among those that fire: the contributors (R145). -/
def Env.contributors (e : Env) (fs : List Nat) : List (Nat × Word) :=
  fs.filterMap (fun l => match e.opTok 0 l with
    | .value v => some (l, v)
    | _ => none)
/-- The lowest firing lane whose operand a is poison. -/
def Env.firstPoison (e : Env) (fs : List Nat) : Option (Nat × Tok) :=
  (fs.filterMap (fun l => if (e.opTok 0 l).isPoison then some (l, e.opTok 0 l) else none)).head?

/-- The source lane of `SHFL`, where it is in range (R144). -/
def shflSource (md : BitVec 3) (width l : Nat) (b : Word) : Option Nat :=
  if md = 0 then (if b.toNat < width then some b.toNat else none)
  else if md = 1 then (if l < b.toNat then none else some (l - b.toNat))
  else if md = 2 then (if width ≤ l + b.toNat then none else some (l + b.toNat))
  else (if (l ^^^ b.toNat) < width then some (l ^^^ b.toNat) else none)

def shflTok (md : BitVec 3) (e : Env) (fs : List Nat) (l : Nat) : Tok :=
  match e.opTok 1 l with
  | .poison a b c => .poison a b c
  | .null => .null
  | .value v => match shflSource md e.w.width l v with
    | some x => if fs.contains x then e.opTok 0 x else e.opTok 0 l
    | none => e.opTok 0 l

/-- What a lane of `VOTE` or `REDX` receives: null for a null operand, the lowest lane's poison, else `v` (R145). -/
def votedTok (e : Env) (fs : List Nat) (l : Nat) (v : Tok) : Tok :=
  if e.opTok 0 l = .null then .null
  else match e.firstPoison fs with
    | some p => p.2
    | none => v

def ballot (cs : List (Nat × Word)) : Lanes := cs.foldl (fun m p => if p.2.getLsbD 0 then m ||| laneBit p.1 else m) 0
def voteVal (md : BitVec 3) (cs : List (Nat × Word)) : Word :=
  if md = 0 then boolTok (cs.any (fun p => p.2.getLsbD 0))
  else if md = 1 then boolTok (cs.all (fun p => p.2.getLsbD 0))
  else if md = 2 then ballot cs
  else toWord (laneCount (ballot cs))

/-! ## The tree of R117 -/

/-- One level of the tree: pairs of neighbouring positions. -/
def treeStep (k : Word → Word → Word) : List (Option Word) → List (Option Word)
  | some p :: some q :: r => some (k p q) :: treeStep k r
  | some p :: none :: r => some p :: treeStep k r
  | none :: x :: r => x :: treeStep k r
  | l => l
/-- The root over `width` positions, at most 64. -/
def treeRoot (k : Word → Word → Word) (l : List (Option Word)) : Option Word :=
  ((treeStep k (treeStep k (treeStep k (treeStep k (treeStep k (treeStep k l)))))).head?).join

/-- The combining operations of R146. -/
def redCombine (md : BitVec 3) (p q : Word) : Word :=
  if md = 0 then zx (p + q) 32
  else if md = 1 then fOp32 .add 0 p q 0
  else if md = 2 then (if q.slt p then q else p)
  else if md = 3 then (if p.slt q then q else p)
  else if md = 4 then p &&& q
  else p ||| q
/-- The width in which a root is delivered; `add.f32` makes every NaN the canonical one (R117, R146). -/
def redDeliver (md : BitVec 3) (v : Word) : Word :=
  if md = 0 then zx v 32
  else if md = 1 then (if fp32.isNan (lo32 v) then toWord fp32.nanBits else zx v 32)
  else v

/-- The root of the tree over the contributors at or below lane `upto`. -/
def reduceTo (md : BitVec 3) (width : Nat) (cs : List (Nat × Word)) (upto : Nat) : Word :=
  let pos := (List.range width).map (fun i => if i ≤ upto then (cs.find? (fun p => p.1 == i)).map (·.2) else none)
  redDeliver md ((treeRoot (redCombine md) pos).getD 0)

/-- `SCANX`: poison from the lowest poisoned firing lane up (R146). -/
def scanTok (md : BitVec 3) (e : Env) (fs : List Nat) (l : Nat) : Tok :=
  if e.opTok 0 l = .null then .null
  else match e.firstPoison fs with
    | some p => if p.1 ≤ l then p.2 else .value (reduceTo md e.w.width (e.contributors fs) l)
    | none => .value (reduceTo md e.w.width (e.contributors fs) l)

/-! ## Meanings -/

/-- `MOV` (R127). -/
def execMov (pm : BitVec 2) (tb ta : BitVec 9) (s : State) : Out := alu s pm false 1 tb ta (fun a _ _ => a)

/-- `VOID` (R127). -/
def execVoid (pm : BitVec 2) (tb ta : BitVec 9) (s : State) : Out :=
  slotL s pm false 0 [ta, tb] false (fun _ _ _ _ _ _ => .out .null)

/-- `PICK` (R128): a where it is not null, whatever its kind, else b. -/
def execPick (pm : BitVec 2) (tb ta : BitVec 9) (s : State) : Out :=
  match s.env? with
  | none => .refused .noSlot
  | some e => ran s (match vecCause pm false false with
    | some c => s.vectorL e pm 2 [ta, tb] false c
    | none => s.dispatch e ((lanesOf e.f.mask).foldl (fun f l =>
        f.fireRaw e.slot 2 pm [ta, tb] (f.opDep e.slot 2 l) (fun l => if e.opTok 0 l = .null then e.opTok 1 l else e.opTok 0 l) l) e.f))

/-- `SHFL` (R144). -/
def execShfl (pm : BitVec 2) (md : BitVec 3) (tb ta : BitVec 9) (s : State) : Out :=
  slotX s pm (md.getLsbD 2) 2 tb ta (shflTok md)

/-- `VOTE` (R145). -/
def execVote (pm : BitVec 2) (md : BitVec 3) (tb ta : BitVec 9) (s : State) : Out :=
  slotX s pm (md.getLsbD 2) 1 tb ta (fun e fs l => votedTok e fs l (.value (voteVal md (e.contributors fs))))

/-- `REDX` (R146). -/
def execRedx (pm : BitVec 2) (md : BitVec 3) (tb ta : BitVec 9) (s : State) : Out :=
  slotX s pm (decide (6 ≤ md.toNat)) 1 tb ta (fun e fs l => votedTok e fs l (.value (reduceTo md e.w.width (e.contributors fs) 63)))

/-- `SCANX` (R146). -/
def execScanx (pm : BitVec 2) (md : BitVec 3) (tb ta : BitVec 9) (s : State) : Out :=
  slotX s pm (decide (6 ≤ md.toNat)) 1 tb ta (scanTok md)

/-- `ELECT` (R147). -/
def execElect (pm : BitVec 2) (tb ta : BitVec 9) (s : State) : Out :=
  slotX s pm false 0 tb ta (fun _ fs l => .value (boolTok (fs.head? == some l)))

end Sys2Proof.Machine
end

