-- ==== Sys2Proof/Machine/MemoryInsn.lean ====
section
/-!
DEFINITION. Sys2Proof/Machine/MemoryInsn.lean: loads, stores, full-empty forms, atomics, fences, hints, discard, clean and
instruction invalidation: group G5 but for the copy command (R190 to R214).
-/
namespace Sys2Proof.Machine

/-! ## Shared parts -/

def State.gidOf (s : State) (w : Warp) : Nat := ((mget s.wgs w.wg).map (·.gid)).getD 0
/-- The lane of the slot under the cursor becomes poison. -/
def State.failLane (s : State) (e : Env) (l : Nat) (snk : Bool) (cause : BitVec 8) (info : Word) : State :=
  s.deliverTo e.wid e.f.fid e.slot l (faultTok e.slot cause info) 0 snk false
/-- The scope at which an acquire in a space acts: in the hall store, hall scope at most (R195, R253). -/
def spaceScope (sp : Space) (scope : Nat) : Nat := if sp == .hallStore then min scope 3 else scope
def newAcc (e : Env) (l m : Nat) (kind : AKind) (scope : Nat) (va : Nat) (size : Nat) (b c : Word) : Access :=
  { wid := e.wid, fid := e.f.fid, slot := e.slot, lane := l, mos := m, kind := kind, scope := scope, va := va, size := size, b := b, c := c,
    xl := [], stat := .walk 0, seen := 0 }
/-- Bytes of scratch, a tile or a hall store, and whether a unit of them is poisoned. -/
def State.spaceRead (s : State) (w : Warp) (sp : Space) (a n : Nat) : Nat × Bool :=
  match sp with
  | .scratch wg => ((s.memOf wg).scr a n, (s.memOf wg).scrPois a n)
  | .tile wg => ((s.memOf wg).tile a n, (s.memOf wg).tilePois a n)
  | .hallStore => let h := s.storeOf (s.hallOf w) (s.gidOf w); (h.bytes a n, h.poisoned a n)
  | .global => (0, false)
/-- A matrix operation in progress names the tile: it has taken a K-step, and another is still to come (R216). -/
def State.opOn (s : State) (wg tile : Nat) : Bool :=
  s.cores.any (fun p => p.2.mres.any (fun r => r.ops.any (fun o => decide (0 < o.kdone) && o.tile == tile && (r.wg == wg || o.pair == some wg))))
/-- Writes bytes of scratch, a tile or a hall store. A store to a tile that an operation in progress names is without effect, since each
element ends with the engine's result (R216, log entry 33). -/
def State.spaceWrite (s : State) (w : Warp) (sp : Space) (a n v : Nat) : State :=
  match sp with
  | .scratch wg => s.updMem wg (fun m => m.scrPut a n v)
  | .tile wg => if s.opOn wg (a / 16384) then s else s.updMem wg (fun m => m.tilePut a n v)
  | .hallStore => s.updStore (s.hallOf w) (s.gidOf w) (fun h => h.put a n v)
  | .global => s
def State.inSlice (s : State) (w : Warp) : Bool := (s.sliceOf w.wg).isSome

/-- The slot under the cursor has recorded a buffered sink in a lane (R85). -/
def State.addSink (s : State) (e : Env) (l : Nat) (x : Sink) : State :=
  s.updFid e.wid e.f.fid (fun f => ({ f with sinks := f.sinks ++ [x] }).markDone e.slot l)

/-! ## Loads (R193 to R195) -/

/-- The frame of the slot as it stands in `s`. -/
def State.nowFrame (s : State) (e : Env) : Frame := (s.fidFrame e.wid e.f.fid).getD e.f

/-- The orders that a load waits for in its lane. -/
def loadOk (m n unit : Nat) (form : Form) (off : Int) (ordered : Bool) (e : Env) (s : State) (l : Nat) (a _ _ : Word) : Bool :=
  match s.reach e.w e.lv form (eaOf a off unit) n unit with
  | .error _ => true
  | .ok (sp, x) => e.f.acquired e.slot m false && s.laneOrder e e.f m l sp x n true && (!ordered || e.f.readsDone m l) &&
      (sp == .global || s.mayAcquire (s.coreOf e.w) (spaceScope sp (e.f.acqScope e.slot)))

/-- A load in one lane: checks 1 and 2, then its bytes, or its access to global memory. -/
def loadLane (m n unit : Nat) (form : Form) (md : BitVec 3) (off : Int) (e : Env) (s : State) (l : Nat) (a _ _ : Word) : State :=
  let ea := eaOf a off unit
  match s.reach e.w e.lv form ea n unit with
  | .error c => s.failLane e l false c ea
  | .ok (sp, x) =>
    let scope := spaceScope sp (e.f.acqScope e.slot)
    match sp with
    | .global => s.begin (newAcc e l m (.load md) scope x n 0 0)
    | _ =>
      let r := match s.readAhead e.wid e.f.fid e.slot sp x n (max (e.f.dep 0 e.slot l) (((s.warp e.wid).bind (·.floor)).getD 0)) with
        | some b => (lineBytes b (x % 128) n, false)
        | none => s.spaceRead e.w sp x n
      (s.acquire e.wid scope).deliverTo e.wid e.f.fid e.slot l (e.f.loadTok e.slot m l sp [] x n md r.1 r.2 ea) s.stamp false false

/-- The meaning of a load. -/
def loadSlot (s : State) (pm : BitVec 2) (reserved : Bool) (mos : BitVec 5) (md : BitVec 3) (form : Form) (n unit : Nat) (off : BitVec 4)
    (t : BitVec 9) (ordered : Bool) : Out :=
  slotM s pm reserved 1 [t] false (loadOk mos.toNat n unit form off.toInt ordered) (loadLane mos.toNat n unit form md off.toInt)

/-- `LD` (R193). -/
def execLd (pm : BitVec 2) (mos : BitVec 5) (md : BitVec 3) (off : BitVec 4) (t : BitVec 9) (s : State) : Out :=
  loadSlot s pm false mos md .glob (szBytes md) (szUnit md) off t false
/-- `LD.O` (R193). -/
def execLdO (pm : BitVec 2) (mos : BitVec 5) (md : BitVec 3) (off : BitVec 4) (t : BitVec 9) (s : State) : Out :=
  loadSlot s pm false mos md .glob (szBytes md) (szUnit md) off t true
/-- `LDA.32` (R195). -/
def execLda32 (pm : BitVec 2) (mos : BitVec 5) (md : BitVec 3) (off : BitVec 4) (t : BitVec 9) (s : State) : Out :=
  loadSlot s pm (!scopeValid md) mos 4 .glob 4 4 off t false
/-- `LDA.64` (R195). -/
def execLda64 (pm : BitVec 2) (mos : BitVec 5) (md : BitVec 3) (off : BitVec 4) (t : BitVec 9) (s : State) : Out :=
  loadSlot s pm (!scopeValid md) mos 6 .glob 8 8 off t false
/-- `LDS` (R193). -/
def execLds (pm : BitVec 2) (mos : BitVec 5) (md : BitVec 3) (off : BitVec 4) (t : BitVec 9) (s : State) : Out :=
  loadSlot s pm false mos md .scr (szBytes md) (szUnit md) off t false
/-- `LDC` (R193). -/
def execLdc (pm : BitVec 2) (mos : BitVec 5) (md : BitVec 3) (off : BitVec 4) (t : BitVec 9) (s : State) : Out :=
  loadSlot s pm false mos md .win (szBytes md) (szUnit md) off t false
/-- `LDT` (R193). -/
def execLdt (pm : BitVec 2) (mos : BitVec 5) (md : BitVec 3) (off : BitVec 4) (t : BitVec 9) (s : State) : Out :=
  loadSlot s pm (md != 4 && md != 5 && md != 6) mos md .tile (szBytes md) (szUnit md) off t false

/-! ## Constant banks (R21, R126, R194) -/

/-- Check 1 of a range of global memory: the 57-bit space, and the hall store within the window. -/
def State.rangeBad (s : State) (w : Warp) (a n : Nat) : Bool :=
  decide (2 ^ 57 ≤ a) || decide (2 ^ 57 < a + n) ||
    (match s.window w with
     | some (b, size) => let lo := b + size; let hi := b + 0x800000
                         (decide (lo ≤ a) && decide (a < hi)) || (decide (lo < hi) && overlaps a n lo (hi - lo))
     | none => false)

/-- The virtual address of a word of a bank, or none where the bank is absent. -/
def bankWord (cbase : Nat) (banks : BitVec 256) (bank word : Nat) : Option Nat :=
  let k := banks.extractLsb' (16 * bank) 16
  if k.getLsbD 15 then some (cbase + 2048 * (k.extractLsb' 0 15).toNat + 8 * word) else none
/-- The word of a bank of a warp's grid. -/
def State.bankAddr (s : State) (w : Warp) (bank word : Nat) : Option Nat :=
  match s.gridOf w with
  | some g => (match g.kind with
    | .slice _ => none
    | _ => bankWord g.lr.cbase g.lr.banks bank word)
  | none => none

/-- `GENK` (R126): the first lane that fires reads the word, and every lane where the slot fires receives what it read. -/
def execGenk (pm : BitVec 2) (bank : BitVec 4) (wd : BitVec 8) (t : BitVec 9) (s : State) : Out :=
  slotM s pm false 0 [t] false (fun _ _ _ _ _ _ => true) (fun e s l _ _ _ =>
    match s.bankAddr e.w bank.toNat wd.toNat with
    | none => s.deliverTo e.wid e.f.fid e.slot l (.value 0) 0 false false
    | some va => match mget (s.nowFrame e).samples e.slot with
      | some k => s.deliverTo e.wid e.f.fid e.slot l k s.stamp false false
      | none =>
        if s.accs.any (fun p => p.2.wid == e.wid && p.2.fid == e.f.fid && p.2.slot == e.slot) then s
        else if s.rangeBad e.w va 8 then s.deliverShared e.wid e.f.fid e.slot (faultTok e.slot cPageProtection (toWord va))
        else s.begin (newAcc e l 0 (.load 6) 0 va 8 0 0))

/-- `LDK` (R194). -/
def execLdk (pm : BitVec 2) (mos : BitVec 5) (off : BitVec 4) (t : BitVec 9) (s : State) : Out :=
  slotM s pm false 1 [t] false (fun e s _ _ _ _ => e.f.acquired e.slot mos.toNat false && s.mayAcquire (s.coreOf e.w) (e.f.acqScope e.slot))
    (fun e s l a _ _ =>
      let ea := eaOf a off.toInt 8
      let scope := e.f.acqScope e.slot
      if fld ea 2 0 ≠ 0 then s.failLane e l false cAlignment ea
      else match s.bankAddr e.w (fld ea 14 11) (fld ea 10 3) with
        | none => (s.acquire e.wid scope).deliverTo e.wid e.f.fid e.slot l (.value 0) 0 false false
        | some va => if s.rangeBad e.w va 8 then s.failLane e l false cPageProtection (toWord va)
                     else s.begin (newAcc e l mos.toNat (.load 6) scope va 8 0 0))

/-! ## Stores (R196, R197, R200) -/

/-- A store in one lane: checks 1 and 2, then its buffered sink, or the checks of global memory. -/
def storeLane (m n unit : Nat) (form : Form) (kind : SinkKind) (off : Int) (e : Env) (s : State) (l : Nat) (a b _ : Word) : State :=
  let ea := eaOf a off unit
  match s.reach e.w e.lv form ea n unit with
  | .error c => s.failLane e l true c ea
  | .ok (sp, x) => match sp with
    | .global => s.begin (newAcc e l m (.store kind) 0 x n b 0)
    | _ =>
      if s.inSlice e.w then s.failLane e l true cRecipeFailed ea
      else s.addSink e l
        { slot := e.slot, lane := l, mos := m, kind := kind, space := sp, addr := x, size := n, data := b, xl := [], stale := false, lost := 0 }

/-- What a store waits for in its lane: where R396 makes it wait for itself, for ever. -/
def storeOk (m n unit : Nat) (form : Form) (off : Int) (e : Env) (s : State) (l : Nat) (a _ _ : Word) : Bool :=
  match s.reach e.w e.lv form (eaOf a off unit) n unit with
  | .error _ => true
  | .ok (sp, x) => s.laneClear e e.f e.slot m l sp x n false

/-- The meaning of a store. -/
def storeSlot (s : State) (pm : BitVec 2) (reserved : Bool) (mos : BitVec 5) (kind : SinkKind) (form : Form) (n unit : Nat) (off : BitVec 13) : Out :=
  slotM s pm reserved 2 [] true (storeOk mos.toNat n unit form off.toInt) (storeLane mos.toNat n unit form kind off.toInt)

/-- The sizes of a store: not the sign-extending ones (R196). -/
def storeReserved (md : BitVec 3) : Bool := md == 1 || md == 3 || md == 5

/-- `ST` (R196). -/
def execSt (pm : BitVec 2) (mos : BitVec 5) (md : BitVec 3) (off : BitVec 13) (s : State) : Out :=
  storeSlot s pm (storeReserved md) mos .store .glob (szBytes md) (szUnit md) off
/-- `STS` (R196). -/
def execSts (pm : BitVec 2) (mos : BitVec 5) (md : BitVec 3) (off : BitVec 13) (s : State) : Out :=
  storeSlot s pm (storeReserved md) mos .store .scr (szBytes md) (szUnit md) off
/-- `STC` (R196). -/
def execStc (pm : BitVec 2) (mos : BitVec 5) (md : BitVec 3) (off : BitVec 13) (s : State) : Out :=
  storeSlot s pm (storeReserved md) mos .store .win (szBytes md) (szUnit md) off
/-- `STT` (R196). -/
def execStt (pm : BitVec 2) (mos : BitVec 5) (md : BitVec 3) (off : BitVec 13) (s : State) : Out :=
  storeSlot s pm (md != 4 && md != 6) mos .store .tile (szBytes md) (szUnit md) off
/-- `STREL.32` (R197). -/
def execStrel32 (pm : BitVec 2) (mos : BitVec 5) (md : BitVec 3) (off : BitVec 13) (s : State) : Out :=
  storeSlot s pm (!scopeValid md) mos (.strel md.toNat) .glob 4 4 off
/-- `STREL.64` (R197). -/
def execStrel64 (pm : BitVec 2) (mos : BitVec 5) (md : BitVec 3) (off : BitVec 13) (s : State) : Out :=
  storeSlot s pm (!scopeValid md) mos (.strel md.toNat) .glob 8 8 off
/-- `STS.FE` (R200). -/
def execStsFe (pm : BitVec 2) (mos : BitVec 5) (off : BitVec 13) (s : State) : Out := storeSlot s pm false mos .storeFE .scr 8 8 off

/-! ## Full-empty bits (R198 to R201) -/

/-- `LDS.FE` in one lane: a recorded clearing read delivers again; else the lane waits for its granule (R199). -/
def feLane (off : Int) (keep : Bool) (e : Env) (s : State) (l : Nat) (a _ _ : Word) : State :=
  match (if keep then none else e.lv.recorded e.slot l) with
  | some r => (s.acquire e.wid (max 1 (e.f.acqScope e.slot))).deliverTo e.wid e.f.fid e.slot l (r.t0.getD .null) r.dep false true
  | none =>
    let ea := eaOf a off 8
    match s.reach e.w e.lv .scr ea 8 8 with
    | .error c => s.failLane e l false c ea
    | .ok (sp, x) => match sp with
      | .scratch wg =>
        ({ s with nextId := s.nextId + 1 } : State).updFid e.wid e.f.fid (fun f => { f with waits := f.waits ++ [(e.slot, .fe l wg x keep s.nextId)] })
      | _ => s
/-- What an `LDS.FE` waits for in its lane before it waits for its granule; where the record holds its token, the acquire of its block. -/
def feOk (m : Nat) (off : Int) (keep : Bool) (e : Env) (s : State) (l : Nat) (a _ _ : Word) : Bool :=
  match (if keep then none else e.lv.recorded e.slot l) with
  | some _ => s.mayAcquire (s.coreOf e.w) (e.f.acqScope e.slot)
  | none => match s.reach e.w e.lv .scr (eaOf a off 8) 8 8 with
    | .error _ => true
    | .ok (sp, x) => e.f.acquired e.slot m false && s.laneOrder e e.f m l sp x 8 true

/-- `LDS.FE` (R199). -/
def execLdsFe (pm : BitVec 2) (mos : BitVec 5) (md : BitVec 3) (off : BitVec 4) (t : BitVec 9) (s : State) : Out :=
  slotM s pm (decide (2 ≤ md.toNat)) 1 [t] false (feOk mos.toNat off.toInt (md == 1)) (feLane off.toInt (md == 1))

/-- `FESET` and `FECLR` in one lane (R201). -/
def feMark (m : Nat) (kind : SinkKind) (off : Int) (e : Env) (s : State) (l : Nat) (a b _ : Word) : State :=
  let ea := eaOf a off 16
  let mis : Bool := ea.toNat % 16 != 0 || b.toNat % 16 != 0
  if b = 0 then
    (if 2 ^ 22 ≤ ea.toNat ∧ ¬(e.lv.pairReach = true ∧ ea.toNat / 2 ^ 22 = 1) then s.failLane e l true cScratchRange ea
     else if mis then s.failLane e l true cAlignment ea
     else s.updFid e.wid e.f.fid (fun f => f.markDone e.slot l))
  else match s.locate e.w e.lv .scr ea b.toNat with
    | .error c => s.failLane e l true c ea
    | .ok (sp, x) =>
      if mis then s.failLane e l true cAlignment ea
      else s.addSink e l
        { slot := e.slot, lane := l, mos := m, kind := kind, space := sp, addr := x, size := b.toNat, data := 0, xl := [], stale := false, lost := 0 }

/-- `FESET` (R201). -/
def execFeset (pm : BitVec 2) (mos : BitVec 5) (off : BitVec 13) (s : State) : Out :=
  slotM s pm false 2 [] true (fun _ _ _ _ _ _ => true) (feMark mos.toNat .feset off.toInt)
/-- `FECLR` (R201). -/
def execFeclr (pm : BitVec 2) (mos : BitVec 5) (off : BitVec 13) (s : State) : Out :=
  slotM s pm false 2 [] true (fun _ _ _ _ _ _ => true) (feMark mos.toNat .feclr off.toInt)

/-! ## Atomics (R202 to R205) -/

/-- An atomic of a space without pages, performed at once at its home. -/
def State.atomHere (s : State) (e : Env) (l : Nat) (sp : Space) (x n : Nat) (ea : Word) (aop : BitVec 3) (w64 cas f32 : Bool) (b c : Word) : State :=
  let r := s.spaceRead e.w sp x n
  if r.2 then s.failLane e l true cMemoryPoison ea
  else ((s.spaceWrite e.w sp x n (atomApply aop w64 cas f32 r.1 b.toNat c.toNat)).updWarp e.wid (fun w => w.wrote sp x n)).deliverTo e.wid e.f.fid e.slot l (.value (toWord r.1)) s.stamp true true

/-- An atomic in one lane: the recorded token (R87), R294, checks 1 and 2, then the operation or its access. -/
def atomLane (m n : Nat) (form : Form) (aop : BitVec 3) (w64 cas f32 red : Bool) (off : Int) (e : Env) (s : State) (l : Nat) (a b c : Word) : State :=
  match e.lv.recorded e.slot l with
  | some r => (s.acquire e.wid (e.f.acqScope e.slot)).deliverTo e.wid e.f.fid e.slot l (r.t0.getD .null) r.dep true true
  | none =>
    let ea := eaOf a off n
    if s.inSlice e.w then s.failLane e l true cRecipeFailed ea
    else match s.reach e.w e.lv form ea n n with
      | .error k => s.failLane e l true k ea
      | .ok (sp, x) =>
        let scope := spaceScope sp (e.f.acqScope e.slot)
        match sp with
        | .global => s.begin (newAcc e l m (.atomic aop w64 cas f32 red) scope x n b c)
        | _ => (s.acquire e.wid scope).atomHere e l sp x n ea aop w64 cas f32 b c

/-- The operation of a lane of the slot has begun and is not on its way yet: it waits for a translation or for a tracker. -/
def State.laneHeld (s : State) (e : Env) (j : Nat) : Bool :=
  s.accs.any (fun p => p.2.wid == e.wid && p.2.fid == e.f.fid && p.2.slot == e.slot && p.2.lane == j && (match p.2.stat with
    | .walk _ => true
    | .queued => true
    | _ => false))
/-- Every lower lane of the slot has resolved, reaches other bytes and has not fired, or has sent its operation: requests leave in increasing lane
order (R202, R390). -/
def State.lowerLanes (s : State) (e : Env) (nops : Nat) (pm : BitVec 2) (l : Nat) (sp : Space) (x n : Nat) : Bool :=
  let f := s.nowFrame e
  (lanesOf f.mask).all (fun j => decide (l ≤ j) || f.doneIn e.slot j || (match f.laneGo e.slot nops pm j with
    | .off => true
    | .pois _ => true
    | _ => match s.foot e f (e.slot, f.word e.slot) j with
      | .nowhere => true
      | .unknown => false
      | .at_ q b k => if hasLane (mgetD f.fired e.slot 0) j then !s.laneHeld e j else !s.meets e.w.ctx sp x n q b k))

/-- The orders that an atomic waits for in its lane (R85, R195, R202, R396); where the record holds its token, the acquire of its block. -/
def atomOk (m n nops : Nat) (pm : BitVec 2) (form : Form) (off : Int) (e : Env) (s : State) (l : Nat) (a _ _ : Word) : Bool :=
  match e.lv.recorded e.slot l with
  | some _ => s.mayAcquire (s.coreOf e.w) (e.f.acqScope e.slot)
  | none => match s.reach e.w e.lv form (eaOf a off n) n n with
    | .error _ => true
    | .ok (sp, x) => e.f.acquired e.slot m true && s.laneOrder e e.f m l sp x n false && s.laneClear e e.f e.slot m l sp x n true &&
        s.lowerLanes e nops pm l sp x n && (sp == .global || s.mayAcquire (s.coreOf e.w) (spaceScope sp (e.f.acqScope e.slot)))

/-- The meaning of an atomic. -/
def atomSlot (s : State) (pm : BitVec 2) (reserved : Bool) (mos : BitVec 5) (ts : List (BitVec 9)) (nops : Nat) (form : Form) (n : Nat) (aop : BitVec 3)
    (w64 cas f32 red : Bool) (off : Int) : Out :=
  slotM s pm reserved nops ts true (atomOk mos.toNat n nops pm form off)
    (atomLane mos.toNat n form aop w64 cas f32 red off)

/-- `ATOM.32` (R203). -/
def execAtom32 (pm : BitVec 2) (mos : BitVec 5) (md : BitVec 3) (off : BitVec 4) (t : BitVec 9) (s : State) : Out :=
  atomSlot s pm (md == 7) mos [t] 2 .glob 4 md false false false false off.toInt
/-- `ATOM.64` (R203). -/
def execAtom64 (pm : BitVec 2) (mos : BitVec 5) (md : BitVec 3) (off : BitVec 4) (t : BitVec 9) (s : State) : Out :=
  atomSlot s pm (md == 7) mos [t] 2 .glob 8 md true false false false off.toInt
/-- `ATOMF` (R204). -/
def execAtomf (pm : BitVec 2) (mos : BitVec 5) (off : BitVec 4) (t : BitVec 9) (s : State) : Out :=
  atomSlot s pm false mos [t] 2 .glob 4 0 false false true false off.toInt
/-- `CAS.32` (R204). -/
def execCas32 (pm : BitVec 2) (mos : BitVec 5) (off : BitVec 4) (t : BitVec 9) (s : State) : Out :=
  atomSlot s pm false mos [t] 3 .glob 4 0 false true false false off.toInt
/-- `CAS.64` (R204). -/
def execCas64 (pm : BitVec 2) (mos : BitVec 5) (off : BitVec 4) (t : BitVec 9) (s : State) : Out :=
  atomSlot s pm false mos [t] 3 .glob 8 0 true true false false off.toInt
/-- `ATOMS` (R205). -/
def execAtoms (pm : BitVec 2) (mos : BitVec 5) (md : BitVec 3) (off : BitVec 4) (t : BitVec 9) (s : State) : Out :=
  atomSlot s pm (md == 7) mos [t] 2 .scr 4 md false false false false off.toInt
/-- `RED.32` (R205). -/
def execRed32 (pm : BitVec 2) (mos : BitVec 5) (md : BitVec 3) (off : BitVec 13) (s : State) : Out :=
  atomSlot s pm (decide (6 ≤ md.toNat)) mos [] 2 .glob 4 md false false false true off.toInt

/-! ## Fences (R206 to R208) -/

/-- A fence may complete: the earlier accesses of its block that it orders are done, and none is parked (R207, R208); for
a release, the writes of earlier blocks are performed at its scope; for an acquire, R306. -/
def fenceReady (s : State) (e : Env) (m scope : Nat) (acq rel : Bool) : Bool :=
  (e.f.lower m).all (fun p => if opIsLoad (opOf p.2) || opIsAtomic (opOf p.2) then e.f.allDone p.1 else true)
  && s.accs.all (fun p => !(p.2.wid == e.wid && p.2.fid == e.f.fid && decide (p.2.mos < m)))
  && (!rel || s.released (s.hallOf e.w) e.w.ctx scope)
  && (!acq || s.mayAcquire (s.coreOf e.w) scope)

/-- The meaning of a fence: it takes effect in each lane where it fires, for the whole warp. -/
def fenceSlot (s : State) (pm : BitVec 2) (mos : BitVec 5) (md : BitVec 3) (acq rel : Bool) : Out :=
  slotM s pm (!scopeValid md) 0 [] false (fun e s _ _ _ _ => fenceReady s e mos.toNat md.toNat acq rel)
    (fun e s l _ _ _ => (if acq then s.acquire e.wid md.toNat else s).updFid e.wid e.f.fid (fun f => f.markDone e.slot l))

/-- `FENCE.ACQ` (R206). -/
def execFenceAcq (pm : BitVec 2) (mos : BitVec 5) (md : BitVec 3) (s : State) : Out := fenceSlot s pm mos md true false
/-- `FENCE.REL` (R206). -/
def execFenceRel (pm : BitVec 2) (mos : BitVec 5) (md : BitVec 3) (s : State) : Out := fenceSlot s pm mos md false true
/-- `FENCE.AR` (R206). -/
def execFenceAr (pm : BitVec 2) (mos : BitVec 5) (md : BitVec 3) (s : State) : Out := fenceSlot s pm mos md true true

/-! ## Fill entries of a cluster (R310) -/

/-- The request of a fill entry: answered by the hall where it holds the line, else sent to the Gallery, to host memory or to the
package that owns the line. -/
def State.fillSend (s : State) (cluster : Nat) (f : Fill) : State :=
  let h := cluster / 13
  let put (g : Fill) (s : State) : State := s.updCluster cluster (fun c => { c with fills := c.fills.map (fun x => if x.line = f.line then g else x) })
  let pa := 128 * f.line
  let m : HMsg := { kind := .load, src := fld s.domain 9 0, dst := 0, tag := 0, ctx := f.ctx, key := f.key, pa := 0, size := 128, aop := 0,
                    acas := false, af32 := false, data := 0, mask := BitVec.allOnes 128, poisoned := false }
  let s1 := put { f with sent := true } s
  match s.home pa with
  | .dev _ => (match mget (s.hall h).ic f.line with
    | some c => put { f with sent := true, got := some c } s
    | none => s1.hallAsk h f.ctx f.line f.key (.code cluster f.line))
  | .host off => s1.sendOut { m with pa := off } true none 0 h cluster
  | .remote pk off => s1.sendOut { m with dst := pk, pa := off } false none 0 h cluster
  | .bad => s1
/-- A miss on a line without a fill entry takes one; beyond 320 it waits for one to become free. -/
def State.fillAsk (s : State) (cluster ctx pa key : Nat) : State :=
  let f : Fill := { ctx := ctx, line := pa / 128, key := key, sent := false, got := none }
  let s1 := s.updCluster cluster (fun c => { c with fills := c.fills ++ [f] })
  if (s.cluster cluster).fills.length < Config.fillEntries then s1.fillSend cluster f else s1
/-- The entry of a line becomes free, and the oldest miss that waits for one takes it. -/
def State.fillFree (s : State) (cluster line : Nat) : State :=
  let s1 := s.updCluster cluster (fun c => { c with fills := c.fills.filter (fun f => f.line != line) })
  match (s1.cluster cluster).fills.find? (fun f => !f.sent) with
  | some f => s1.fillSend cluster f
  | none => s1

/-! ## Hints (R209, R210) -/

/-- Adds 1 to a context's dropped-hint counter. -/
def State.dropHint (s : State) (ctx : Nat) : State := { s with ctxs := mupd s.ctxs ctx (fun c => { c with drophint := c.drophint + 1 }) }

/-- The lines that a hint names, rounded out to whole lines. -/
def hintLines (ea n : Nat) : List Nat := (List.range ((ea + n + 127) / 128 - ea / 128)).map (· + ea / 128)

/-- A hint over lines of virtual memory: those of the hall store window are ignored; those that fail check 1, 3 or 4 are
dropped and counted once; `act` is given each other line's physical address and key. A line of a recipe tile lies in the Gallery while it is present
and in no other cache, so a hint only uses it; a dropped one stays dropped (log entry 36). -/
def State.hintOver (s : State) (e : Env) (need : Need) (lines : List Nat) (act : State → Nat → Nat → State) : State :=
  let core := s.coreOf e.w
  let r := lines.foldl (fun (a : State × Bool) ln =>
    let va := 128 * ln
    if (a.1.inWindow e.w va).isSome then a
    else if 2 ^ 57 ≤ va then (a.1, true)
    else match a.1.xlatNow core e.w.ctx va with
      | (s1, .error _) => (s1, true)
      | (s1, .ok x) =>
        if !s1.pageOk x need va then (s1, true)
        else match s1.recRead e.w.ctx e.w.wg va with
          | .plain => (act s1 (x.phys va) x.key, a.2)
          | .line _ _ => (s1.recTouch e.w.ctx va, a.2)
          | _ => (s1, a.2)) (s, false)
  if r.2 then r.1.dropHint e.w.ctx else r.1

/-- A line comes to the Gallery; one of host memory that it does not hold is asked of the host (R350). -/
def State.galBring (s : State) (ctx ln key : Nat) : State :=
  if s.hostAbsent ln then (if s.hostAsked ln then s else s.hostLineSend .load ln ctx key 0 false) else (s.galRead (some ctx) ln key none).1
/-- A request for a whole line outside the package. -/
def State.lineAway (s : State) (ctx key : Nat) : HMsg :=
  { kind := .load, src := fld s.domain 9 0, dst := 0, tag := 0, ctx := ctx, key := key, pa := 0, size := 128, aop := 0, acas := false, af32 := false,
    data := 0, mask := BitVec.allOnes 128, poisoned := false }
/-- A line that no cache of this package but an L1 holds comes to one: of the host, or of the package that owns it (R304, R350). -/
def State.l1Away (s : State) (core ctx pa key : Nat) : State :=
  let s1 := match s.home pa with
    | .host off => s.sendOut { s.lineAway ctx key with pa := off / 128 * 128 } true none 0 (hallOfCore core) 0
    | .remote pk off => s.sendOut { s.lineAway ctx key with dst := pk, pa := off / 128 * 128 } false none 0 (hallOfCore core) 0
    | _ => s
  { s1 with ext := mupd s1.ext s.nextId (fun r => { r with pref := some core }) }
/-- `PREF` of a line: to the Gallery, the hall cache or the L1 (R209). Lines from outside the package stand in L1s only. -/
def prefLine (md : BitVec 3) (core ctx : Nat) (s : State) (pa key : Nat) : State :=
  let h := hallOfCore core
  match s.home pa with
  | .bad => s
  | .dev p =>
    let ln := p / 128
    if md = 2 then s.galBring ctx ln key
    else (match s.hallHit h ln 15 0 with
      | none => s.hallAsk h ctx ln key (.pref (if md = 0 then some core else none))
      | some c => if md = 1 then s else s.updCore core (fun k => k.l1Fill (Config.victim s.tick) ctx ln c.data c.valid c.pois c.stamp))
  | _ => if md = 0 ∧ (mget (s.core core).l1 (pa / 128)).isNone then s.l1Away core ctx pa key else s

/-- A retention mark of a grid on a line: the newest 8,192 marked lines of a slice keep theirs (R209). -/
def residMark (gid : Nat) (s1 : State) (ln : Nat) : State :=
  let marked := s1.gal.filter (fun q => !q.2.keep.isEmpty && homeSlice q.1 == homeSlice ln && q.1 != ln)
  let age (g : GLine) : Nat := g.keep.foldl (fun a q => max a q.2) 0
  let oldest : Option Nat := match marked with
    | [] => none
    | x :: r => some (r.foldl (fun (a : Nat × GLine) y => if age y.2 < age a.2 then y else a) x).1
  let gal := if 8192 ≤ marked.length then (match oldest with
      | some k => mupd s1.gal k (fun g => { g with keep := [] })
      | none => s1.gal) else s1.gal
  { s1 with nextId := s1.nextId + 1, gal := mupd gal ln (fun g => { g with keep := g.keep.filter (fun q => q.1 != gid) ++ [(gid, s1.nextId)] }) }

/-- `RESID` of a line that the Gallery may hold: it is brought there and marked (R209). -/
def residLine (gid ctx : Nat) (s : State) (pa key : Nat) : State :=
  match s.home pa with
  | .dev p => residMark gid (s.galBring ctx (p / 128) key) (p / 128)
  | _ => s
/-- `IPREF` of a line: a fill entry of the cluster, unless the line is there, has one, or none is free (R310). -/
def iprefLine (core ctx : Nat) (s : State) (p key : Nat) : State :=
  let c := s.cluster (clusterOfCore core)
  if (mget c.ic (p / 128)).isSome || c.fills.any (fun f => f.line == p / 128) || decide (Config.fillEntries ≤ c.fills.length) then s
  else s.fillAsk (clusterOfCore core) ctx p key

/-- The meaning of a hint: it orders nothing and faults nowhere; one for an L1 waits for a tracker of its core (R5, R313). -/
def hintSlot (s : State) (pm : BitVec 2) (reserved : Bool) (nops : Nat) (off : BitVec 13) (need : Need) (len : Word → Nat)
    (act : Env → State → Nat → Nat → State) (l1 : Bool) : Out :=
  slotM s pm reserved nops [] false (fun e s _ a b _ => s.walkClear (s.coreOf e.w) e.w.ctx (eaOf a off.toInt 128).toNat (len b) &&
      (!l1 || s.coreNext (s.coreOf e.w))) (fun e s l a b _ =>
    let ea := eaOf a off.toInt 128
    (s.hintOver e need (hintLines ea.toNat (len b)) (act e)).updFid e.wid e.f.fid (fun f => f.markDone e.slot l))

/-- `PREF` (R209). -/
def execPref (pm : BitVec 2) (mos : BitVec 5) (md : BitVec 3) (off : BitVec 13) (s : State) : Out :=
  let _ := mos
  hintSlot s pm (decide (3 ≤ md.toNat)) 1 off .rd (fun _ => 1) (fun e s => prefLine md (s.coreOf e.w) e.w.ctx s) (md == 0)
/-- `RESID` (R209). -/
def execResid (pm : BitVec 2) (mos : BitVec 5) (off : BitVec 13) (s : State) : Out :=
  let _ := mos
  hintSlot s pm false 2 off .rd (fun b => min b.toNat (2 ^ 30)) (fun e s => residLine (s.gidOf e.w) e.w.ctx s) false
/-- `IPREF` (R209). -/
def execIpref (pm : BitVec 2) (mos : BitVec 5) (off : BitVec 13) (s : State) : Out :=
  let _ := mos
  hintSlot s pm false 2 off .ex (fun b => min b.toNat (2 ^ 16)) (fun e s => iprefLine (s.coreOf e.w) e.w.ctx s) false

/-! ## Discard and clean (R211 to R213) -/

/-- `DISC` and `CLEAN` in one lane (R211). -/
def rangeLane (m : Nat) (kind : SinkKind) (off : Int) (e : Env) (s : State) (l : Nat) (a b _ : Word) : State :=
  let ea := eaOf a off 128
  let n := b.toNat
  let disc := kind == .disc
  if s.inSlice e.w then s.failLane e l true cRecipeFailed ea
  else if s.rangeBad e.w ea.toNat n then s.failLane e l true cPageProtection ea
  else if ea.toNat % 128 ≠ 0 ∨ n % 128 ≠ 0 ∨ 2 ^ 30 < n then s.failLane e l true cAlignment ea
  else if n = 0 then s.updFid e.wid e.f.fid (fun f => f.markDone e.slot l)
  else match s.xlatRange (s.coreOf e.w) e.w.ctx ea.toNat n (if disc then .wr else .rd) (fun v => (s.inWindow e.w v).isSome) with
    | (s1, .error (c, lo)) => s1.failLane e l true c (toWord lo)
    | (s1, .ok xs) =>
      if disc && (match mget s1.ctxs e.w.ctx with
          | some c => c.pinnedAt ea.toNat n
          | none => false) then s1.failLane e l true cRecipePinnedWrite ea
      else s1.addSink e l
        { slot := e.slot, lane := l, mos := m, kind := kind, space := .global, addr := ea.toNat, size := n, data := 0, xl := xs, stale := false, lost := 0 }

/-- A range command waits for a walk of a page of its range that is under way (R316). -/
def rangeOk (off : Int) (e : Env) (s : State) (_ : Nat) (a b _ : Word) : Bool :=
  decide (2 ^ 30 < b.toNat) || s.walkClear (s.coreOf e.w) e.w.ctx (eaOf a off 128).toNat b.toNat
/-- `DISC` (R212). -/
def execDisc (pm : BitVec 2) (mos : BitVec 5) (off : BitVec 13) (s : State) : Out :=
  slotM s pm false 2 [] true (rangeOk off.toInt) (rangeLane mos.toNat .disc off.toInt)
/-- `CLEAN` (R213). -/
def execClean (pm : BitVec 2) (mos : BitVec 5) (off : BitVec 13) (s : State) : Out :=
  slotM s pm false 2 [] true (rangeOk off.toInt) (rangeLane mos.toNat .clean off.toInt)

/-! ## Instruction invalidation (R214) -/

/-- The range of a lane of `IINV`, rounded out to lines; every copy of the context for a length above 2^30. -/
def iinvRange (a b : Word) : Nat × Nat :=
  if 2 ^ 30 < b.toNat then (0, 2 ^ 57) else (a.toNat / 128 * 128, (a.toNat + b.toNat + 127) / 128 * 128 - a.toNat / 128 * 128)

/-- `IINV` (R214): a lane whose start lies outside the space fails; the others wait for `IINV_COMPLETE`. -/
def execIinv (pm : BitVec 2) (tb ta : BitVec 9) (s : State) : Out :=
  slotM s pm false 2 [ta, tb] false (fun e _ _ _ _ _ => e.allArrived 2 pm) (fun e s l a b _ =>
    if s.inSlice e.w then s.failLane e l false cRecipeFailed a
    else if 2 ^ 57 ≤ a.toNat then s.failLane e l false cPageProtection a
    else s.updFid e.wid e.f.fid (fun f =>
      let old : List (Nat × Nat) × Lanes := match f.waits.find? (fun q => q.1 == e.slot) with
        | some (_, .iinv r m) => (r, m)
        | _ => ([], 0)
      { f with waits := f.waits.filter (fun q => q.1 != e.slot) ++ [(e.slot, .iinv (old.1 ++ [iinvRange a b]) (old.2 ||| laneBit l))] }))

end Sys2Proof.Machine
end

