-- ==== Sys2Proof/Machine/Object.lean ====
section
/-!
DEFINITION. Sys2Proof/Machine/Object.lean: barrier objects: their fields, what each command makes of them, and how the waits on them end
(R178 to R185); and a device-scope command at its home (R179, R385).
-/
namespace Sys2Proof.Machine

/-! ## The object (R178) -/

/-- A barrier object, unpacked. -/
structure BObj where
  st : Nat
  scope : Nat
  halls : Nat
  expect : Nat
  arrived : Nat
  phase : Nat
  drops : Nat
  pend : Int
  deriving DecidableEq, Repr

def bobjOf (v : Nat) : BObj :=
  let w0 := toWord v
  let w1 := toWord (v / 2 ^ 64)
  { st := fld w0 63 62, scope := fld w0 61 60, halls := fld w0 55 48, expect := fld w0 47 24, arrived := fld w0 23 0,
    phase := fld w1 63 48, drops := fld w1 47 24, pend := sint w1 24 }
/-- The 16 bytes of an object, bits 59:56 of word 0 as they stand in `old`: `BINIT` gives them the zero of their Reset column (R178). -/
def bobjBytes (o : BObj) (old : Nat) : Nat :=
  (o.st * 2 ^ 62 + o.scope * 2 ^ 60 + fld (toWord old) 59 56 * 2 ^ 56 + o.halls * 2 ^ 48 + o.expect * 2 ^ 24 + o.arrived)
    + (o.phase * 2 ^ 48 + o.drops * 2 ^ 24 + (wrapN o.pend 24).toNat) * 2 ^ 64

/-- Completes the phase when it is due (R180). -/
def BObj.settle (o : BObj) : BObj :=
  if 0 < o.expect ∧ o.arrived = o.expect ∧ o.pend = 0 then
    { o with phase := (o.phase + 1) % 2 ^ 16, expect := (o.expect + 2 ^ 24 - o.drops) % 2 ^ 24, arrived := 0, drops := 0 }
  else o

/-- An arrival (R180); none where it is one too many. -/
def BObj.arrive (o : BObj) (drop : Bool) : Option BObj :=
  if o.arrived = o.expect then none
  else some ({ o with arrived := (o.arrived + 1) % 2 ^ 24, drops := if drop then (o.drops + 1) % 2 ^ 24 else o.drops } : BObj).settle

/-- A copy completion on an object (R181). -/
def BObj.copyDone (o : BObj) : BObj :=
  if o.st ≠ 1 then o
  else if o.pend - 1 < -(2 ^ 23) then { o with st := 2 }
  else ({ o with pend := o.pend - 1 } : BObj).settle

/-! ## What a change does to the waits -/

/-- Two homes are one object; a place in a hall store is one object only for warps of one grid on one hall. -/
def BHome.same (h q : BHome) (near : Bool) : Bool :=
  match h, q with
  | .space .hallStore a, .space .hallStore b => near && a == b
  | .space sp a, .space sq b => sp == sq && a == b
  | .gallery p _, .gallery r _ => p == r
  | _, _ => false
/-- How a wait stands on an object: over once PHASE has changed or ST is no longer 01 (R181, R183). -/
def BObj.past (o : BObj) (phase : Nat) : Option (Nat × Bool) :=
  if o.phase ≠ phase ∨ o.st ≠ 1 then some (o.phase, o.phase == phase && o.st == 2) else none
/-- An object changes: every wait on it that the change ends is over from then on (R181, R185). `near` says which warps share its hall store. -/
def State.barSettle (s : State) (near : Warp → Bool) (h : BHome) (o : BObj) : State :=
  let go (w : Warp) (q : Nat × Wait) : Nat × Wait := match q.2 with
    | .bar sc a ph home none => if h.same home (near w) then (q.1, .bar sc a ph home (o.past ph)) else q
    | _ => q
  { s with warps := s.warps.map (fun p => (p.1, { p.2 with levels := p.2.levels.map (fun lv => { lv with frame := lv.frame.map (fun f =>
      { f with waits := f.waits.map (go p.2) }) }) })) }
/-- The warps that share the hall store of a warp (R28). -/
def State.nearTo (s : State) (w v : Warp) : Bool := s.hallOf w == s.hallOf v && s.gidOf w == s.gidOf v

/-! ## The commands (R180, R181) -/

/-- HALLS after a command at device scope. -/
def orHalls (md : BitVec 3) (old bits : Nat) : Nat := if md = 3 then old ||| bits else old

/-- The Reset column of R178. -/
def bobjInit (md : BitVec 3) (halls expect : Nat) : BObj :=
  { st := 1, scope := md.toNat, halls := orHalls md 0 halls, expect := expect, arrived := 0, phase := 0, drops := 0, pend := 0 }

/-- The commands that test ST and SCOPE first (R180). -/
def BCmd.tests (c : BCmd) : Bool := c != .init && c != .rewait
/-- The commands that leave the warp waiting. -/
def BCmd.waits (c : BCmd) : Bool := c == .wait || c == .arriveWait || c == .rewait
/-- The arrivals, which release (R182). -/
def BCmd.arrives (c : BCmd) : Bool := c == .arrive || c == .drop || c == .arriveWait
/-- What a command with operand `b` makes of its object: the refusing cause, or the object then and the phase that the warp receives or waits
for. `md` is its scope, `halls` are those of its grid. -/
def BCmd.act (c : BCmd) (md : BitVec 3) (halls : Nat) (b : Word) (o : BObj) : Except (BitVec 8) (BObj × Nat) :=
  let with_ (x : BObj) : BObj := { x with halls := orHalls md x.halls halls }
  let arrive (drop : Bool) : Except (BitVec 8) (BObj × Nat) := match o.arrive drop with
    | none => .error cBarrierOverarrival
    | some x => .ok (with_ x, o.phase)
  match c with
  | .init => .ok (bobjInit md halls (fld b 23 0), 0)
  | .arrive => arrive false
  | .drop => arrive true
  | .arriveWait => arrive false
  | .wait => .ok (with_ o, fld b 15 0)
  | .rewait => .ok (o, fld b 15 0)
  | .expect =>
    let p := o.pend + (fld b 23 0 : Nat)
    if p < -(2 ^ 23) ∨ 2 ^ 23 ≤ p then .error cBarrierOverarrival else .ok ((with_ { o with pend := p }).settle, 0)
/-- A command at its object's home, whose bytes are `v`, of which a unit is poisoned or not. Neither R361 nor check 6 of R190 names a barrier
command: the model delivers MEMORY_POISON and leaves the object alone, as for an atomic; a copy's completion looks at no mark (DESIGN CHOICE, log
entry 40). -/
def BCmd.perform (c : BCmd) (md : BitVec 3) (halls : Nat) (b : Word) (v : Nat) (pois : Bool) : Except (BitVec 8) (BObj × Nat) :=
  if pois && c != .rewait then .error cMemoryPoison
  else if c.tests && ((bobjOf v).st != 1 || (bobjOf v).scope != md.toNat) then .error cBarrierBroken
  else c.act md halls b (bobjOf v)
/-- The bytes of the object then: `BINIT` writes every bit. -/
def BCmd.bytes (c : BCmd) (o : BObj) (old : Nat) : Nat := bobjBytes o (if c = .init then 0 else old)

/-! ## Device scope: at the home (R179, R345, R385) -/

/-- The access of a hall that holds a tracker number. -/
def State.byTag (s : State) (hall tag : Nat) : Option (Nat × Access) := s.accs.find? (fun p => p.2.stat == .sent hall tag)

/-- The answer to a request: its tracker number and line, with data and poisoned sectors. -/
def replyTxn (t : Txn) (ty : TxnType) (data : Line) (pois : BitVec 4) : Txn := { t with type := ty, data := data, mask := 0, pois := pois }

/-- The warp whose command has been performed waits from now on; a `BAR` has arrived, once (R184). -/
def State.barNoted (s : State) (hall : Nat) (t : Txn) (c : BCmd) (o : BObj) (p : Nat) : State :=
  match s.byTag hall t.tag with
  | none => s
  | some (_, a) =>
    if !c.waits then s
    else
      let q : Wait := .bar 3 (toWord a.va) p (.gallery t.pa t.key) (o.past p)
      let s1 := s.updFid a.wid a.fid (fun f => { f with waits := f.waits.filter (fun x => x.1 != a.slot) ++ [(a.slot, q)] })
      if c = .arriveWait then s1.updWarp a.wid (fun w => w.record a.fid { slot := a.slot, lane := 64, t0 := none, t1 := none, waiting := some p, dep := 0 })
      else s1
/-- A barrier command's transaction at the Gallery: one indivisible read and write of its object (R385). The answer holds the phase, and the
cause that refuses it, at byte 8. -/
def State.barHome (s : State) (hall : Nat) (t : Txn) : State :=
  let c := BCmd.ofCode (lineBytes t.data 8 1)
  let r := s.galBytes t.pa 16 t.key
  let answer (s : State) (v cause : Nat) : State := s.sendDown hall (replyTxn t .atomicResult (BitVec.ofNat 1024 (v + cause * 2 ^ 64)) 0)
  match c.perform 3 (lineBytes t.data 9 1) (lineWord t.data 0 8) r.1 r.2 with
  | .error k => answer s 0 k.toNat
  | .ok (o, p) =>
    let s1 := if c = .rewait then s
      else ({ s.barSettle (fun _ => false) (.gallery t.pa t.key) o with bars := mset s.bars t.pa t.key } : State).galWriteP (some t.ctx) (t.pa / 128) t.key
        (placeAt (c.bytes o r.1) (t.pa % 128)) (byteMask (t.pa % 128) 16) 0 (some hall)
    answer (s1.barNoted hall t c o p) p 0

end Sys2Proof.Machine
end

