-- ==== Sys2Proof/Machine/Response.lean ====
section
/-!
DEFINITION. Sys2Proof/Machine/Response.lean: how accesses end: page walks (R315, R316), data that returns (check 6 of R190),
the transactions of the hall links (R305, R306, R345), full-empty waits (R199) and `IINV` (R214).
-/
namespace Sys2Proof.Machine

/-! ## Page walks (R315, R316) -/

/-- The accesses parked on the walk of a page of a context. -/
def State.parkedOn (s : State) (ctx page : Nat) : List (Nat × Access) :=
  s.accs.filter (fun p => p.2.stat == .walk page && s.accCtx p.2 == ctx)

/-- TRANSLATION_WALK_DONE: the walk of a page ends, one of the first 512 (R316); every attached requester continues, or
becomes poison. -/
def execTranslationWalkDone (ctx page : Nat) (s : State) : Out :=
  let w : Walk := { ctx := ctx, page := page }
  let s1 := { s with walks := s.walks.filter (· != w) }
  let ps := s.parkedOn ctx page
  event s "TRANSLATION_WALK_DONE" ((s.walks.take Config.walkers).contains w) (match s.walk ctx (page * 65536) with
    | .ok x used =>
      let s2 := (ps.foldl (fun (s : State) p => s.tlbFill (s.accCore p.2) x) s1).walkFill ctx used
      (ps.foldl (fun (s : State) p => s.accStep p.1 p.2) s2).enterWalks
    | .bad c => (ps.foldl (fun (s : State) p => s.accPoison p.1 p.2 c (max p.2.va (page * 65536))) s1).enterWalks)

/-! ## Data returns -/

/-- The lane's token of a load whose last bytes are `raw`. -/
def State.loadDone (s : State) (aid : Nat) (a : Access) (md : BitVec 3) (raw : Nat) (pois : Bool) : State :=
  let t := match s.fidFrame a.wid a.fid with
    | some f => f.loadTok a.slot a.mos a.lane .global a.xl a.va a.size md raw pois (toWord a.va)
    | none => .null
  let s1 := if s.readsOnce a.wid a.fid a.slot then s.deliverShared a.wid a.fid a.slot t
    else (s.acquire a.wid a.scope).deliverTo a.wid a.fid a.slot a.lane t s.stamp false false
  { s1 with accs := mdel s1.accs aid }

/-! ## Transactions of a hall link (R345) -/

/-- The oldest accepted transaction of a module in a direction, where it has this type. -/
def State.headTxn (s : State) (hall m : Nat) (up : Bool) (ty : TxnType) : Option Txn :=
  match (((s.hall hall).mod m).chan up).accepted with
  | t :: _ => if t.type = ty then some t else none
  | [] => none
/-- The oldest accepted transaction is taken. -/
def State.popTxn (s : State) (hall m : Nat) (up : Bool) : State :=
  s.updHall hall (fun h => let x := h.mod m; let c := x.chan up; h.setMod m (x.setChan up { c with accepted := c.accepted.drop 1 }))

/-- An event that takes an accepted transaction; one for a host line that the Gallery does not hold waits until the host has given the line
(R350). An answer frees the tracker of its request (R313). -/
def txnEvent (s : State) (name : String) (hall m : Nat) (up : Bool) (ty : TxnType) (k : State → Txn → State) : Out :=
  match s.headTxn hall m up ty with
  | none => .refused (.notEnabled name)
  | some t =>
    let s1 := s.popTxn hall m up
    if up && s.hostAbsent (t.pa / 128) && ty != .invalidateAck && !(ty == .write && t.aop == 2) then
      event s name (!s.hostAsked (t.pa / 128)) (s.hostLineSend .load (t.pa / 128) t.ctx t.key 0 false)
    else ran s (k (if up || ty == .invalidate then s1 else s1.updHall hall (fun h => h.answered (t.pa / 128) s.time)) t)

/-- The read of a hall that holds a tracker number. -/
def State.readTag (s : State) (hall tag : Nat) : Option HRead := (s.hall hall).reads.find? (fun r => r.tag == tag)
/-- A read of code at the Gallery: its instruction prefetch buffers answer where they hold the line, and take it where they do not; no
hall joins the line's set, since no level of code snoops (R309). -/
def State.galCode (s : State) (ctx ln key : Nat) : State × Line × BitVec 4 :=
  match mget s.galIc ln with
  | some c => ({ s with galIc := mset s.galIc ln { c with stamp := s.tick } }, c.data, c.pois)
  | none =>
    let r := s.galRead (some ctx) ln key none
    let s1 := r.1.makeRoom ln
    (if r.2.pois = 0 then { s1 with galIc := mset s1.galIc ln { ctx := ctx, data := r.2.data, valid := 15, pois := 0, stamp := s.tick } } else r.1,
      r.2.data, r.2.pois)

/-- HL_READ: the Gallery reads the line and answers; the reader notes the invalidations sent before its read (R306). -/
def execHlRead (hall m : Nat) (s : State) : Out :=
  txnEvent s "HL_READ" hall m true .read (fun s t =>
    match s.readTag hall t.tag with
    | some q =>
      (match q.who with
       | .code _ _ => let r := s.galCode t.ctx (t.pa / 128) t.key
                    r.1.sendDown hall (replyTxn t .readData r.2.1 r.2.2)
       | _ =>
         let r := s.galRead (some t.ctx) (t.pa / 128) t.key (some hall)
         (r.1.updHall hall (fun h => { h with reads := h.reads.map (fun x => if x.tag = t.tag then { x with seen := r.1.stamp } else x) })).sendDown hall
           (replyTxn t .readData r.2.data r.2.pois))
    | none =>
      let r := s.galRead (some t.ctx) (t.pa / 128) t.key (some hall)
      let s1 := match r.1.byTag hall t.tag with
        | some (i, a) => r.1.setAcc i { a with seen := r.1.stamp }
        | none => r.1
      s1.sendDown hall (replyTxn t .readData r.2.data r.2.pois))

/-- The present line of a recipe that a physical line holds: context, entry, line and key ID. -/
def State.tileAt (s : State) (ln : Nat) : Option (Nat × Nat × Nat × Nat) :=
  let of (ctx : Nat) (p : Nat × Recipe) : Option (Nat × Nat × Nat × Nat) :=
    (p.2.present.filterMap (fun k => match s.walk ctx (p.2.tile + 128 * k) with
      | .ok x _ => if s.physKind (x.phys (p.2.tile + 128 * k)) = .dev (128 * ln) then some (ctx, p.1, k, x.key) else none
      | .bad _ => none)).head?
  (s.ctxs.filterMap (fun c => (c.2.recipes.filterMap (of c.1)).head?)).head?

/-- A line is written to its frame: a dirty one, or a present one of a framed recipe (R213, R289). A dropped recipe line has no frame. -/
def State.cleanHome (s : State) (ln : Nat) : State :=
  match s.tileAt ln with
  | some (ctx, i, k, key) => (match (mget s.ctxs ctx).bind (fun c => mget c.recipes i) with
    | some r => if r.framed then s.frameWrite ln key (mgetD r.bytes k 0) (mgetD r.pois k 0) else s
    | none => s)
  | none => s.galClean ln
/-- A line of a recipe tile is dropped, so that its next read spawns its recipe (R212, R296). -/
def State.discTile (s : State) (ln : Nat) : State :=
  match s.tileAt ln with
  | some (ctx, i, k, _) => (s.updRecipe ctx i (fun r => r.dropLine k)).forgetLine ln
  | none => s
/-- What a write transaction is at its home: a write, a discard or a clean (R212, R213, R305, R360, log entry 40). -/
def State.homeWrite (s : State) (hall : Nat) (t : Txn) : State :=
  let ln := t.pa / 128
  if t.aop = 1 then s.zeroLine (some t.ctx) ln t.key (some hall)
  else if t.aop = 2 then s.cleanHome ln
  else if t.aop = 3 then s.discTile ln
  else s.galWriteP (some t.ctx) ln t.key t.data t.mask t.pois (some hall)
/-- HL_WRITE: the write is performed at its home, once (R305, R360), and acknowledged. -/
def execHlWrite (hall m : Nat) (s : State) : Out :=
  txnEvent s "HL_WRITE" hall m true .write (fun s t => (s.homeWrite hall t).sendDown hall (replyTxn t .writeAck 0 0))

/-- The size of an atomic's operand. -/
def txnAtomBytes (t : Txn) : Nat := if t.a64 then 8 else 4

/-- HL_ATOMIC: one indivisible read-modify-write at the home; not performed on poisoned data (R202, R203); or a barrier command on a
device-scope object (R385). -/
def execHlAtomic (hall m : Nat) (s : State) : Out :=
  txnEvent s "HL_ATOMIC" hall m true .atomic (fun s t =>
    if t.aop = 7 then s.barHome hall t
    else
    let n := txnAtomBytes t
    let r := s.galBytes t.pa n t.key
    if r.2 then s.sendDown hall (replyTxn t .atomicResult 0 15)
    else
      let v := atomApply t.aop t.a64 t.acas t.af32 r.1 (lineBytes t.data 0 8) (lineBytes t.data 8 8)
      (s.galWriteP (some t.ctx) (t.pa / 128) t.key (placeAt v (t.pa % 128)) (byteMask (t.pa % 128) n) 0 (some hall)).sendDown hall
        (replyTxn t .atomicResult (placeAt r.1 0) 0))

/-- The copy with an identity: core and channel. -/
def State.copyById (s : State) (id : Nat) : Option (Nat × Nat × Copy) :=
  (s.cores.filterMap (fun p => (p.2.chans.find? (fun q => q.2.id == id)).map (fun q => (p.1, q.1, q.2)))).head?
/-- A line reaches a copy that asked for it, and serves its next beat. -/
def State.copyTakes (s : State) (id line : Nat) (data : Line) (pois : BitVec 4) : State :=
  match s.copyById id with
  | some (core, ch, q) => s.updCore core (fun k => { k with chans := mset k.chans ch { q with got := q.got.filter (fun g => g.1 != line) ++ [(line, data, pois)] } })
  | none => s

/-- A line that a hall read for a copy, a prefetch or code arrives (R304, R309, R310). -/
def State.readArrives (s : State) (hall : Nat) (q : HRead) (t : Txn) : State :=
  let ln := t.pa / 128
  let s0 := s.updHall hall (fun h => { h with reads := h.reads.filter (fun x => x.tag != t.tag) })
  match q.who with
  | .code c _ =>
    let k : CLine := { ctx := q.ctx, data := t.data, valid := 15, pois := t.pois, stamp := 0 }
    let s1 := s0.updHall hall (fun h => let x := if (mget h.ic ln).isSome then h else h.room ln (Config.victim s.tick)
                                       { x with ic := mset x.ic ln k })
    s1.updCluster c (fun x => { x with fills := x.fills.map (fun f => if f.line = ln ∧ f.sent = true then { f with got := some k } else f) })
  | who =>
    let s1 := s0.hallFill hall q.ctx ln t.data t.sect t.pois q.seen
    match mget (s1.hall hall).cache ln, who with
    | some c, .pref (some core) => s1.updCore core (fun k => k.l1Fill (Config.victim s.tick) q.ctx ln c.data c.valid c.pois c.stamp)
    | some c, .copy id line => s1.copyTakes id line c.data c.pois
    | _, _ => s1

/-- HL_READ_DATA: the line reaches the hall cache, under the hall's own writes on their way, then the requesting core's L1
and the access (R304, R305), or what else the hall read it for. -/
def execHlReadData (hall m : Nat) (s : State) : Out :=
  txnEvent s "HL_READ_DATA" hall m false .readData (fun s t =>
    match s.readTag hall t.tag with
    | some q => s.readArrives hall q t
    | none => match s.byTag hall t.tag with
      | none => s
      | some (i, a) =>
        let ln := t.pa / 128
        let s1 := s.hallFill hall t.ctx ln t.data t.sect t.pois a.seen
        match mget (s1.hall hall).cache ln with
        | none => s1
        | some c =>
          (s1.updCore (s1.accCore a) (fun k => k.l1Fill (Config.victim s.tick) t.ctx ln c.data t.sect c.pois a.seen)).capture i a c.data
            (c.pois &&& sectTouched (byteMask (t.pa % 128) a.pieceLen) != 0) a.seen)

/-- HL_WRITE_ACK: the write is performed at its home (R305). -/
def execHlWriteAck (hall m : Nat) (s : State) : Out :=
  txnEvent s "HL_WRITE_ACK" hall m false .writeAck (fun s t =>
    s.updHall hall (fun h => { h with pend := h.pend.filter (fun p => p.tag != t.tag) }))

/-- HL_ATOMIC_RESULT: the old value reaches its access; the hall keeps no copy from before it. -/
def execHlAtomicResult (hall m : Nat) (s : State) : Out :=
  txnEvent s "HL_ATOMIC_RESULT" hall m false .atomicResult (fun s t =>
    let s1 := s.dropLine hall (t.pa / 128)
    match s1.byTag hall t.tag with
    | some (i, a) => s1.capture i a t.data (t.pois != 0) s1.stamp
    | none => s1)

/-- HL_INVALIDATE: the hall drops its copy and answers (R306); an answer takes no tracker. -/
def execHlInvalidate (hall m : Nat) (s : State) : Out :=
  txnEvent s "HL_INVALIDATE" hall m false .invalidate (fun s t =>
    let ln := t.pa / 128
    let s1 := s.updHall hall (fun h => { h with cache := mdel h.cache ln })
    let s2 := match s1.invs.find? (fun p => p.1 == hall && p.2.1 == ln) with
      | some p => { s1 with invs := s1.invs.erase p }
      | none => s1
    s2.updHall hall (fun h => h.send true ln (replyTxn t .invalidateAck 0 0) s.time))

/-- HL_INVALIDATE_ACK: the Gallery takes the answer; it waits for none (R306). -/
def execHlInvalidateAck (hall m : Nat) (s : State) : Out :=
  txnEvent s "HL_INVALIDATE_ACK" hall m true .invalidateAck (fun s _ => s)

/-! ## Full-empty waits (R199) -/

/-- A wait of a slot, with the instance of the frame that holds it. -/
def Warp.findWait (w : Warp) (p : Nat → Nat × Wait → Bool) : Option (Nat × Nat × Wait) :=
  match w.levels.filterMap (fun lv => match lv.frame with
    | some f => (f.waits.find? (fun q => p f.fid q)).map (fun q => (f.fid, q))
    | none => none) with
  | [] => none
  | x :: _ => some x

/-- FE_WAIT_SATISFIED: the lane reads its 8 bytes and, unless it keeps, empties the granule in the same step; or the acquire that its read
was ends. -/
def execFeWaitSatisfied (wid slot lane : Nat) (s : State) : Out :=
  match s.warp wid with
  | none => .refused (.notEnabled "FE_WAIT_SATISFIED")
  | some w =>
    let mine (q : Nat × Wait) : Bool := q.1 == slot && (match q.2 with
      | .fe l .. => l == lane
      | .feDone l .. => l == lane
      | _ => false)
    match w.findWait (fun _ q => mine q && s.feReady q.2) with
    | some (fid, q) => (match q.2 with
      | .fe _ wg a keep _ => ran s (s.feTake wid fid slot lane wg a keep)
      | .feDone _ t dep _ _ => ran s (s.feAcquired wid fid slot lane t dep)
      | _ => .refused (.notEnabled "FE_WAIT_SATISFIED"))
    | none => .refused (.notEnabled "FE_WAIT_SATISFIED")

/-! ## `IINV` (R214) -/

/-- The physical ranges that executable, present pages of a virtual range map to. -/
def State.execPages (s : State) (ctx va n : Nat) : List (Nat × Nat) :=
  (pagesOf va n).filterMap (fun pg =>
    let lo := max va (pg * 65536)
    match s.walk ctx lo with
    | .ok x _ => if x.x then some (x.phys lo, min (va + n) (pg * 65536 + 65536) - lo) else none
    | .bad _ => none)

/-- The physical address that a request names in its own package (R349). -/
def ExtReq.phys (r : ExtReq) : Nat :=
  if r.host then 0x4_0000_0000_0000 + r.msg.pa else 0x8_0000_0000_0000 + r.msg.dst * 2 ^ 40 + r.msg.pa

/-- A cluster's request for a line of code outside the package: it names no access and no copy. -/
def ExtReq.isCode (r : ExtReq) : Bool := r.aid.isNone && r.copy == 0 && r.pref.isNone && r.msg.kind == .load
/-- The line of code that a hall reads. -/
def ReadFor.codeLine : ReadFor → Option Nat
  | .code _ ln => some ln
  | _ => none
/-- Drops the instruction copies of a context's range: decoded blocks, and lines in the clusters, the halls and the Gallery; and lines on
their way to a cluster, which the next miss asks for again. -/
def State.dropCode (s : State) (ctx va n : Nat) : State :=
  let whole := decide (2 ^ 57 ≤ n)
  let ps := if whole then [] else s.execPages ctx va n
  let gone (ln : Nat) : Bool := whole || ps.any (fun p => overlaps (128 * ln) 128 p.1 p.2)
  let keep (m : NMap CLine) : NMap CLine := m.filter (fun p => !gone p.1)
  { s with
    cores := s.cores.map (fun p => (p.1, { p.2 with l0 := p.2.l0.filter (fun b => !(b.ctx == ctx &&
      overlaps b.blk.addr.toNat (16 + 4 * b.blk.nread + 4 * b.blk.nslot) va n)) })),
    clusters := s.clusters.map (fun p => (p.1, { p.2 with ic := keep p.2.ic, fills := p.2.fills.filter (fun f => f.sent && !gone f.line) })),
    halls := s.halls.map (fun p => (p.1, { p.2 with ic := keep p.2.ic, reads := p.2.reads.filter (fun r => !r.who.codeLine.any gone) })),
    ext := s.ext.map (fun p => if p.2.isCode && gone (p.2.phys / 128) then (p.1, { p.2 with aid := some 0 }) else p),
    warps := s.warps.map (fun p => (p.1, { p.2 with fetch := { p.2.fetch with
      got := p.2.fetch.got.filter (fun g => !gone g.1),
      tiles := p.2.fetch.tiles.filter (fun g => !(p.2.ctx == ctx && overlaps (128 * g.1) 128 va n)) } })),
    galIc := keep s.galIc }

/-- IINV_COMPLETE: the stores of earlier blocks are performed at device scope; then the invalidation is made everywhere and
each firing lane receives 0. -/
def execIinvComplete (wid slot : Nat) (s : State) : Out :=
  match s.warp wid with
  | none => .refused (.notEnabled "IINV_COMPLETE")
  | some w =>
    match w.findWait (fun _ q => q.1 == slot && (match q.2 with
      | .iinv _ _ => true
      | _ => false)) with
    | some (fid, q) => (match q.2 with
      | .iinv ranges lanes =>
        event s "IINV_COMPLETE" (s.released (s.hallOf w) w.ctx 4)
          (let s1 := ranges.foldl (fun (s : State) r => s.dropCode w.ctx r.1 r.2) s
           let s2 := s1.updFid wid fid (fun f => { f with waits := f.waits.filter (fun x => x.1 != slot) })
           (lanesOf lanes).foldl (fun (s : State) l => s.deliverTo wid fid slot l (.value 0) 0 false false) s2)
      | _ => .refused (.notEnabled "IINV_COMPLETE"))
    | none => .refused (.notEnabled "IINV_COMPLETE")

end Sys2Proof.Machine
end

