-- ==== Sys2Proof/Machine/Barrier.lean ====
section
/-!
DEFINITION. Sys2Proof/Machine/Barrier.lean: barrier objects and their commands (R178 to R185, R385).
-/
namespace Sys2Proof.Machine

/-! ## Where it lies (R179) -/

def State.bread (s : State) (w : Warp) (h : BHome) : Nat × Bool :=
  match h with
  | .space sp a => s.spaceRead w sp a 16
  | .gallery pa key => s.galBytes pa 16 key

/-- The object of a scope below device that a command names, or the refusing cause: range before alignment. -/
def State.bfind (s : State) (w : Warp) (lv : Level) (md : BitVec 3) (a : Word) : Except (BitVec 8) (Space × Nat) :=
  let r : Except (BitVec 8) (Space × Nat) :=
    if md = 0 then s.locate w lv .scr a 16
    else if md = 1 then s.locate w lv .win a 16
    else if (s.inWindow w a.toNat).isSome then s.locate w lv .glob a 16
    else .error cPageProtection
  match r with
  | .error c => .error c
  | .ok x => if a.toNat % 16 ≠ 0 then .error cAlignment else .ok x

/-! ## Commands (R180, R181) -/

/-- A command that was performed: what its slot receives, or waits for. -/
def BCmd.comes (c : BCmd) (md : BitVec 3) (a : Word) (home : BHome) (o : BObj) (p : Nat) : UOut :=
  if c.waits then .waits (.bar md.toNat a p home (o.past p)) else if c = .arrive then .done (toWord p) else .quiet
/-- A command on an object in scratch or a hall store, performed at once. -/
def barNear (c : BCmd) (md : BitVec 3) (e : Env) (s : State) (a b : Word) : State × UOut :=
  match s.bfind e.w e.lv md a with
  | .error k => (s, .fail k a)
  | .ok (sp, x) =>
    let r := s.spaceRead e.w sp x 16
    match c.perform md (s.hallBits e.w) b r.1 r.2 with
    | .error k => (s, .fail k a)
    | .ok (o, p) =>
      let s1 := if c = .rewait then s else (s.barSettle (s.nearTo e.w) (.space sp x) o).spaceWrite e.w sp x 16 (c.bytes o r.1)
      let s2 := if c = .arriveWait then s1.updWarp e.wid (fun w =>
        w.record e.f.fid { slot := e.slot, lane := 64, t0 := none, t1 := none, waiting := some p, dep := 0 }) else s1
      (s2, c.comes md a (.space sp x) o p)
/-- A command on a device-scope object, which lies outside the hall store window: an access carries it to the object's home (R179, R345, R385). -/
def barFar (c : BCmd) (e : Env) (s : State) (a b : Word) : State × UOut :=
  if 2 ^ 57 ≤ a.toNat ∨ (s.inWindow e.w a.toNat).isSome then (s, .fail cPageProtection a)
  else if a.toNat % 16 ≠ 0 then (s, .fail cAlignment a)
  else
    let s1 := s.updFid e.wid e.f.fid (fun f => { f with waits := f.waits ++ [(e.slot, .record)] })
    (s1.begin (newAcc e (leaderOf e.f.mask) 64 (.barrier c) 0 a.toNat 16 b 0), .began)
/-- A barrier command: an arrival follows the release at its scope (R182). -/
def barPerform (c : BCmd) (md : BitVec 3) (e : Env) (s : State) (a b : Word) : State × UOut :=
  if s.inSlice e.w then (s, .fail cRecipeFailed 0)
  else if c.arrives && !s.released (s.hallOf e.w) e.w.ctx (md.toNat + 1) then (s, .hold)
  else if md = 3 then barFar c e s a b
  else barNear c md e s a b

/-- The meaning of a barrier command. -/
def barSlot (s : State) (pm : BitVec 2) (md : BitVec 3) (nops : Nat) (ts : List (BitVec 9)) (c : BCmd) : Out :=
  slotU s pm (fun _ => decide (4 ≤ md.toNat)) (fun _ => false) nops ts false false (acqFirst (fun e s a b _ => barPerform c md e s a (if nops = 2 then b else 0)))

/-- `BINIT` (R181). -/
def execBinit (pm : BitVec 2) (md : BitVec 3) (s : State) : Out := barSlot s pm md 2 [] .init
/-- `BARV` (R181). -/
def execBarv (pm : BitVec 2) (md : BitVec 3) (tb ta : BitVec 9) (s : State) : Out := barSlot s pm md 1 [ta, tb] .arrive
/-- `BARD` (R181). -/
def execBard (pm : BitVec 2) (md : BitVec 3) (s : State) : Out := barSlot s pm md 1 [] .drop
/-- `BWAIT` (R181). -/
def execBwait (pm : BitVec 2) (md : BitVec 3) (tb ta : BitVec 9) (s : State) : Out := barSlot s pm md 2 [ta, tb] .wait
/-- `BAR` (R181): it arrives once, and waits for the phase it arrived at, again after its block has been discarded (R184). -/
def execBar (pm : BitVec 2) (md : BitVec 3) (tb ta : BitVec 9) (s : State) : Out :=
  slotU s pm (fun _ => decide (4 ≤ md.toNat)) (fun _ => false) 1 [ta, tb] false false (acqFirst (fun e s a _ _ =>
    match (e.lv.recorded e.slot 64).bind (·.waiting) with
    | some p => barPerform .rewait md e s a (toWord p)
    | none => barPerform .arriveWait md e s a 0))
/-- `BEXPECT` (R181). -/
def execBexpect (pm : BitVec 2) (md : BitVec 3) (s : State) : Out := barSlot s pm md 2 [] .expect

/-- A wait of a slot other than a full-empty wait or `IINV`. -/
def Warp.uWait (w : Warp) (slot : Nat) : Option (Nat × Nat × Wait) :=
  w.findWait (fun _ q => q.1 == slot && (match q.2 with
    | .fe _ _ _ _ _ => false
    | .feDone _ _ _ _ _ => false
    | .iinv _ _ => false
    | _ => true))

/-- The targets of the slot of a frame instance. -/
def State.targetsAt (s : State) (wid fid slot : Nat) : List (BitVec 9) :=
  match s.fidFrame wid fid with
  | some f => f.targets slot
  | none => []

/-- What a slot waited for has come: the wait is removed, and the outcome delivered. -/
def State.waitOver (s : State) (wid fid slot : Nat) (o : UOut) : State :=
  (s.updFid wid fid (fun f => { f with waits := f.waits.filter (fun q => q.1 != slot) })).uApply wid fid slot (s.targetsAt wid fid slot) o
/-- A wait ends, and what comes later in program order is ordered after it (R256). -/
def State.endWait (s : State) (wid fid slot : Nat) (o : UOut) : State := (s.updWarp wid (fun w => w.ordered s.stamp)).waitOver wid fid slot o
/-- The answer to a device-scope command has come: a command that waits goes on waiting. -/
def State.barDone (s : State) (aid : Nat) (a : Access) (c : BCmd) (l : Line) : State :=
  let k : BitVec 8 := BitVec.ofNat 8 (lineBytes l 8 1)
  if k ≠ 0 then s.accPoison aid a k a.va
  else
    let s1 := { s with accs := mdel s.accs aid }
    if c.waits then s1 else s1.waitOver a.wid a.fid a.slot (if c = .arrive then .done (lineWord l 0 8) else .quiet)
/-- The slot's command is still on its way to its object, or its answer is. -/
def State.farAway (s : State) (wid fid slot : Nat) : Bool := s.accs.any (fun p => p.2.wid == wid && p.2.fid == fid && p.2.slot == slot)

/-- BARRIER_WAIT_END: the phase has changed, or the object is no longer active: by a command, a copy's completion or a hall's fatal error,
whatever became of it since (R180, R185), or by a store to its bytes; the end acquires at the barrier's scope (R181, R182). -/
def execBarrierWaitEnd (wid slot : Nat) (s : State) : Out :=
  match s.warp wid with
  | none => .refused (.notEnabled "BARRIER_WAIT_END")
  | some w => match w.uWait slot with
    | some (fid, _, .bar sc a phase h past) =>
      let core := s.coreOf w
      (match (match past with
          | some v => some v
          | none => (bobjOf (s.bread w h).1).past phase) with
       | none => .refused (.notEnabled "BARRIER_WAIT_END")
       | some (p, broken) =>
         event s "BARRIER_WAIT_END" (s.mayAcquire core (sc + 1) && !s.farAway wid fid slot)
           (let s2 := (s.acquire wid (sc + 1)).endWait wid fid slot (if broken then .fail cBarrierBroken a else .done (toWord p))
            match h with
            | .space (.scratch t) _ => s2.reap t
            | _ => s2))
    | _ => .refused (.notEnabled "BARRIER_WAIT_END")

/-- The bytes of an object after a fatal error of a hall (R183): an active device-scope object whose HALLS has the hall's
bit breaks. -/
def breakIn (hall : Nat) (v : Nat) : Nat :=
  let o := bobjOf v
  if o.st = 1 ∧ o.scope = 3 ∧ o.halls / 2 ^ hall % 2 = 1 then bobjBytes { o with st := 2 } v else v

/-- The Gallery breaks the objects of a hall. -/
def State.breakBarriers (s : State) (hall : Nat) : State :=
  s.bars.foldl (fun (s : State) p =>
    let v := (s.galBytes p.1 16 p.2).1
    if breakIn hall v = v then s
    else (s.barSettle (fun _ => false) (.gallery p.1 p.2) (bobjOf (breakIn hall v))).galPut none p.1 16 p.2 (breakIn hall v)) s

end Sys2Proof.Machine
end

