-- ==== Sys2Proof/Machine/Work.lean ====
section
/-!
DEFINITION. Sys2Proof/Machine/Work.lean: launch records (R319, R320), room on cores (R10, R25, R300, R325), the start of a
workgroup (R30), the acceptance of grids (R187, R321, R324) and the forming of stage batches (R247).
-/
namespace Sys2Proof.Machine

/-! ## The launch record (R319, R320) -/

/-- Bits of the 8-byte word at a byte of a record. -/
def recFld (v byte hi lo : Nat) : Nat := v / 2 ^ (8 * byte + lo) % 2 ^ (hi + 1 - lo)

/-- Hardware width of WIDTH: an undeclared width runs at 32 (R11). -/
def widthCode (n : Nat) : Nat := if n = 1 then 16 else if n = 3 then 64 else 32

def launchRecOf (v : Nat) : LaunchRec :=
  { entry := 16 * recFld v 0 56 4, gx := recFld v 8 15 0, gy := recFld v 8 31 16, gz := recFld v 8 47 32, hstore := recFld v 16 55 48,
    scratch := 4096 * recFld v 16 41 32, tiles := recFld v 16 20 16, prio := recFld v 16 15 14, halls := recFld v 16 13 11 + 1,
    gang := recFld v 16 10 8 + 1, pairpl := recFld v 16 7 7 == 1, width := widthCode (recFld v 16 6 5), warps := recFld v 16 4 0,
    hsbase := 0x800000 * recFld v 24 56 23, cbase := 2048 * recFld v 32 56 11, banks := BitVec.ofNat 256 (v / 2 ^ 320),
    dep0 := recFld v 72 63 0, dep1 := recFld v 80 63 0, notify := recFld v 88 1 1 == 1, early := recFld v 88 0 0 == 1,
    caddr := 8 * recFld v 96 56 3 }

/-- A bit of the record that R319 does not name is set. -/
def launchRes0 (v : Nat) : Bool :=
  recFld v 0 63 57 != 0 || recFld v 0 3 0 != 0 || recFld v 8 63 48 != 0 || recFld v 16 63 56 != 0 || recFld v 16 47 42 != 0 ||
    recFld v 16 31 21 != 0 || recFld v 24 63 57 != 0 || recFld v 24 22 0 != 0 || recFld v 32 63 57 != 0 || recFld v 32 10 0 != 0 ||
    recFld v 88 63 2 != 0 || recFld v 96 63 57 != 0 || recFld v 96 2 0 != 0 || decide (v / 2 ^ 832 ≠ 0)

/-- Reason 0x01 of R320, for a grid that would receive number `seq`. -/
def launchInvalid (v seq : Nat) : Bool :=
  let r := launchRecOf v
  launchRes0 v || r.gx == 0 || r.gy == 0 || r.gz == 0 || decide (128 < r.hstore) || decide (1008 * 4096 < r.scratch) || decide (16 < r.tiles) ||
    r.warps == 0 || decide (24 < r.warps) || (r.gx * r.gy * r.gz) % r.gang != 0 || (r.width == 64 && r.warps % 2 == 1) ||
    (r.pairpl && r.gang % 2 == 1) ||
    (List.range 16).any (fun n => let k := r.banks.extractLsb' (16 * n) 16; !k.getLsbD 15 && k.extractLsb' 0 15 != 0) ||
    (r.notify && r.caddr == 0) || (r.dep0 != 0 && decide (seq ≤ r.dep0)) || (r.dep1 != 0 && decide (seq ≤ r.dep1))

/-! ## Room on cores (R10, R25, R300, R325) -/

/-- The recipe reserve of a cluster: 4 unless the host driver sets another (R292). -/
def State.reserveOf (s : State) (cluster : Nat) : Nat := mgetD (s.hall (cluster / 13)).reserve cluster 4
/-- A core holds a reserve slot. -/
def State.reserved (s : State) (core : Nat) : Bool := decide (8 ≤ core % 8 + s.reserveOf (core / 8))

/-- The hardware warps of a workgroup that still run: two for a live width-64 warp, one for a pair at width 16 (R12, R13). -/
def State.hwWarps (s : State) (g : Wg) : Nat :=
  let ws := g.warps.filterMap (fun w => s.warp w)
  match ws with
  | [] => 0
  | w :: _ =>
    if w.width = 64 then 2 * ws.length
    else if w.width = 16 then (ws.foldl (fun (l : List Nat) x => sadd l (x.idx / 2)) []).length
    else ws.length

/-- What a core offers: free warp slots, the allocations on it, free tiles, its `cap.scratch`, whether it may pair, and its
free matrix contexts. -/
structure Room where
  core : Nat
  slots : Nat
  allocs : List (Nat × Nat)
  tiles : Nat
  cap : Nat
  pair : Bool
  mres : Nat
  deriving DecidableEq, Repr

/-- An empty core. -/
def State.emptyRoom (s : State) (core : Nat) : Room :=
  { core := core, slots := if s.reserved core then 23 else 24, allocs := [], tiles := 16, cap := s.fuses.capScratch core,
    pair := !s.fuses.noPair.contains core, mres := 2 }
/-- The workgroups on a core that hold ordinary slots, scratch or tiles: not the alcove and no slice. -/
def State.wgsOn (s : State) (core : Nat) : List Wg :=
  (mvals s.wgs).filter (fun g => g.core == core && !g.alcove && (match mget s.grids g.gid with
    | some gr => (match gr.kind with
      | .slice _ => false
      | _ => true)
    | none => true))
def State.room (s : State) (core : Nat) : Room :=
  let l := s.wgsOn core
  let e := s.emptyRoom core
  { e with slots := e.slots - l.foldl (fun a g => a + s.hwWarps g) 0, allocs := (l.filter (fun g => g.size != 0)).map (fun g => (g.base, g.size)),
           tiles := 16 - l.foldl (fun a g => a + g.tiles) 0, mres := 2 - (s.core core).mres.length }
/-- Running hardware warps of a core that count for R326. -/
def State.running (s : State) (core : Nat) : Nat := (s.wgsOn core).foldl (fun a g => a + s.hwWarps g) 0

/-- The lowest free place for an allocation: at 0x0001_0000 or behind another (R300). -/
def Room.place (r : Room) (size : Nat) : Option Nat :=
  if size = 0 then some 0x10000
  else
    let ok (b : Nat) : Bool := decide (b + size ≤ r.cap) && r.allocs.all (fun a => decide (b + size ≤ a.1) || decide (a.1 + a.2 ≤ b))
    let bs := (0x10000 :: r.allocs.map (fun a => a.1 + a.2)).filter ok
    match bs with
    | [] => none
    | x :: l => some (l.foldl min x)

/-- What a workgroup needs of a core. `mres`: the matrix contexts it holds (R340). -/
structure Want where
  slots : Nat
  scratch : Nat
  tiles : Nat
  mres : Nat
  deriving DecidableEq, Repr

def Room.take (r : Room) (n : Want) : Option (Room × Nat) :=
  if r.slots < n.slots ∨ r.tiles < n.tiles ∨ r.mres < n.mres then none
  else match r.place n.scratch with
    | none => none
    | some b => some ({ r with slots := r.slots - n.slots, tiles := r.tiles - n.tiles, mres := r.mres - n.mres,
                               allocs := if n.scratch = 0 then r.allocs else (b, n.scratch) :: r.allocs }, b)

/-- First fit of one workgroup: the first room that takes it. -/
def takeFirst : List Room → Want → Option (List Room × Nat × Nat)
  | [], _ => none
  | r :: l, n => match r.take n with
    | some (r1, b) => some (r1 :: l, r.core, b)
    | none => match takeFirst l n with
      | some (l1, x) => some (r :: l1, x)
      | none => none

/-- First fit in core order: core and offset for each workgroup, or none where one does not fit. -/
def fitAll : List Room → List Want → Option (List (Nat × Nat))
  | _, [] => some []
  | l, n :: ns => match takeFirst l n with
    | some (l1, x) => (fitAll l1 ns).map (fun r => x :: r)
    | none => none

/-- First fit of a pair on cores 2j and 2j + 1. -/
def takePair : List Room → Want → Want → Option (List Room × (Nat × Nat) × (Nat × Nat))
  | a :: b :: l, m, n =>
    match (if a.core % 2 = 0 ∧ b.core = a.core + 1 ∧ a.pair = true ∧ b.pair = true then
        (match a.take m, b.take n with
         | some x, some y => some (x, y)
         | _, _ => none) else none) with
    | some (x, y) => some (x.1 :: y.1 :: l, (a.core, x.2), (b.core, y.2))
    | none => match takePair (b :: l) m n with
      | some (l1, p) => some (a :: l1, p)
      | none => none
  | _, _, _ => none
/-- First fit of pairs. -/
def fitPairs : List Room → List Want → Option (List (Nat × Nat))
  | l, m :: n :: ns => match takePair l m n with
    | some (l1, x, y) => (fitPairs l1 ns).map (fun r => x :: y :: r)
    | none => none
  | _, [] => some []
  | _, _ => none

def fitGang (pairpl : Bool) (l : List Room) (ns : List Want) : Option (List (Nat × Nat)) := if pairpl then fitPairs l ns else fitAll l ns

def LaunchRec.want (r : LaunchRec) : Want := { slots := r.warps, scratch := r.scratch, tiles := r.tiles, mres := 0 }
def coresOf (cluster : Nat) : List Nat := (List.range 8).map (· + 8 * cluster)

/-- Reason 0x03 of R320: no cluster, with its recipe reserve taken out, can hold a gang. -/
def State.launchNoRoom (s : State) (r : LaunchRec) : Bool :=
  !(List.range 104).any (fun c => !(s.hall (c / 13)).fatal &&
    (fitGang r.pairpl ((coresOf c).map s.emptyRoom) (List.replicate r.gang r.want)).isSome)

/-! ## A workgroup starts (R30, R291, R332) -/

def WgMem.start : WgMem := WgMem.empty

def baseLevel (entry : Nat) (mask : Lanes) : Level := handlerLevel .base entry mask Window.empty

/-- A warp at its start: registers zero, every lane active, an empty divergence stack; `ws` holds registers delivered to
every lane. -/
def warpStart (ctx wg idx width : Nat) (mode : Mode) (entry acq now : Nat) (ws : List (Nat × Word)) : Warp :=
  { ctx := ctx, wg := wg, idx := idx, width := width, mode := mode,
    regs := ws.foldl (fun m p => (List.range width).foldl (fun m l => msetD m (p.1 * 64 + l) p.2 0) m) [], regDeps := [], hregs := [],
    levels := [baseLevel entry (lowLanes width)], stat := .ready, fetch := Fetching.idle, stq := [], stamp := now,
    raised := 0, raisedAt := 0, lastDispatch := now, served := 0, shareHold := false, shareUsed := false, acqOwed := acq, early := [], floor := none }

def State.modeOf (s : State) (ctx : Nat) : Mode :=
  match mget s.ctxs ctx with
  | some c => if c.cfg.supervisor then .supervisor else .user
  | none => .user

/-- A workgroup starts on a core, in a gang of a grid: its memory, and its declared warps at the entry block. -/
def State.startWg (s : State) (gang gid ctx num rank core base : Nat) (r : LaunchRec) (mode : Mode) (acq : Nat) (mem : WgMem) (alcove : Bool)
    (ws : List (Nat × Word)) : State :=
  let id := s.nextId
  let n := r.declared
  let g : Wg := { gang := gang, gid := gid, ctx := ctx, num := num, rank := rank, core := core, base := base, size := r.scratch, tiles := r.tiles,
                  tile0 := 0, slots := r.warps, warps := (List.range n).map (fun d => id + 1 + d), mem := mem, triggered := false, ended := false,
                  saved := false, alcove := alcove }
  let s1 := { s with nextId := id + 1 + n, wgs := mset s.wgs id g, gangs := mupd s.gangs gang (fun x => { x with wgs := x.wgs ++ [id] }) }
  (List.range n).foldl (fun (s : State) d => s.setWarp (id + 1 + d) (warpStart ctx id d r.width mode r.entry acq s.time ws)) s1

def gangOf (gid num hallIx hall since : Nat) (recs : List Rec64) (batch acq : Nat) : Gang :=
  { gid := gid, num := num, hallIx := hallIx, hall := hall, cluster := 0, stat := .pending, since := since, told := false,
    resv := [], wgs := [], recs := recs, batch := batch, acqScope := acq, restoring := false }

/-! ## Acceptance (R187, R321, R324) -/

def LaunchRec.gangs (r : LaunchRec) : Nat := r.gx * r.gy * r.gz / r.gang
def Grid.isPlain (g : Grid) : Bool :=
  match g.kind with
  | .plain => true
  | _ => false
/-- Accepted grids of a context that are not yet fully placed (R322). -/
def State.queued (s : State) (ctx : Nat) : Nat :=
  ((mvals s.grids).filter (fun g => g.ctx == ctx && g.isPlain && decide (g.placedGangs < g.lr.gangs))).length

/-- The grid of a context with a number, while it has not completed. -/
def State.gridSeq (s : State) (ctx seq : Nat) : Option Grid :=
  (mvals s.grids).find? (fun g => g.ctx == ctx && g.seq == seq && (match g.kind with
    | .slice _ => false
    | .alcove => false
    | _ => true))
/-- Every workgroup of a grid has triggered or ended (R188); a stage grid launches further workgroups until its binding goes (log entry 35). -/
def Grid.allTriggered (g : Grid) : Bool :=
  match g.kind with
  | .plain => decide (g.lr.gx * g.lr.gy * g.lr.gz ≤ g.triggered.length)
  | .stage _ => g.unbound && decide (g.handed ≤ g.triggered.length)
  | _ => false
/-- A predecessor lets a grid become eligible (R324). -/
def State.depDone (s : State) (ctx seq : Nat) (early : Bool) : Bool :=
  seq == 0 || (match s.gridSeq ctx seq with
    | none => true
    | some g => early && g.allTriggered)
/-- Every predecessor of a grid has completed (R189). -/
def State.depsComplete (s : State) (ctx : Nat) (r : LaunchRec) : Bool := s.depDone ctx r.dep0 false && s.depDone ctx r.dep1 false

/-- The scope that a warp of a grid acquires at its start (R257): that of its launch, and device after predecessors. -/
def LaunchRec.startAcq (r : LaunchRec) (scope : Nat) : Nat := if r.dep0 = 0 ∧ r.dep1 = 0 then scope else max scope 4

def gridNew (ctx seq : Nat) (kind : GKind) (r : LaunchRec) (scope : Nat) : Grid :=
  { ctx := ctx, seq := seq, kind := kind, lr := r, acqScope := scope, eligible := false, halls := [], handed := 0, placedGangs := 0, endedWgs := 0,
    triggered := [], storesAt := [], unbound := false }

/-- A record comes to the device distributor: its grid and number, or the reason of R187. -/
def State.acceptGrid (s : State) (ctx v scope : Nat) : State × Except Nat Nat :=
  match mget s.ctxs ctx with
  | none => (s, .error 1)
  | some c =>
    let r := launchRecOf v
    if launchInvalid v c.nextSeq then (s, .error 1)
    else if s.launchNoRoom r then (s, .error 3)
    else if Config.launchQueue ≤ s.queued ctx then (s, .error 2)
    else
      let g := gridNew ctx c.nextSeq .plain r scope
      ({ s with nextId := s.nextId + 1, grids := mset s.grids s.nextId g, ctxs := mset s.ctxs ctx { c with nextSeq := c.nextSeq + 1 } }, .ok c.nextSeq)

/-- A refused record of an entry queue or a put window: a fault record of kind 2 (R322, R336). -/
def State.refuseLaunch (s : State) (ctx reason q entry : Nat) : State :=
  s.post { ctx := ctx, w0 := recWord0 2 0 ctx 0 0 0 0 0, info := toWord (reason + q * 2 ^ 16), block := toWord entry, handle := 0 }

/-! ## Halls of a grid (R324) -/

/-- Free warp slots of a hall. -/
def State.hallFree (s : State) (h : Nat) : Nat := (List.range 104).foldl (fun a i => a + (s.room (104 * h + i)).slots) 0
/-- The `n` best of some halls by free slots, ties to the lower number. -/
def bestHalls : List (Nat × Nat) → Nat → List Nat
  | _, 0 => []
  | [], _ => []
  | x :: l, n + 1 =>
    let b := l.foldl (fun (a : Nat × Nat) y => if a.2 < y.2 then y else a) x
    b.1 :: bestHalls ((x :: l).filter (fun y => y.1 != b.1)) n
def State.chooseHalls (s : State) (hs : List Nat) (n : Nat) : List Nat :=
  (bestHalls (hs.map (fun h => (h, s.hallFree h))) n).foldl sadd []
/-- The halls that take no fatal error's rest (R362). -/
def State.liveHalls (s : State) : List Nat := (List.range 8).filter (fun h => !(s.hall h).fatal)

/-! ## Stage batches (R247, R333) -/

def State.updGraph (s : State) (ctx : Nat) (n : Option Nat) (f : Graph → Graph) : State :=
  match n with
  | none => s
  | some k => { s with ctxs := mupd s.ctxs ctx (fun c => { c with graphs := mupd c.graphs k f }) }
/-- Progress on the graph of a queue (R333). -/
def State.progress (s : State) (q : Queue) : State := s.updGraph q.ctx q.graph (fun g => { g with progress := true, quietTold := false })

/-- The records ahead of the first marker, with scope, time and whether the host put them. -/
def leadRecs : List QItem → List (Rec64 × Nat × Nat)
  | .rcd r sc t h :: l => (r, if h then 6 else sc, t) :: leadRecs l
  | _ => []
def countRecs (l : List QItem) : Nat := (l.filter (fun i => match i with
  | .rcd _ _ _ _ => true
  | _ => false)).length

/-- Scratch of a stage workgroup: its records, its count word, and their granules full. -/
def stageMem (recs : List Rec64) (batch : Nat) : WgMem :=
  let m := ((List.range recs.length).zip recs).foldl (fun (m : WgMem) p => m.scrPut (64 * p.1) 64 p.2.toNat) WgMem.start
  ((m.scrPut (64 * batch) 8 recs.length).fill 0 (64 * recs.length)).fill (64 * batch) 8

/-- The stage workgroups in flight of a grid. -/
def State.inFlight (s : State) (gid : Nat) : Nat := ((mvals s.gangs).filter (fun g => g.gid == gid && g.stat != .ended)).length

/-- Launches one workgroup of the bound stage with the first `n` records, where MAXWG, the grid and a hall allow it. -/
def State.launchBatch (s : State) (qn n : Nat) : Option State :=
  match mget s.queues qn with
  | none => none
  | some q => match q.bound with
    | none => none
    | some b => match mget q.bindings b, mget s.ctxs q.ctx with
      | some bd, some c => (match mget s.grids bd.gid with
        | none => none
        | some g =>
          match s.chooseHalls (s.liveHalls.filter (fun h => !c.savedHalls.contains h)) 1 with
          | [] => none
          | h :: _ =>
            if n = 0 ∨ c.stopped = true ∨ g.eligible = false ∨ (bd.maxwg ≠ 0 ∧ bd.maxwg ≤ s.inFlight bd.gid) then none
            else
              let rs := (leadRecs q.items).take n
              let scope := rs.foldl (fun a r => max a r.2.1) 0
              let gg := gangOf bd.gid (q.batchSeq % 65536) 0 h s.time (rs.map (·.1)) bd.batch (g.lr.startAcq scope)
              let q1 := { q with items := q.items.drop rs.length, batchSeq := q.batchSeq + 1 }
              some (({ s with nextId := s.nextId + 1, queues := mset s.queues qn q1, gangs := mset s.gangs s.nextId gg,
                              grids := mset s.grids bd.gid { g with handed := g.handed + 1, halls := sadd g.halls h } } : State).progress q))
      | _, _ => none

/-- Records per batch of the binding in force. -/
def Queue.batch (q : Queue) : Option Binding :=
  match q.bound with
  | some b => mget q.bindings b
  | none => none

/-- Every full batch that may launch does. -/
def State.launchFull (s : State) (qn : Nat) : Nat → State
  | 0 => s
  | n + 1 => match mget s.queues qn with
    | none => s
    | some q => match q.batch with
      | none => s
      | some bd =>
        if (leadRecs q.items).length < bd.batch then s
        else match s.launchBatch qn bd.batch with
          | some s1 => s1.launchFull qn n
          | none => s
def State.batches (s : State) (qn : Nat) : State := s.launchFull qn (((mget s.queues qn).map (fun q => q.items.length)).getD 0)

/-- A marker takes effect: its binding, or none, is in force; the grid of the old one launches no more (R248). -/
def State.applyMark (s : State) (qn : Nat) (b : Option Nat) : State :=
  match mget s.queues qn with
  | none => s
  | some q =>
    let old := q.batch
    let s1 := { s with queues := mset s.queues qn { q with bound := b, bindings := match q.bound with
      | some k => mdel q.bindings k
      | none => q.bindings } }
    match old with
    | some bd => { s1 with grids := mupd s1.grids bd.gid (fun g => { g with unbound := true }) }
    | none => s1

end Sys2Proof.Machine
end

