-- ==== Sys2Proof/Machine/Queue.lean ====
section
/-!
DEFINITION. Sys2Proof/Machine/Queue.lean: stage queues and their commands (R241 to R248), alcove records on their way (R331),
and the watchdog of stage graphs (R333, R334).
-/
namespace Sys2Proof.Machine

/-! ## Operands (R241) -/

/-- The queue that a handle names for a context; none where the handle acts as a closed queue. -/
def State.queueOf (s : State) (ctx : Nat) (a : Word) : Option (Nat × Queue) :=
  if fld a 63 10 ≠ 0 then none
  else match mget s.queues (fld a 9 0) with
    | some q => if q.ctx = ctx then some (fld a 9 0, q) else none
    | none => none

/-- A records operand: its count and scratch offset, or the refusing cause. Where it is malformed and also reaches past the allocation R241 does not
say which counts: the form does (DESIGN CHOICE, log entry 41). -/
def State.recsOperand (s : State) (w : Warp) (b : Word) : Except (BitVec 8) (Nat × Nat) :=
  let n := fld b 28 24 + 1
  let a := fld b 21 0
  if fld b 63 29 ≠ 0 ∨ fld b 23 22 ≠ 0 ∨ a % 64 ≠ 0 then .error cAlignment
  else if ((mget s.wgs w.wg).map (·.size)).getD 0 < a + 64 * n then .error cScratchRange
  else .ok (n, a)

/-! ## Alcove records (R331) -/

/-- A record that is dropped: a RES0 bit, or a core that does not exist. -/
def alcoveBad (r : Rec64) : Bool :=
  let w0 := r.extractLsb' 0 64
  let w1 := r.extractLsb' 64 64
  fld w0 63 10 != 0 || decide (831 < fld w0 9 0) || fld w1 63 57 != 0 || fld w1 3 0 != 0
def alcoveEntry (r : Rec64) : Nat := 16 * fld (r.extractLsb' 64 64) 56 4
def alcoveCore (r : Rec64) : Nat := fld (r.extractLsb' 0 64) 9 0

/-- The alcove vector of a queue: its place among the alcove queues (R356). -/
def State.alcoveVec (s : State) (qn : Nat) : Option Nat :=
  let i := (s.queues.filter (fun p => decide (p.1 < qn) && p.2.role == .alcove)).length
  if i < 16 then some (67 + i) else none

/-- A queue goes from `n` records to `k`: an alcove queue that falls below half its capacity sends its message (R356). -/
def State.alcoveSignal (s : State) (qn : Nat) (q : Queue) (n k : Nat) : State :=
  match (if q.role = .alcove ∧ q.cap ≤ 2 * n ∧ 2 * k < q.cap then s.alcoveVec qn else none) with
  | some v => s.msix v
  | none => s

/-- The record at the head leaves an alcove queue: to its core's buffer of four, or dropped with a fault record. -/
def State.alcoveMove1 (s : State) (qn : Nat) (q : Queue) (r : Rec64) (scope : Nat) : Option State :=
  let s2 := ({ s with queues := mset s.queues qn { q with items := q.items.drop 1 } } : State).alcoveSignal qn q q.items.length (q.items.length - 1)
  if alcoveBad r then (if s.postRoom q.ctx then some (s2.refuseLaunch q.ctx 1 qn (alcoveEntry r)) else none)
  else if (s.core (alcoveCore r)).alcBuf.length < 4 then
    some (s2.updCore (alcoveCore r) (fun c => { c with alcBuf := c.alcBuf ++ [(r, scope)] }))
  else none
/-- Records move in queue order until one finds its core's buffer full. -/
def State.alcoveMove (s : State) (qn : Nat) : Nat → State
  | 0 => s
  | n + 1 => match mget s.queues qn with
    | some q => (match q.role, q.items with
      | .alcove, .rcd r sc _ h :: _ => (match s.alcoveMove1 qn q r (if h then 6 else sc) with
        | some s1 => s1.alcoveMove qn n
        | none => s)
      | _, _ => s)
    | none => s
def State.alcoveMoveAll (s : State) (qn : Nat) : State := s.alcoveMove qn (((mget s.queues qn).map (fun q => q.items.length)).getD 0)

/-! ## Put, take, close, state (R242 to R245) -/

/-- Records are appended to a queue: progress on its graph, then the batches that become full launch, and alcove records
move. -/
def State.append (s : State) (qn : Nat) (q : Queue) (rs : List Rec64) (scope : Nat) (host : Bool) : State :=
  let q1 := { q with items := q.items ++ rs.map (fun r => QItem.rcd r scope s.time host) }
  ((({ s with queues := mset s.queues qn q1 } : State).progress q).batches qn).alcoveMoveAll qn

/-- The graph of the stage that a warp belongs to (R333). -/
def State.stageGraph (s : State) (w : Warp) : Option Nat :=
  match s.gridOf w with
  | some g => (match g.kind with
    | .stage q => (mget s.queues q).bind (·.graph)
    | _ => none)
  | none => none
def State.noteRefused (s : State) (wid ctx : Nat) (mine : Option Nat) (qn : Nat) (q : Queue) : State :=
  (s.updGraph q.ctx q.graph (fun g => { g with full := sadd g.full qn })).updGraph ctx mine (fun g => { g with refused := sadd g.refused wid })
def State.noteAccepted (s : State) (wid ctx : Nat) (mine : Option Nat) : State :=
  s.updGraph ctx mine (fun g => { g with accepted := sadd g.accepted wid })

/-- `QPUT` (R242) performed. That poisoned records are refused before the queue's room is tested is the model's choice (log entry 41). -/
def qputPerform (md : BitVec 3) (e : Env) (s : State) (a b _ : Word) : State × UOut :=
  if s.inSlice e.w then (s, .fail cRecipeFailed 0)
  else match s.recsOperand e.w b with
  | .error c => (s, .fail c b)
  | .ok (n, x) =>
    if md ≠ 0 ∧ !s.released (s.hallOf e.w) e.w.ctx md.toNat then (s, .hold)
    else match s.queueOf e.w.ctx a with
    | none => (s, .fail cQueueClosed a)
    | some (qn, q) =>
      let m := if q.role = .entry then n / 2 * 2 else n
      let mine := s.stageGraph e.w
      if q.closed then (s, .fail cQueueClosed a)
      else if (s.memOf e.w.wg).scrPois x (64 * m) && m != 0 then (s, .fail cMemoryPoison b)
      else if q.cap < countRecs q.items + m then (s.noteRefused e.wid e.w.ctx mine qn q, .done 0)
      else if m = 0 then (s, .done 0)
      else
        let rs := (List.range m).map (fun i => BitVec.ofNat 512 ((s.memOf e.w.wg).scr (x + 64 * i) 64))
        ((s.append qn q rs md.toNat false).noteAccepted e.wid e.w.ctx mine, .done (toWord m))

/-- `QPUT` (R242). -/
def execQput (pm : BitVec 2) (md : BitVec 3) (tb ta : BitVec 9) (s : State) : Out :=
  slotU s pm (fun _ => md == 7) (fun _ => false) 2 [ta, tb] false false (acqFirst (qputPerform md))

/-- `QTAKE` (R243): it checks its operands, then waits for QTAKE_WAIT_END. -/
def execQtake (pm : BitVec 2) (md : BitVec 3) (tb ta : BitVec 9) (s : State) : Out :=
  slotU s pm (fun _ => md == 7) (fun _ => false) 2 [ta, tb] false false (acqFirst (fun e s a b _ =>
    if s.inSlice e.w then (s, .fail cRecipeFailed 0)
    else match s.recsOperand e.w b with
    | .error c => (s, .fail c b)
    | .ok (n, x) => match s.queueOf e.w.ctx a with
      | none => (s, .done 0)
      | some (qn, _) => (s, .waits (.qtake qn n x md.toNat s.time))))

/-- Takes up to `n` records from the head; a marker reached takes effect. -/
def State.takeRecs (s : State) (qn : Nat) : List QItem → Nat → State × List Rec64
  | _, 0 => (s, [])
  | [], _ => (s, [])
  | .rcd r _ _ _ :: l, n + 1 =>
    let s1 := { s with queues := mupd s.queues qn (fun q => { q with items := l }) }
    let p := s1.takeRecs qn l n
    (p.1, r :: p.2)
  | .mark b :: l, n + 1 => ((({ s with queues := mupd s.queues qn (fun q => { q with items := l }) } : State).applyMark qn b)).takeRecs qn l (n + 1)

/-- A `QTAKE` takes up to `n` records from a queue: what it does to an alcove queue, its movement does too (R331, R356). -/
def State.takeFrom (s : State) (qn : Nat) (q : Queue) (n : Nat) : State × List Rec64 :=
  let p := s.takeRecs qn q.items n
  ((p.1.alcoveSignal qn q (countRecs q.items) (countRecs q.items - p.2.length)).alcoveMoveAll qn, p.2)

/-- QTAKE_WAIT_END: the queue holds a record, or is closed and empty, as one of another context is for this warp (R241); the end acquires at
the command's scope. -/
def execQtakeWaitEnd (wid slot : Nat) (s : State) : Out :=
  match s.warp wid with
  | none => .refused (.notEnabled "QTAKE_WAIT_END")
  | some w => match w.uWait slot with
    | some (fid, _, .qtake qn n x scope _) =>
      let core := s.coreOf w
      let ok := scope == 0 || s.mayAcquire core scope
      (match mget s.queues qn with
       | none => event s "QTAKE_WAIT_END" ok (s.endWait wid fid slot (.done 0))
       | some q =>
         let k := countRecs q.items
         if q.ctx ≠ w.ctx then event s "QTAKE_WAIT_END" ok (s.endWait wid fid slot (.done 0))
         else if k = 0 then event s "QTAKE_WAIT_END" (q.closed && ok) (s.endWait wid fid slot (.done 0))
         else event s "QTAKE_WAIT_END" ok
           (let p := s.takeFrom qn q n
            let s1 := ((List.range p.2.length).zip p.2).foldl (fun (s : State) y => s.updMem w.wg (fun m => m.scrPut (x + 64 * y.1) 64 y.2.toNat)) p.1
            let s2 := s1.progress q
            (s2.acquire wid scope).endWait wid fid slot (.done (toWord p.2.length))))
    | _ => .refused (.notEnabled "QTAKE_WAIT_END")

/-- `QCLOSE` (R244). -/
def execQclose (pm : BitVec 2) (s : State) : Out :=
  slotU s pm (fun _ => false) (fun _ => false) 1 [] false false (fun e s a _ _ =>
    if s.inSlice e.w then (s, .fail cRecipeFailed 0)
    else match s.queueOf e.w.ctx a with
      | none => (s, .quiet)
      | some (qn, q) => ({ s with queues := mset s.queues qn { q with closed := true } }, .quiet))

/-- The layout of `QSTAT` (R245). -/
def qstatWord (q : Option Queue) : Word :=
  match q with
  | none => toWord (2 ^ 63)
  | some q => toWord ((if q.closed then 2 ^ 63 else 0) + (if q.bound.isSome then 2 ^ 62 else 0) + (if q.spill then 2 ^ 61 else 0)
      + q.cap % 2 ^ 24 * 2 ^ 32 + countRecs q.items % 2 ^ 24)
/-- `QSTAT` (R245). -/
def execQstat (pm : BitVec 2) (tb ta : BitVec 9) (s : State) : Out :=
  slotU s pm (fun _ => false) (fun _ => false) 1 [ta, tb] false false (fun e s a _ _ =>
    if s.inSlice e.w then (s, .fail cRecipeFailed 0)
    else (s, .done (qstatWord ((s.queueOf e.w.ctx a).map (·.2)))))

/-! ## Records read by a command (R186, R246, R398) -/

/-- Check 1 of a record in global memory; for an engine command the hall store window is ordinary memory (R28). -/
def State.recordOut (s : State) (w : Warp) (lv : Level) (a : Word) (n : Nat) (eng : Bool) : Bool :=
  if eng then decide (2 ^ 57 < a.toNat + n) else (match s.locate w lv .glob a n with
    | .error _ => true
    | .ok _ => false)
/-- A command begins to read a record: alignment, check 1, then an access as a load's, and the slot waits for it. -/
def State.readRecord (s : State) (e : Env) (a : Word) (n : Nat) (eng : Bool) : State × UOut :=
  if a.toNat % n ≠ 0 then (s, .fail cAlignment a)
  else if s.recordOut e.w e.lv a n eng then (s, .fail cPageProtection a)
  else
    let s1 := s.updFid e.wid e.f.fid (fun f => { f with waits := f.waits ++ [(e.slot, .record)] })
    (s1.begin (newAcc e (leaderOf e.f.mask) 64 (.record 0 eng) 0 a.toNat n 0 0), .began)

/-! ## Bindings (R246, R248) -/

/-- A marker goes behind the records of a queue. -/
def State.putMark (s : State) (qn : Nat) (q : Queue) (b : Option Nat) : State :=
  { s with queues := mset s.queues qn { q with items := q.items ++ [.mark b] } }

/-- `QBIND` (R246). -/
def execQbind (pm : BitVec 2) (s : State) : Out :=
  slotU s pm (fun e => e.w.modeNow != .supervisor) (fun _ => false) 2 [] false false (acqFirst (fun e s a b _ =>
    if s.inSlice e.w then (s, .fail cRecipeFailed 0)
    else match s.queueOf e.w.ctx a with
    | none => (s, .fail cQueueClosed a)
    | some (qn, q) =>
      if q.role ≠ .stage then (s, .fail cSoftwareTrap 0xFFE)
      else if b = 0 then (s.putMark qn q none, .quiet)
      else s.readRecord e b 64 true))

/-- A binding record breaks a RES0 field. -/
def bindRes0 (v : Nat) : Bool := recFld v 8 63 48 != 0 || recFld v 8 15 5 != 0 || decide (v % 2 ^ 512 / 2 ^ 128 ≠ 0)

/-- The launch record of a stage grid: what R247 ignores reads as R247 says. PAIRPL, which R247 does not name, has no pair to place in a gang of
one and is dropped (DESIGN CHOICE, log entry 32). -/
def stageLr (r : LaunchRec) : LaunchRec := { r with gx := 0, gy := 1, gz := 1, gang := 1, halls := 1, pairpl := false }

/-- The template of a binding has been read: the queue is bound, or keeps its binding (R246). `w8` is the binding record's
second word. A queue that another context has been given since the command began is not this context's: R241 holds of it at the binding too
(DESIGN CHOICE, log entry 32); of this context's queue the role is not tested again (DESIGN CHOICE, log entry 41). -/
def State.bindWith (s : State) (ctx qn : Nat) (w8 : Word) (v : Nat) : State × UOut :=
  match mget s.queues qn, mget s.ctxs ctx with
  | some q, some c =>
    let r := launchRecOf v
    let b := fld w8 4 0 + 1
    if q.ctx ≠ ctx then (s, .fail cQueueClosed (toWord qn))
    else if launchInvalid v c.nextSeq || s.launchNoRoom r || decide (r.scratch < (64 * b + 8 + 4095) / 4096 * 4096) then (s, .fail cSoftwareTrap 0xFFF)
    else
      let gid := s.nextId
      let g := { gridNew ctx c.nextSeq (.stage qn) (stageLr r) 0 with eligible := s.depDone ctx r.dep0 r.early && s.depDone ctx r.dep1 r.early }
      let bd : Binding := { gid := gid, batch := b, linger := fld w8 31 16, maxwg := fld w8 47 32 }
      let q1 := { q with bindings := mset q.bindings q.nextMark bd, nextMark := q.nextMark + 1, items := q.items ++ [.mark (some q.nextMark)] }
      ({ s with nextId := gid + 1, grids := mset s.grids gid g, ctxs := mset s.ctxs ctx { c with nextSeq := c.nextSeq + 1 },
                queues := mset s.queues qn q1 }, .quiet)
  | _, _ => (s, .fail cQueueClosed (toWord qn))

/-- QBIND_MARKER_HEAD: a marker reaches the head, a partial batch before it having launched. -/
def execQbindMarkerHead (q : Nat) (s : State) : Out :=
  match mget s.queues q with
  | none => .refused (.notEnabled "QBIND_MARKER_HEAD")
  | some x =>
    let n := (leadRecs x.items).length
    match (x.items.drop n).head? with
    | some (.mark b) =>
      let go (s1 : State) : State :=
        (({ s1 with queues := mupd s1.queues q (fun y => { y with items := y.items.drop 1 }) } : State).applyMark q b).batches q
      if n = 0 then ran s (go s)
      else (match x.batch with
        | some bd => if n < bd.batch then (match s.launchBatch q n with
            | some s1 => ran s (go s1)
            | none => .refused (.notEnabled "QBIND_MARKER_HEAD")) else .refused (.notEnabled "QBIND_MARKER_HEAD")
        | none => .refused (.notEnabled "QBIND_MARKER_HEAD"))
    | _ => .refused (.notEnabled "QBIND_MARKER_HEAD")

/-- STAGE_LINGER_EXPIRED: a partial batch whose first record has waited LINGER × 320 ns launches; so does a full batch that
MAXWG or its grid had held back (R247). -/
def execStageLingerExpired (q : Nat) (s : State) : Out :=
  match mget s.queues q with
  | none => .refused (.notEnabled "STAGE_LINGER_EXPIRED")
  | some x => match x.batch, leadRecs x.items with
    | some bd, f :: l =>
      let n := l.length + 1
      let due := decide (bd.batch ≤ n) || decide (f.2.2 + bd.linger * 320 ≤ s.time)
      (match s.launchBatch q (min n bd.batch) with
       | some s1 => event s "STAGE_LINGER_EXPIRED" due (s1.batches q)
       | none => .refused (.notEnabled "STAGE_LINGER_EXPIRED"))
    | _, _ => .refused (.notEnabled "STAGE_LINGER_EXPIRED")

/-! ## Allocation and put windows (R244, R322, R323, R331) -/

def graphDefault (now : Nat) : Graph :=
  { interval := 1048576, report := 0, started := now, progress := false, quietTold := false, full := [], refused := [], accepted := [] }

/-- The records that the on-die storage holds for the queues but one (R308): what the watchdog adds to a queue lies in the spill pool. -/
def State.onDie (s : State) (q : Nat) : Nat := (s.queues.filter (fun p => p.1 != q)).foldl (fun a p => a + p.2.onDie) 0
/-- QUEUE_ALLOCATE: the host driver allocates a queue to a context, open and empty, within the 16 MiB of record storage. What the number held
before goes: its share of the spill pool, and its bindings, in force or queued, whose grids end with the workgroups already made (R246). -/
def execQueueAllocate (q ctx : Nat) (role : QRole) (cap : Nat) (graph : Option Nat) (s : State) : Out :=
  let x : Queue := { ctx := ctx, role := role, cap := cap, onDie := cap, closed := false, spill := false, items := [], bindings := [], bound := none, nextMark := 0,
                     batchSeq := 0, drops := 0, graph := graph }
  let s0 := match mget s.queues q with
    | some y =>
      let t : State := { s with ctxs := mupd s.ctxs y.ctx (fun c => { c with spillUsed := c.spillUsed - 64 * (y.cap - y.onDie) }) }
      y.bindings.foldl (fun (s : State) (b : Nat × Binding) => { s with grids := mupd s.grids b.2.gid (fun g => { g with unbound := true }) }) t
    | none => s
  let s1 := { s0 with queues := mset s0.queues q x, ctxs := mupd s0.ctxs ctx (fun c => match graph with
    | some n => if (mget c.graphs n).isSome then c else { c with graphs := mset c.graphs n (graphDefault s.time) }
    | none => c) }
  event s "QUEUE_ALLOCATE" (decide (q < 1024) && (mget s.ctxs ctx).isSome && decide (0 < cap) && decide (s.onDie q + cap ≤ 2 ^ 18) &&
    (match graph with
     | some n => decide (n < 64)
     | none => true)) s1

/-- A host write to a put window: one put of whole records, or a discarded write (R323). -/
def State.windowPut (s : State) (qn : Nat) (role : QRole) (ok : Bool) (rs : List Rec64) : State :=
  match mget s.queues qn with
  | none => s
  | some q =>
    if q.role ≠ role then s
    else if ok && !q.closed && decide (countRecs q.items + rs.length ≤ q.cap) then s.append qn q rs 6 true
    else { s with queues := mset s.queues qn { q with drops := (q.drops + 1) % 2 ^ 64 } }

/-- PUT_WINDOW_WRITE (R323). -/
def execPutWindowWrite (q off size : Nat) (data : BitVec 1024) (s : State) : Out :=
  ran s (if !s.fw.ok then s else s.windowPut q .entry (off == 0 && size == 128) [data.extractLsb' 0 512, data.extractLsb' 512 512])
/-- ALCOVE_PUT_WINDOW_WRITE (R331). -/
def execAlcovePutWindowWrite (q off size : Nat) (data : Rec64) (s : State) : Out :=
  ran s (if !s.fw.ok then s else s.windowPut q .alcove (off == 0 && size == 64) [data])

/-! ## Entry queues (R322) -/

/-- The next entry queue of a context that holds a launch record, round-robin from the last one served. -/
def State.nextEntry (s : State) (ctx rr : Nat) : Option Nat :=
  let l := (s.queues.filter (fun p => p.2.ctx == ctx && p.2.role == .entry && decide (2 ≤ countRecs p.2.items))).map (·.1)
  match l.find? (fun q => decide (rr < q)) with
  | some q => some q
  | none => l.head?

/-- ENTRY_QUEUE_ACCEPT: the launch record at the head of an entry queue, while the launch queue has room (R322). -/
def execEntryQueueAccept (q : Nat) (s : State) : Out :=
  match mget s.queues q with
  | some x => (match x.items, mget s.ctxs x.ctx with
    | .rcd a s1 _ h1 :: .rcd b s2 _ h2 :: l, some c =>
      let scope := if h1 || h2 then 6 else max s1 s2
      let v := a.toNat + b.toNat * 2 ^ 512
      let t := { s with queues := mset s.queues q { x with items := l }, ctxs := mset s.ctxs x.ctx { c with rr := q } }
      let r := t.acceptGrid x.ctx v scope
      event s "ENTRY_QUEUE_ACCEPT" (x.role == .entry && !c.stopped && s.nextEntry x.ctx c.rr == some q && decide (s.queued x.ctx < Config.launchQueue)
          && (r.2.isOk || s.postRoom x.ctx))
        (match r.2 with
         | .ok _ => r.1
         | .error k => r.1.refuseLaunch x.ctx k q (launchRecOf v).entry)
    | _, _ => .refused (.notEnabled "ENTRY_QUEUE_ACCEPT"))
  | none => .refused (.notEnabled "ENTRY_QUEUE_ACCEPT")

/-! ## The watchdog (R333, R334) -/

/-- The live stage workgroups of a graph, each with its queue. -/
def State.graphWgs (s : State) (ctx n : Nat) : List (Nat × Wg) :=
  (mvals s.wgs).filterMap (fun g => if g.ended || g.ctx != ctx then none else match mget s.grids g.gid with
    | some gr => (match gr.kind with
      | .stage q => if (mget s.queues q).bind (·.graph) = some n then some (q, g) else none
      | _ => none)
    | none => none)
/-- A stage workgroup of the graph waits to be placed. -/
def State.graphPending (s : State) (ctx n : Nat) : Bool :=
  (mvals s.gangs).any (fun g => g.stat == .pending && (match mget s.grids g.gid with
    | some gr => gr.ctx == ctx && (match gr.kind with
      | .stage q => (mget s.queues q).bind (·.graph) == some n
      | _ => false)
    | none => false))
/-- A warp waits in `QTAKE` since before the interval. -/
def State.takesSince (s : State) (wid start : Nat) : Bool :=
  match (s.warp wid).bind (·.frame) with
  | some f => f.waits.any (fun w => match w.2 with
    | .qtake _ _ _ _ t => decide (t ≤ start)
    | _ => false)
  | none => false
def Graph.putsRefused (g : Graph) (wid : Nat) : Bool := g.refused.contains wid && !g.accepted.contains wid
/-- Each warp of the workgroup was blocked throughout the interval. -/
def State.wgBlocked (s : State) (g : Graph) (w : Wg) : Bool := w.warps.all (fun i => s.takesSince i g.started || g.putsRefused i)

/-- The report area of outcome 10: one word per blocked queue, and a zero word. -/
def State.writeReport (s : State) (ctx : Nat) (g : Graph) (l : List (Nat × Wg)) : State × Nat :=
  let qs := l.foldl (fun (a : List Nat) p => sadd a p.1) []
  let word (q : Nat) : Nat :=
    let mine := l.filter (fun p => p.1 == q)
    (if mine.any (fun p => p.2.warps.any (fun i => s.takesSince i g.started)) then 2 ^ 31 else 0) +
      (if mine.any (fun p => p.2.warps.any g.putsRefused) then 2 ^ 30 else 0) + q
  let words := (qs.map word ++ [0]).take 1024
  (((List.range words.length).zip words).foldl (fun (s : State) p => s.galPut (some ctx) (g.report + 4 * p.1) 4 0 p.2) s, qs.length)

def State.reportGraph (s : State) (ctx n outcome words : Nat) : State :=
  s.post { ctx := ctx, w0 := recWord0 3 0 ctx 0 0 0 0 0, info := toWord (outcome * 2 ^ 62 + n * 2 ^ 56 + words), block := 0, handle := 0 }

/-- The full queue of smallest capacity. -/
def State.smallestFull (s : State) (g : Graph) : Option (Nat × Queue) :=
  match g.full.filterMap (fun q => (mget s.queues q).map (fun x => (q, x))) with
  | [] => none
  | x :: r => some (r.foldl (fun a y => if y.2.cap < a.2.cap then y else a) x)

/-- What the watchdog does at the end of an interval without progress. With records queued and no stage workgroup in flight, that every one
was blocked says nothing, and the model does nothing (DESIGN CHOICE, log entry 35). -/
def State.watchdog (s : State) (ctx n : Nat) (c : Ctx) (g : Graph) : State :=
  match s.smallestFull g with
  | some (q, x) =>
    if x.cap = 2 ^ 23 ∨ c.cfg.spillPool < c.spillUsed + 64 * x.cap then s.reportGraph ctx n 3 0
    else { s with queues := mset s.queues q { x with cap := 2 * x.cap, spill := true },
                  ctxs := mset s.ctxs ctx { c with spillUsed := c.spillUsed + 64 * x.cap } }
  | none =>
    let l := s.graphWgs ctx n
    let empty := (mvals s.queues).all (fun q => q.ctx != ctx || q.graph != some n || countRecs q.items == 0)
    if l.isEmpty && !s.graphPending ctx n && empty then
      (if g.quietTold then s else (s.reportGraph ctx n 1 0).updGraph ctx (some n) (fun g => { g with quietTold := true }))
    else if !l.isEmpty && !s.graphPending ctx n && l.all (fun p => s.wgBlocked g p.2) then
      let r := s.writeReport ctx g l
      r.1.reportGraph ctx n 2 r.2
    else s

/-- STAGE_WATCHDOG: an interval of a graph ends; intervals do not run while the context is saved. Only a report waits for room (R335). -/
def execStageWatchdog (ctx graph : Nat) (s : State) : Out :=
  match mget s.ctxs ctx with
  | none => .refused (.notEnabled "STAGE_WATCHDOG")
  | some c => match mget c.graphs graph with
    | none => .refused (.notEnabled "STAGE_WATCHDOG")
    | some g =>
      let t := if g.progress then s else s.watchdog ctx graph c g
      event s "STAGE_WATCHDOG" (!c.stopped && c.savedHalls.isEmpty && decide (4 * g.started + 5 * g.interval ≤ 4 * s.time)
          && s.postsFit t ctx)
        (t.updGraph ctx (some graph) (fun g =>
          { g with started := s.time, progress := false, full := [], refused := [], accepted := [] }))

end Sys2Proof.Machine
end

