-- ==== Sys2Proof/Machine/Recipe.lean ====
section
/-!
DEFINITION. Sys2Proof/Machine/Recipe.lean: recipe-backed tiles: the table's commands (R249 to R251, R283 to R289, R398),
slices and their check (R290 to R298), and Gallery eviction (R289).
-/
namespace Sys2Proof.Machine

/-! ## CRC-64 (R293) -/

/-- One byte of CRC-64/ECMA-182, most significant bit first. -/
def crcByte (c : BitVec 64) (b : BitVec 8) : BitVec 64 :=
  (List.range 8).foldl (fun (c : BitVec 64) _ => if c.getLsbD 63 then (c <<< 1) ^^^ 0x42F0E1EBA9EA3693#64 else c <<< 1) (c ^^^ (b.zeroExtend 64 <<< 56))
def crcLine (c : BitVec 64) (l : Line) : BitVec 64 := (List.range 128).foldl (fun c o => crcByte c (lineByte l o)) c
/-- CRC-64 of a staging copy of `n` lines. -/
def crcStaging (m : NMap Line) (n : Nat) : BitVec 64 := (List.range n).foldl (fun c k => crcLine c (mgetD m k 0)) 0

/-! ## Tile ranges and sources (R249, R285, R287) -/

def tileAddr (w : Word) : Nat := 4096 * fld w 56 12
def tileSize (w : Word) : Nat := 2 ^ (12 + fld w 3 0)
/-- A tile-range operand: its range, or the refusing cause. Where bits 63:57 and another field are both bad R249 does not say which counts: the
address does (DESIGN CHOICE, log entry 41). -/
def tileOperand (w : Word) : Except (BitVec 8) (Nat × Nat) :=
  if fld w 63 57 ≠ 0 then .error cPageProtection
  else if fld w 11 4 ≠ 0 ∨ 8 < fld w 3 0 ∨ tileAddr w % tileSize w ≠ 0 then .error cAlignment
  else .ok (tileAddr w, tileSize w)

/-- The status of a refused command. -/
def refusedStatus (code : Nat) : Word := toWord (2 ^ 63 + code)

/-- The address and size of a source descriptor. -/
def srcAddr (tile d : Nat) : Int := (tile : Int) + 4096 * sint (toWord (d % 2 ^ 27)) 27
def srcSize (d : Nat) : Nat := 2 ^ (12 + d / 2 ^ 27 % 16)
def srcPresent (d : Nat) : Bool := d / 2 ^ 31 % 2 == 1
/-- A descriptor that breaks R285 or R287. -/
def srcBad (tile size d : Nat) : Bool :=
  if srcPresent d then
    let a := srcAddr tile d
    let n := srcSize d
    decide (8 < d / 2 ^ 27 % 16) || decide (a < 0) || decide (2 ^ 57 < a + n) || a % n != 0 || overlaps a.toNat n tile size
  else d % 2 ^ 31 != 0

/-- The fields of an image (R284). -/
def imgFld (img : Rec64) (byte hi lo : Nat) : Nat := recFld img.toNat byte hi lo
def imgWord (img : Rec64) (byte : Nat) : Word := img.extractLsb' (8 * byte) 64
def imgSrcs (img : Rec64) : List Nat := (List.range 4).map (fun k => (img.extractLsb' (128 + 32 * k) 32).toNat)

/-- Test 5 of R398. -/
def imgBad (img : Rec64) : Bool :=
  let t := imgWord img 0
  fld t 63 57 != 0 || fld t 11 4 != 0 || decide (8 < fld t 3 0) || tileAddr t % tileSize t != 0 || decide (2 ^ 57 < tileAddr t + tileSize t) ||
    imgFld img 8 63 57 != 0 || imgFld img 8 3 0 != 0 || imgFld img 56 63 9 != 0 || imgFld img 56 7 0 != 0 ||
    (imgSrcs img).any (srcBad (tileAddr t) (tileSize t))

/-- The ranges of the present sources of an image; none for an absent one. -/
def imgRanges (img : Rec64) : List (Option (Nat × Nat)) :=
  (imgSrcs img).map (fun d => if srcPresent d then some ((srcAddr (tileAddr (imgWord img 0)) d).toNat, srcSize d) else none)

def inside (a n b m : Nat) : Bool := decide (b ≤ a) && decide (a + n ≤ b + m)
/-- The valid recipe whose tile holds a range whole. -/
def Ctx.recipeHolding (c : Ctx) (a n : Nat) : Option (Nat × Recipe) := c.recipes.find? (fun p => inside a n p.2.tile p.2.size)
/-- The distinct recipes whose tiles contain sources. -/
def Ctx.srcRecipes (c : Ctx) (l : List (Option (Nat × Nat))) : List Nat :=
  (l.filterMap (fun x => match x with
    | some (a, n) => (c.recipeHolding a n).map (·.1)
    | none => none)).foldl sadd []
/-- The level of a recipe with these sources (R287). -/
def Ctx.levelOf (c : Ctx) (l : List (Option (Nat × Nat))) : Nat :=
  (c.srcRecipes l).foldl (fun a i => max a (((mget c.recipes i).map (·.depth)).getD 0)) 0 + 1

/-! ## The memory of a tile -/

/-- The physical lines that a range of virtual memory maps to, with their key IDs. -/
def State.physLines (s : State) (ctx a n : Nat) : List (Nat × Nat) :=
  ((pagesOf a n).map (fun pg => match s.walk ctx (max a (pg * 65536)) with
    | .bad _ => []
    | .ok x _ =>
      let lo := max a (pg * 65536)
      let hi := min (a + n) (pg * 65536 + 65536)
      (List.range ((hi - lo) / 128)).map (fun i => (x.phys (lo + 128 * i) / 128, x.key)))).flatten

/-- A line of a tile that ends as a recipe reads as zero, wherever it lies (R250). -/
def State.zeroTileLine (s : State) (e : Env) (ln key : Nat) : State :=
  match s.physKind (128 * ln) with
  | .dev _ => (s.zeroLine (some e.w.ctx) ln key none).forgetEarly (· == ln)
  | .bad => s
  | _ => ((s.dropEverywhere ln).forgetEarly (· == ln)).globWrite (s.coreOf e.w)
      { tag := 0, wid := e.wid, copy := 0, ctx := e.w.ctx, pa := 128 * ln, data := 0, mask := BitVec.allOnes 128, pois := 0, va := 128 * ln, blk := e.f.blk.addr,
        slot := e.slot, lane := 0, level := e.w.depth, mode := 0, seq := s.seqOf e.w } key .disc

/-- PINNED of the source recipes changes by one. -/
def State.pinSources (s : State) (ctx : Nat) (l : List Nat) (up : Bool) : State :=
  l.foldl (fun (s : State) i => s.updRecipe ctx i (fun r => { r with pinned := if up then r.pinned + 1 else r.pinned - 1 })) s

/-! ## `RECDEF` (R250, R398) -/

/-- `RECDEF`: tests 1 and 2; the image is read through an access. -/
def execRecdef (pm : BitVec 2) (md : BitVec 3) (tb ta : BitVec 9) (s : State) : Out :=
  slotU s pm (fun _ => md == 7) (fun _ => false) 2 [ta, tb] false false (acqFirst (fun e s _ b _ =>
    if s.inSlice e.w then (s, .fail cRecipeFailed 0)
    else if md ≠ 0 ∧ !s.released (s.hallOf e.w) e.w.ctx md.toNat then (s, .hold)
    else s.readRecord e b 64 true))

/-- An index that names an entry of the table (R249). -/
def Ctx.index (c : Ctx) (a : Word) : Option Nat := if fld a 63 16 ≠ 0 ∨ c.cfg.recipeCount ≤ fld a 15 0 then none else some (fld a 15 0)

/-- Tests 3 to 8, and the installation. -/
def State.recdefWith (s : State) (ctx : Nat) (a : Word) (img : Rec64) : State × UOut :=
  match mget s.ctxs ctx with
  | none => (s, .done (refusedStatus 9))
  | some c => match c.index a with
    | none => (s, .done (refusedStatus 9))
    | some i =>
      let t := imgWord img 0
      let srcs := imgRanges img
      if (mget c.recipes i).isSome then (s, .done (refusedStatus 1))
      else if imgBad img then (s, .done (refusedStatus 2))
      else if c.pinnedAt (tileAddr t) (tileSize t) || c.recipeOver (tileAddr t) (tileSize t) then (s, .done (refusedStatus 3))
      else if srcs.any (fun x => match x with
          | some (a, n) => !(c.pins.any (fun p => inside a n p.1 p.2) || (c.recipeHolding a n).isSome)
          | none => false) then (s, .done (refusedStatus 4))
      else if 7 < c.levelOf srcs ∨ (c.srcRecipes srcs).any (fun j => ((mget c.recipes j).map (·.pinned)).getD 0 == 255) then
        (s, .done (refusedStatus 2))
      else
        let r : Recipe := { tile := tileAddr t, size := tileSize t, entry := 16 * imgFld img 8 56 4, srcs := srcs, param0 := imgWord img 32,
                            param1 := imgWord img 40, crc := imgWord img 48, mat := false, framed := false, run := false, depth := c.levelOf srcs,
                            pinned := 0, warps := imgFld img 56 8 8 + 1, img := img, present := [], bytes := [], pois := [], used := [] }
        let s1 := (s.physLines ctx r.tile r.size).foldl (fun (s : State) p => s.forgetLine p.1) s
        ((s1.setRecipe ctx i (some r)).pinSources ctx (c.srcRecipes srcs) true, .done 0)

/-! ## The other table commands (R250, R298) -/

/-- A command of the table: RECIPE_FAILED in a slice (R294). -/
def recCommand (k : Env → State → Ctx → Word → State × UOut) (e : Env) (s : State) (a _ _ : Word) : State × UOut :=
  if s.inSlice e.w then (s, .fail cRecipeFailed 0)
  else match mget s.ctxs e.w.ctx with
    | none => (s, .done (refusedStatus 9))
    | some c => k e s c a

/-- `RECPIN` (R250). Where two codes apply the spec does not say which is given: an overlap comes before a full pin table (DESIGN CHOICE, log entry
41). -/
def execRecpin (pm : BitVec 2) (tb ta : BitVec 9) (s : State) : Out :=
  slotU s pm (fun _ => false) (fun _ => false) 1 [ta, tb] false false (recCommand (fun e s c a =>
    match tileOperand a with
    | .error k => (s, .fail k a)
    | .ok r =>
      if c.recipeOver r.1 r.2 then (s, .done (refusedStatus 3))
      else if Config.pins ≤ c.pins.length then (s, .done (refusedStatus 6))
      else ({ s with ctxs := mset s.ctxs e.w.ctx { c with pins := c.pins ++ [r] } }, .done 0)))

/-- Removing a pin would leave a source of a valid recipe neither pinned nor in a recipe tile. -/
def Ctx.lastPin (c : Ctx) (rest : List (Nat × Nat)) : Bool :=
  c.recipes.any (fun p => p.2.srcs.any (fun x => match x with
    | some (a, n) => !(rest.any (fun q => inside a n q.1 q.2) || (c.recipeHolding a n).isSome)
    | none => false))

/-- `RECUNPIN` (R250). -/
def execRecunpin (pm : BitVec 2) (tb ta : BitVec 9) (s : State) : Out :=
  slotU s pm (fun _ => false) (fun _ => false) 1 [ta, tb] false false (recCommand (fun e s c a =>
    match tileOperand a with
    | .error k => (s, .fail k a)
    | .ok r =>
      if !c.pins.contains r then (s, .done (refusedStatus 7))
      else if c.lastPin (c.pins.erase r) then (s, .done (refusedStatus 8))
      else ({ s with ctxs := mset s.ctxs e.w.ctx { c with pins := c.pins.erase r } }, .done 0)))

/-- `RECDROP` (R250): the tile becomes ordinary memory that reads as zero. Where two codes apply the spec does not say which is given: that the tile
is a source comes before a running slice (DESIGN CHOICE, log entry 41). -/
def execRecdrop (pm : BitVec 2) (tb ta : BitVec 9) (s : State) : Out :=
  slotU s pm (fun _ => false) (fun _ => false) 1 [ta, tb] false false (recCommand (fun e s c a =>
    match (c.index a).bind (fun i => (mget c.recipes i).map (fun r => (i, r))) with
    | none => (s, .done (refusedStatus 9))
    | some (i, r) =>
      if r.pinned ≠ 0 then (s, .done (refusedStatus 10))
      else if r.run then (s, .done (refusedStatus 11))
      else
        let s1 := (s.setRecipe e.w.ctx i none).pinSources e.w.ctx (c.srcRecipes r.srcs) false
        ((s1.physLines e.w.ctx r.tile r.size).foldl (fun (s : State) p => s.zeroTileLine e p.1 p.2) s1, .done 0)))

/-- `RECMAT` (R250). -/
def execRecmat (pm : BitVec 2) (tb ta : BitVec 9) (s : State) : Out :=
  slotU s pm (fun _ => false) (fun _ => false) 1 [ta, tb] false false (recCommand (fun e s c a =>
    match (c.index a).bind (fun i => (mget c.recipes i).map (fun r => (i, r))) with
    | none => (s, .done (refusedStatus 9))
    | some (i, r) =>
      if (pagesOf r.tile r.size).any (fun pg => match s.walk e.w.ctx (max r.tile (pg * 65536)) with
          | .ok x _ => !x.w
          | .bad _ => true) then (s, .done (refusedStatus 12))
      else (s.setRecipe e.w.ctx i (some { r with framed := true, used := [] }), .done 0)))

/-! ## Slices (R291 to R293, R295) -/

/-- The misses on a recipe read their lines, which are present now: accesses, copies and instruction fetches (R290). -/
def State.retryMisses (s : State) (ctx idx : Nat) : State :=
  let line (a : Nat) : CLine := match (mget s.ctxs ctx).bind (fun c => mget c.recipes idx) with
    | some r => { ctx := ctx, data := mgetD r.bytes ((a - r.tile) / 128) 0, valid := 15, pois := mgetD r.pois ((a - r.tile) / 128) 0, stamp := 0 }
    | none => { ctx := ctx, data := 0, valid := 0, pois := 0, stamp := 0 }
  let mine (p : Nat × Access) : Bool := p.2.stat == .recipe idx && s.accCtx p.2 == ctx
  let hit (a : Nat) : Bool := match (mget s.ctxs ctx).bind (fun c => c.recipeAt a) with
    | some q => q.1 == idx
    | none => false
  let s1 := { s with
    warps := s.warps.map (fun p => (p.1, if p.2.ctx = ctx then { p.2 with fetch := p.2.fetch.pass hit line } else p.2)),
    cores := s.cores.map (fun p => (p.1, { p.2 with chans := p.2.chans.map (fun q => (q.1, match q.2.wait with
      | some (i, ln) => if q.2.ctx = ctx ∧ i = idx then { q.2 with wait := none, got := q.2.got ++ [(ln, (line (128 * ln)).data, (line (128 * ln)).pois)] } else q.2
      | none => q.2)) })) }
  (s.accs.filter mine).foldl (fun (s : State) p => s.issueLoad p.1 p.2) s1

/-- The slice's warps end without further effect, and the slice is gone. -/
def State.sliceClear (s : State) (x : Slice) : State :=
  x.wgs.foldl (fun (s : State) g => (match mget s.wgs g with
    | some y => y.warps.foldl (fun (s : State) w => s.warpEnd1 w) s
    | none => s)) { s with slices := s.slices.filter (fun y => !(y.ctx == x.ctx && y.idx == x.idx)) }

/-- The check of a slice all of whose warps are done (R293). -/
def State.sliceCheck (s : State) (x : Slice) : State :=
  match (mget s.ctxs x.ctx).bind (fun c => mget c.recipes x.idx) with
  | none => s.sliceClear x
  | some r =>
    let n := r.size / 128
    let crc := crcStaging x.staging n
    if (!r.mat && r.crc == 0) || crc == r.crc then
      let dropped := (List.range n).filter (fun k => !r.present.contains k)
      let r1 := { r with crc := crc, mat := true, run := false, present := List.range n,
                         bytes := dropped.foldl (fun m k => mset m k (mgetD x.staging k 0)) r.bytes,
                         used := if r.framed then [] else dropped.foldl (fun m k => mset m k s.tick) r.used }
      (((s.sliceClear x).setRecipe x.ctx x.idx (some r1)).retryMisses x.ctx x.idx).galTrim
    else s.sliceFail x cRecipeDiverged

/-- `RECDONE` (R251). -/
def execRecdone (pm : BitVec 2) (s : State) : Out :=
  slotU s pm (fun _ => false) (fun _ => false) 1 [] false false (fun e s a _ _ =>
    match s.sliceOf e.w.wg with
    | none => (s, .fail cRecipeFailed a)
    | some x =>
      if a.toNat ≠ x.idx then (s, .fail cRecipeFailed a)
      else if !s.released (s.hallOf e.w) e.w.ctx 4 then (s, .hold)
      else
        let x1 := { x with doneWids := sadd x.doneWids e.wid }
        let s1 := { s with slices := s.slices.map (fun y => if y.ctx = x.ctx ∧ y.idx = x.idx then x1 else y) }
        (if x1.wgs.length ≤ x1.doneWids.length then s1.sliceCheck x1 else s1, .quiet))

/-- The cores of a cluster whose reserve slot serves a band (R292). -/
def State.bandCores (s : State) (cluster band : Nat) : List Nat :=
  ((List.range (s.reserveOf cluster)).filter (fun i => i % 4 + 1 == band)).map (fun i => 8 * cluster + (7 - i))
/-- Those that hold no slice now. -/
def State.bandFree (s : State) (cluster band : Nat) : List Nat :=
  (s.bandCores cluster band).filter (fun k => !s.slices.any (fun x => x.wgs.any (fun g => ((mget s.wgs g).map (·.core)) == some k)))
/-- The clusters a slice prefers, in order. -/
def sliceClusters (x : Slice) : List Nat := x.cluster :: ((List.range 13).map (· + 13 * x.hall) ++ List.range 104)
/-- The cluster that a slice is placed on now. -/
def State.sliceCluster (s : State) (x : Slice) (warps : Nat) (saved : List Nat) : Option Nat :=
  (sliceClusters x).find? (fun c => decide (warps ≤ (s.bandFree c x.band).length) && !saved.contains (c / 13) && !(s.hall (c / 13)).fatal)
/-- Staging of a level in use (R293). -/
def State.stagingUsed (s : State) (band : Nat) : Nat :=
  (s.slices.filter (fun x => x.placed && x.band == band)).foldl (fun a x => a +
    (((mget s.ctxs x.ctx).bind (fun c => (mget c.recipes x.idx).map (·.size))).getD 0)) 0

def sliceLr (r : Recipe) : LaunchRec :=
  { entry := r.entry, gx := r.warps, gy := 1, gz := 1, hstore := 0, scratch := 0, tiles := 0, prio := 3, halls := 1, gang := 1, pairpl := false,
    width := 32, warps := 1, hsbase := 0, cbase := 0, banks := 0, dep0 := 0, dep1 := 0, notify := false, early := false, caddr := 0 }
/-- w0 to w7 of a slice warp (R291). -/
def sliceRegs (idx : Nat) (r : Recipe) : List (Nat × Word) :=
  [(0, r.param0), (1, r.param1), (2, toWord r.tile), (3, toWord idx)] ++
    ((List.range 4).zip r.srcs).map (fun p => (4 + p.1, match p.2 with
      | some (a, _) => toWord a
      | none => 0))

/-- The slice starts: one workgroup of one warp on each of its cores. -/
def State.sliceStart (s : State) (x : Slice) (r : Recipe) (cores : List Nat) : State :=
  let gid := s.nextId
  let g := { gridNew x.ctx 0 (.slice x.idx) (sliceLr r) 4 with eligible := true }
  let s1 := { s with nextId := gid + 1, grids := mset s.grids gid g }
  let p := ((List.range cores.length).zip cores).foldl (fun (a : State × List Nat) q =>
    let gang := a.1.nextId
    let s2 := { a.1 with nextId := gang + 1,
                         gangs := mset a.1.gangs gang { gangOf gid q.1 0 (hallOfCore q.2) a.1.time [] 0 4 with stat := .placed, cluster := q.2 / 8 } }
    (s2.startWg gang gid x.ctx q.1 0 q.2 0x10000 (sliceLr r) .user 4 WgMem.start false (sliceRegs x.idx r), a.2 ++ [s2.nextId])) (s1, [])
  let core := cores.headD 0
  let x1 := { x with placed := true, hall := hallOfCore core, cluster := core / 8, wgs := p.2 }
  ({ p.1 with slices := p.1.slices.map (fun y => if y.ctx = x.ctx ∧ y.idx = x.idx then x1 else y) } : State).galTrim

/-- RECIPE_SLICE_PLACE: the oldest queued slice of its band starts in reserve slots of one cluster, or fails at once where no
cluster of a hall that works has that many (R292). Each level uses the whole 32 MiB that R293 lets it have, the 1 MiB that is kept free
besides (DESIGN CHOICE, log entry 31). -/
def execRecipeSlicePlace (ctx idx : Nat) (s : State) : Out :=
  match s.slices.find? (fun x => x.ctx == ctx && x.idx == idx && !x.placed), (mget s.ctxs ctx).bind (fun c => (mget c.recipes idx).map (fun r => (c, r))) with
  | some x, some (c, r) =>
    if (List.range 104).all (fun k => (s.hall (k / 13)).fatal || decide ((s.bandCores k x.band).length < r.warps)) then ran s (s.sliceFail x cRecipeFailed)
    else (match s.sliceCluster x r.warps c.savedHalls with
      | some k =>
        event s "RECIPE_SLICE_PLACE" (s.slices.all (fun y => y.placed || y.band != x.band || decide (x.order ≤ y.order)) &&
            decide (s.stagingUsed x.band + r.size ≤ 32 * 2 ^ 20))
          (s.sliceStart x r ((s.bandFree k x.band).take r.warps))
      | none => .refused (.notEnabled "RECIPE_SLICE_PLACE"))
  | _, _ => .refused (.notEnabled "RECIPE_SLICE_PLACE")

/-! ## Eviction (R289, R304) -/

/-- A line of host memory that has come for a transaction is held until it has used it (R350). -/
def State.hostWanted (s : State) (ln : Nat) : Bool :=
  hostLine ln && s.halls.any (fun h => h.2.mods.any (fun m => ((m.2.chan true).accepted.head?).any (fun t => t.pa / 128 == ln)))
/-- GALLERY_EVICT: an ordinary line is written back and goes; halls keep their copies only where the line is not tracked
any more, so they are sent an invalidation; a line of a recipe tile is dropped, or written to its frame (R289). -/
def execGalleryEvict (line : Nat) (s : State) : Out :=
  match s.tileAt line with
  | some (ctx, i, k, key) =>
    let r := (mget s.ctxs ctx).bind (fun c => mget c.recipes i)
    ran s (match r with
      | some r =>
        if r.framed then s.frameWrite line key (mgetD r.bytes k 0) (mgetD r.pois k 0)
        else s.updRecipe ctx i (fun r => r.dropLine k)
      | none => s)
  | none =>
    match mget s.gal line with
    | some _ => event s "GALLERY_EVICT" (!s.hostWanted line) (s.galDrop line)
    | none => .refused (.notEnabled "GALLERY_EVICT")

end Sys2Proof.Machine
end

