-- ==== Sys2Proof/Machine/Launch.lean ====
section
/-!
DEFINITION. Sys2Proof/Machine/Launch.lean: grid launch, triggers and dependence (R186 to R189), the records that commands read
through an access, and the return of an access's data (R190).
-/
namespace Sys2Proof.Machine

/-! ## `LAUNCH`, `TRIG`, `DEPWAIT` -/

/-- `LAUNCH` (R186): the record is read through an access. The spec does not say whether R28's sentence on engine commands means `LAUNCH`: a
record in the hall store window is read from the hall store, as by a load (DESIGN CHOICE, log entry 41). -/
def execLaunch (pm : BitVec 2) (md : BitVec 3) (tb ta : BitVec 9) (s : State) : Out :=
  slotU s pm (fun _ => md == 7) (fun _ => false) 1 [ta, tb] false false (acqFirst (fun e s a _ _ =>
    if s.inSlice e.w then (s, .fail cRecipeFailed 0)
    else if md ≠ 0 ∧ !s.released (s.hallOf e.w) e.w.ctx md.toNat then (s, .hold)
    else s.readRecord e a 128 false))

/-- The value of `LAUNCH` (R187). -/
def State.launchWith (s : State) (ctx v scope : Nat) : State × UOut :=
  match s.acceptGrid ctx v scope with
  | (s1, .ok seq) => (s1, .done (toWord (seq % 2 ^ 63)))
  | (s1, .error k) => (s1, .done (refusedStatus k))

/-- A workgroup counts as triggered (R188). -/
def State.trigger (s : State) (wg : Nat) : State :=
  match mget s.wgs wg with
  | none => s
  | some g =>
    if g.triggered then s
    else { s with wgs := mset s.wgs wg { g with triggered := true }, grids := mupd s.grids g.gid (fun x => { x with triggered := sadd x.triggered g.num }) }

/-- `TRIG` (R188). -/
def execTrig (pm : BitVec 2) (s : State) : Out :=
  slotU s pm (fun _ => false) (fun _ => false) 0 [] false false (fun e s _ _ _ =>
    if s.inSlice e.w then (s, .fail cRecipeFailed 0)
    else if !s.released (s.hallOf e.w) e.w.ctx 4 then (s, .hold)
    else (s.trigger e.w.wg, .quiet))

/-- `DEPWAIT` (R189): it waits for DEPWAIT_END. -/
def execDepwait (pm : BitVec 2) (tb ta : BitVec 9) (s : State) : Out :=
  slotU s pm (fun _ => false) (fun _ => false) 0 [ta, tb] false false (fun e s _ _ _ =>
    if s.inSlice e.w then (s, .fail cRecipeFailed 0) else (s, .waits .dep))

/-- DEPWAIT_END: every predecessor has completed; the end acquires at device scope (R189). -/
def execDepwaitEnd (wid slot : Nat) (s : State) : Out :=
  match s.warp wid with
  | none => .refused (.notEnabled "DEPWAIT_END")
  | some w => match w.uWait slot with
    | some (fid, _, .dep) =>
      let core := s.coreOf w
      let free := match s.gridOf w with
        | some g => s.depsComplete w.ctx g.lr
        | none => true
      event s "DEPWAIT_END" (free && s.mayAcquire core 4) ((s.acquire wid 4).endWait wid fid slot (.done 0))
    | _ => .refused (.notEnabled "DEPWAIT_END")

/-! ## Records (R186, R246, R398) -/

/-- The command whose record has been read is performed; a binding record goes on to its template. -/
def State.recordDone (s : State) (aid : Nat) (a : Access) (step : Nat) (line : Line) : State :=
  match s.warp a.wid, s.fidFrame a.wid a.fid with
  | some w, some f =>
    let op := opOf (f.word a.slot)
    let x := f.opVal 0 a.slot a.lane
    let v := lineBytes line (a.va % 128) a.size
    let s1 := { s with accs := mdel s.accs aid }
    let fin (p : State × UOut) : State := p.1.waitOver a.wid a.fid a.slot p.2
    if op = 0x110 then fin (s1.launchWith w.ctx v (fMd (f.word a.slot)).toNat)
    else if op = 0x0E0 then fin (s1.recdefWith w.ctx x (BitVec.ofNat 512 v))
    else if step = 1 then fin (s1.bindWith w.ctx (fld x 9 0) a.b v)
    else
      let lrec := recFld v 0 63 0
      if bindRes0 v || lrec % 128 != 0 then fin (s1, .fail cSoftwareTrap 0xFFF)
      else if s1.recordOut w (baseLevel 0 0) (toWord lrec) 128 true then fin (s1, .fail cPageProtection (toWord lrec))
      else s1.begin { a with kind := .record 1 true, va := lrec, size := 128, b := toWord (recFld v 8 63 0), xl := [], stat := .walk 0, seen := 0 }
  | _, _ => { s with accs := mdel s.accs aid }

/-! ## Data returns (R190) -/

/-- An access that has waited for a tracker of its core goes on its way (R313). -/
def State.reissue (s : State) (aid : Nat) (a : Access) : State :=
  match a.kind with
  | .atomic aop w64 cas f32 _ => s.issueAtomic aid a aop w64 cas f32
  | .barrier c => s.issueBarrier aid a c
  | _ => s.issueLoad aid a
/-- ACCESS_RESPONSE: returned data reaches its lane, with check 6 (R190, R361). A load at device scope or wider completes once
its hall has applied the invalidations sent before its read (R306). For an access that waits for a tracker, a response to another access of its core
has freed one, and it goes (R313). -/
def execAccessResponse (aid : Nat) (s : State) : Out :=
  match mget s.accs aid with
  | none => .refused (.notEnabled "ACCESS_RESPONSE")
  | some a => match a.stat with
    | .got line pois =>
      let core := s.accCore a
      event s "ACCESS_RESPONSE" (!scopeDev a.scope || s.invsApplied (hallOfCore core) a.seen)
        (match a.kind with
         | .load md =>
           let raw := lineBytes line (a.pieceVa % 128) a.pieceLen
           if a.straddles && !a.c.getLsbD 0 then s.issueLoad aid { a with b := toWord raw, c := if pois then 3 else 1 }
           else if a.straddles then s.loadDone aid a md (a.b.toNat + raw * 2 ^ 32) (pois || a.c.getLsbD 1)
           else s.loadDone aid a md raw pois
         | .atomic _ _ _ _ _ =>
           if pois then s.accPoison aid a cMemoryPoison a.va
           else
             let s1 := (s.acquire a.wid a.scope).deliverTo a.wid a.fid a.slot a.lane (.value (toWord (lineBytes line 0 a.size))) s.stamp true true
             { s1 with accs := mdel s1.accs aid }
         | .barrier c => s.barDone aid a c line
         | .record step _ => if pois then s.accPoison aid a cMemoryPoison a.va else s.recordDone aid a step line
         | .store _ => s)
    | .queued => event s "ACCESS_RESPONSE" (s.coreFree (s.accCore a) aid) (s.reissue aid a)
    | _ => .refused (.notEnabled "ACCESS_RESPONSE")

end Sys2Proof.Machine
end

