-- ==== Sys2Proof/Machine/Copy.lean ====
section
/-!
DEFINITION. Sys2Proof/Machine/Copy.lean: the copy engine (R220 to R225, R387).
-/
namespace Sys2Proof.Machine

/-! ## The two ranges of a copy (R220, R221) -/

/-- The side of a copy: global, or bytes of a space up to a limit, at `base` below the address. -/
inductive CSide where
  | glob
  | mem (sp : Space) (base limit : Nat)
  /-- an address that no space holds -/
  | none
  deriving DecidableEq, Repr

/-- Scratch as a copy addresses it; the follower's too in the levels of R275. -/
def State.sideScr (s : State) (w : Warp) (lv : Level) (a : Nat) : CSide :=
  let of (wg base : Nat) : CSide := match mget s.wgs wg with
    | some g => .mem (.scratch wg) base (base + g.size)
    | .none => .none
  if lv.pairReach ∧ a / 2 ^ 22 = 1 then (match s.followerOf w.wg with
    | some f => of f (2 ^ 22)
    | .none => .none)
  else of w.wg 0
def State.sideTile (s : State) (w : Warp) (lv : Level) (a : Nat) : CSide :=
  let of (wg base : Nat) : CSide := match mget s.wgs wg with
    | some g => .mem (.tile wg) base (base + 16384 * g.tiles)
    | .none => .none
  if lv.pairReach ∧ a / 2 ^ 18 = 1 then (match s.followerOf w.wg with
    | some f => of f (2 ^ 18)
    | .none => .none)
  else of w.wg 0
/-- The cluster window of R26. -/
def State.sideWin (s : State) (w : Warp) (a : Word) : CSide :=
  match s.locate w (handlerLevel .base 0 0 Window.empty) .win a 1 with
  | .ok (.scratch t, _) => let base := a.toNat / 2 ^ 22 * 2 ^ 22
                           .mem (.scratch t) base (base + ((mget s.wgs t).map (·.size)).getD 0)
  | _ => .none

def dirSrc (dir : Nat) : Form := if dir = 0 ∨ dir = 4 then .glob else if dir = 3 ∨ dir = 5 then .tile else .scr
def dirDst (dir : Nat) : Form := if dir = 1 ∨ dir = 5 then .glob else if dir = 2 ∨ dir = 4 then .tile else if dir = 6 then .win else .scr
def State.side (s : State) (w : Warp) (lv : Level) (f : Form) (a : Word) : CSide :=
  match f with
  | .glob => .glob
  | .scr => s.sideScr w lv a.toNat
  | .tile => s.sideTile w lv a.toNat
  | .win => s.sideWin w a

/-- The lowest byte of a range at or above `hi`: rows rise. -/
def firstBeyond (start rows rb stride hi : Nat) : Option Nat :=
  ((List.range rows).find? (fun r => decide (hi < start + r * stride + rb))).map (fun r => max (start + r * stride) hi)
/-- Check 3 on one side: the lowest byte outside its space. -/
def CSide.beyond (c : CSide) (start rows rb stride : Nat) : Option Nat :=
  match c with
  | .glob => firstBeyond start rows rb stride (2 ^ 57)
  | .mem _ base limit => if start < base then some start else firstBeyond start rows rb stride limit
  | .none => some start

/-- The pages of a range of rows, lowest first, each with its lowest byte. -/
def rowPages (start rows rb stride : Nat) : List (Nat × Nat) :=
  ((List.range rows).foldl (fun (a : List (Nat × Nat)) r =>
    let lo := start + r * stride
    (pagesOf lo rb).foldl (fun a pg => if (match a.head? with
        | some x => decide (x.1 < pg)
        | .none => true) then (pg, max lo (pg * 65536)) :: a else a) a) []).reverse

/-- Check 4 on one side: its translations, and the first failure. -/
def State.rowXlat (s : State) (core ctx : Nat) (ps : List (Nat × Nat)) : State × List Xlat × Option (BitVec 8 × Nat) :=
  ps.foldl (fun (a : State × List Xlat × Option (BitVec 8 × Nat)) p =>
    match a.1.xlatNow core ctx p.2 with
    | (s1, .ok x) => (s1, a.2.1 ++ [x], a.2.2)
    | (s1, .error c) => (s1, a.2.1, match a.2.2 with
      | .none => some (c, p.2)
      | some e => some e)) (s, [], .none)
/-- Check 5 on one side: the lowest byte of the first page that forbids the access. -/
def State.rowForbid (s : State) (xs : List Xlat) (ctx : Nat) (ps : List (Nat × Nat)) (need : Need) : Option Nat :=
  (ps.find? (fun p => match xs.find? (fun x => xlatCovers x ctx p.2) with
    | some x => !s.pageOk x need p.2
    | .none => true)).map (·.2)
/-- Check 6: the lowest byte of the rows that is pinned or lies in a valid recipe tile. -/
def State.rowImmutable (s : State) (ctx start rows rb stride : Nat) : Option Nat :=
  match mget s.ctxs ctx with
  | .none => .none
  | some c =>
    let bad := c.pins ++ (mvals c.recipes).map (fun r => (r.tile, r.size))
    let hits := ((List.range rows).map (fun r => bad.filterMap (fun b =>
      if overlaps (start + r * stride) rb b.1 b.2 then some (max (start + r * stride) b.1) else .none))).flatten
    match hits with
    | [] => .none
    | x :: r => some (r.foldl min x)

/-! ## The command (R220 to R223) -/

/-- The shape word (R221). -/
structure Shape where
  scope : Nat
  acq : Bool
  rel : Bool
  cmpl : Nat
  bar : Nat
  rows : Nat
  rb : Nat
  ss : Nat
  ds : Nat
  res0 : Bool
  deriving DecidableEq, Repr

def shapeOf (c : Word) : Shape :=
  let rb := 16 * (fld c 36 27 + 1)
  { scope := fld c 63 61, acq := c.getLsbD 60, rel := c.getLsbD 59, cmpl := fld c 58 57, bar := fld c 56 49, rows := fld c 48 37 + 1, rb := rb,
    ss := if fld c 26 14 = 0 then rb else 16 * fld c 26 14, ds := if fld c 13 1 = 0 then rb else 16 * fld c 13 1, res0 := c.getLsbD 0 }

/-- The lowest free channel of a core's eight. -/
def Core.freeChan (c : Core) : Option Nat := (List.range 8).find? (fun i => (mget c.chans i).isNone)

def CSide.wgOr (c : CSide) (wg : Nat) : Nat :=
  match c with
  | .mem (.scratch g) _ _ => g
  | .mem (.tile g) _ _ => g
  | _ => wg
def CSide.base (c : CSide) : Nat :=
  match c with
  | .mem _ b _ => b
  | _ => 0

/-- The checks of R222 in order; then the copy is accepted into channel `ch`. -/
def copyAccept (dir : Nat) (ch : Nat) (e : Env) (s : State) (a b c : Word) : State × UOut :=
  let sh := shapeOf c
  let core := s.coreOf e.w
  let src := s.side e.w e.lv (dirSrc dir) a
  let dst := s.side e.w e.lv (dirDst dir) b
  let own := ((mget s.wgs e.w.wg).map (·.size)).getD 0
  let cause (f : Form) : BitVec 8 := outCause f
  if sh.scope = 7 ∨ sh.cmpl = 3 ∨ sh.res0 = true ∨ (sh.cmpl = 1 ∧ dirDst dir ≠ .scr ∧ dirDst dir ≠ .win) then (s, .fail cAlignment c)
  else if a.toNat % 16 ≠ 0 then (s, .fail cAlignment a)
  else if b.toNat % 16 ≠ 0 then (s, .fail cAlignment b)
  else match src.beyond a.toNat sh.rows sh.rb sh.ss with
  | some x => (s, .fail (cause (dirSrc dir)) (toWord x))
  | .none => match dst.beyond b.toNat sh.rows sh.rb sh.ds with
  | some x => (s, .fail (cause (dirDst dir)) (toWord x))
  | .none =>
    if sh.cmpl = 2 ∧ own < 16 * sh.bar + 16 then (s, .fail cScratchRange (toWord (16 * sh.bar)))
    else
      let sp := if src = .glob then rowPages a.toNat sh.rows sh.rb sh.ss else []
      let dp := if dst = .glob then rowPages b.toNat sh.rows sh.rb sh.ds else []
      if !((sp ++ dp).all (fun p => s.walkClear core e.w.ctx p.2 1)) then (s, .hold)
      else
      let r1 := s.rowXlat core e.w.ctx sp
      let r2 := r1.1.rowXlat core e.w.ctx dp
      let s2 := r2.1
      match r1.2.2, r2.2.2 with
      | some (k, x), _ => (s2, .fail k (toWord x))
      | .none, some (k, x) => (s2, .fail k (toWord x))
      | .none, .none =>
        match s2.rowForbid r1.2.1 e.w.ctx sp .rd, s2.rowForbid r2.2.1 e.w.ctx dp .wr with
        | some x, _ => (s2, .fail cPageProtection (toWord x))
        | .none, some x => (s2, .fail cPageProtection (toWord x))
        | .none, .none =>
          match (if dst = .glob then s2.rowImmutable e.w.ctx b.toNat sh.rows sh.rb sh.ds else .none) with
          | some x => (s2, .fail cRecipePinnedWrite (toWord x))
          | .none =>
            let q : Copy := { wid := e.wid, wg := e.w.wg, ctx := e.w.ctx, dir := dir, src := a.toNat - src.base, dst := b.toNat - dst.base,
                              srcWg := src.wgOr e.w.wg, dstWg := dst.wgOr e.w.wg, scope := sh.scope, acq := sh.acq, rel := sh.rel, cmpl := sh.cmpl,
                              bar := sh.bar, rows := sh.rows, rowBytes := sh.rb, sstr := sh.ss, dstr := sh.ds, srcX := r1.2.1, dstX := r2.2.1,
                              beat := 0, wait := .none, failed := [], asked := [], got := [], fixed := false, dep := e.f.opDep e.slot 3 (leaderOf e.f.mask), id := s2.nextId }
            (({ s2 with nextId := s2.nextId + 1 } : State).updCore core (fun k => { k with chans := mset k.chans ch q }), .quiet)

/-- `CPY` performed: it waits while every channel is taken (R218). -/
def copyPerform (dir : Nat) (e : Env) (s : State) (a b c : Word) : State × UOut :=
  if s.inSlice e.w then (s, .fail cRecipeFailed 0)
  else match (s.core (s.coreOf e.w)).freeChan with
    | .none => (s, .waits .space)
    | some ch => copyAccept dir ch e s a b c

/-- `CPY` (R220). -/
def execCpy (pm : BitVec 2) (md : BitVec 3) (s : State) : Out :=
  slotU s pm (fun _ => md == 7) (fun _ => false) 3 [] false false (acqFirst (copyPerform md.toNat))

/-! ## Beats (R223, R225, R387) -/

def Copy.beatsPerRow (q : Copy) : Nat := (q.rowBytes + 31) / 32
def Copy.beats (q : Copy) : Nat := q.rows * q.beatsPerRow
def Copy.row (q : Copy) : Nat := q.beat / q.beatsPerRow
def Copy.off (q : Copy) : Nat := 32 * (q.beat % q.beatsPerRow)
def Copy.srcAt (q : Copy) : Nat := q.src + q.row * q.sstr + q.off
def Copy.dstAt (q : Copy) : Nat := q.dst + q.row * q.dstr + q.off
/-- The 16-byte pieces of the next beat. -/
def Copy.pieces (q : Copy) : Nat := min 2 ((q.rowBytes - q.off) / 16)

/-- What a read of a 16-byte piece of a global source finds. -/
inductive Piece where
  | data (v : Nat) (pois : Bool)
  | miss (idx line : Nat)
  | ask (pa key : Nat)
  deriving DecidableEq, Repr

/-- Where a piece of a copy lies: by the translation found at acceptance; or, where the tables have changed since and the page they
now give may be used so, by either of the two (R222). -/
def State.copyPhys (s : State) (q : Copy) (xs : List Xlat) (need : Need) (va : Nat) : Option (Nat × Nat) :=
  if q.fixed = false ∧ Config.retranslated s.tick va = true then
    (match s.walk q.ctx va with
     | .ok x _ => if s.pageOk x need va then some (x.phys va, x.key) else physIn xs va
     | .bad _ => physIn xs va)
  else physIn xs va

/-- A piece of global memory as the copy's hall sees it: a copy in the hall cache that is not older than what the copy's operands derive from
(R261), else the line that its own request brought (log entry 17). -/
def State.copyGlob (s : State) (core : Nat) (q : Copy) (va : Nat) : State × Piece :=
  let h := hallOfCore core
  if q.failed.contains (va / 128) then (s, .data 0 true)
  else match s.recRead q.ctx q.wg va with
  | .line l p => (s.recTouch q.ctx va, .data (lineBytes l (va % 128) 16) (p &&& sectTouched (byteMask (va % 128) 16) != 0))
  | .refused _ => (s, .data 0 true)
  | .miss i => (match q.got.find? (fun g => g.1 == va / 128) with
    | some g => (s, .data (lineBytes g.2.1 (va % 128) 16) (g.2.2 &&& sectTouched (byteMask (va % 128) 16) != 0))
    | .none => (s, .miss i (va / 128)))
  | .plain =>
    match s.copyPhys q q.srcX .rd va with
    | .none => (s, .data 0 true)
    | some (pa, key) =>
      let sect := sectTouched (byteMask (pa % 128) 16)
      let away : Piece := match q.got.find? (fun g => g.1 == va / 128) with
        | some g => .data (lineBytes g.2.1 (va % 128) 16) (g.2.2 &&& sect != 0)
        | .none => .ask pa key
      match s.home pa with
      | .dev p => (match s.hallHit h (p / 128) sect q.dep with
        | some c => (s, .data (lineBytes c.data (pa % 128) 16) (c.pois &&& sect != 0))
        | .none => (s, away))
      | .bad => (s, .data 0 true)
      | _ => (s, away)

/-- A piece of the source: 16 bytes, and which of its four 4-byte elements are marked. -/
def State.copyRead (s : State) (core : Nat) (q : Copy) (va : Nat) : State × (Piece × List Bool) :=
  match dirSrc q.dir with
  | .glob => let r := s.copyGlob core q va
             (r.1, r.2, match r.2 with
               | .data _ p => [p, p, p, p]
               | _ => [])
  | .tile => let m := s.memOf q.srcWg; (s, .data (m.tile va 16) false, (List.range 4).map (fun i => m.tilePois (va + 4 * i) 4))
  | _ => let m := s.memOf q.srcWg; (s, .data (m.scr va 16) false, (List.range 4).map (fun i => m.scrPois (va + 4 * i) 4))

/-- Writes `n` bytes of a copy to a global line. -/
def State.copyPut (s : State) (core : Nat) (q : Copy) (da n v pa key : Nat) (bad : Bool) : State :=
  let m := byteMask (pa % 128) n
  let p : PendW := { tag := 0, wid := q.wid, copy := q.id, ctx := q.ctx, pa := pa, data := placeAt v (pa % 128), mask := m,
                     pois := if bad then sectTouched m else 0, va := da, blk := 0, slot := 0, lane := 0, level := 0, mode := 0,
                     seq := (((mget s.wgs q.wg).bind (fun g => mget s.grids g.gid)).map (·.seq)).getD 0 }
  (s.updCore core (fun c => { c with l1 := mdel c.l1 (pa / 128) })).globWrite core p key .store
/-- The beat writes one whole sector of global memory: its two pieces are one write, so that a mark it covers is cleared (R360). -/
def State.copyWhole (s : State) (core : Nat) (q : Copy) (ps : List (Nat × List Bool)) : Option State :=
  match ps with
  | [(v0, m0), (v1, m1)] =>
    if dirDst q.dir = .glob ∧ q.dstAt % 32 = 0 then
      (match s.copyPhys q q.dstX .wr q.dstAt, s.copyPhys q q.dstX .wr (q.dstAt + 16) with
       | some (pa, key), some (pb, kb) =>
         if pb = pa + 16 ∧ kb = key then some (s.copyPut core q q.dstAt 32 (v0 + v1 * 2 ^ 128) pa key ((m0 ++ m1).any id)) else .none
       | _, _ => .none)
    else .none
  | _ => .none

/-- The scratch words and tile elements that a beat of a copy marks (R361, R366). -/
def State.markNoted (s : State) (q : Copy) (da : Nat) (bad : List Nat) : State :=
  match mget s.wgs q.dstWg with
    | some g => bad.foldl (fun (s : State) i => s.noteCore g.core 0x0002 (some q.ctx) (toWord (da + 4 * i))) s
    | .none => s

/-- No later row of the copy reaches the granule at `da` of a row. -/
def Copy.lastAt (q : Copy) (row da : Nat) : Bool := !(decide (row + 1 < q.rows) && decide (q.dst + (row + 1) * q.dstr ≤ da))
/-- The copy's completion signal waits for its release (R224): a full bit, like a barrier's count, then follows its last write (R257, R260). -/
def Copy.releases (q : Copy) : Bool := q.rel && q.scope != 0
/-- A piece of the destination is written: its units lose their marks where they are covered, and take those of the bytes
they receive (R361); with full-empty marking the granule becomes full at the copy's last write to it, unless the copy releases. -/
def State.copyWrite (s : State) (core : Nat) (q : Copy) (da v : Nat) (marks : List Bool) : State :=
  let bad := (List.range 4).filter (fun i => marks.getD i false)
  match dirDst q.dir with
  | .glob =>
    (match s.copyPhys q q.dstX .wr da with
     | .none => s
     | some (pa, key) => s.copyPut core q da 16 v pa key (!bad.isEmpty))
  | .tile => (s.updMem q.dstWg (fun m => bad.foldl (fun m i => m.tileMark (da + 4 * i) 4) (m.tilePut da 16 v))).markNoted q da bad
  | _ =>
    let fills := q.cmpl == 1 && !q.releases && q.lastAt q.row da
    ((if fills then s.feSettleRange q.dstWg da 16 else s).updMem q.dstWg (fun m =>
      let m1 := bad.foldl (fun (m : WgMem) i => m.scrMark (da + 4 * i) 4) (m.scrPut da 16 v)
      if fills then m1.fill da 16 else m1)).markNoted q da bad

def State.setChan (s : State) (core ch : Nat) (q : Copy) : State := s.updCore core (fun k => { k with chans := mset k.chans ch q })

/-- The copy has asked for a line. -/
def State.copyAsked (s : State) (core : Nat) (q : Copy) (va : Nat) : Bool :=
  q.asked.any (fun x => x.2 == va / 128) || (s.hall (hallOfCore core)).reads.any (fun r => r.who == .copy q.id (va / 128))
/-- Asks for a line that the copy's hall does not hold: of its home, of host memory or of another package. -/
def State.copyAsk (s : State) (core ch : Nat) (q : Copy) (va pa key : Nat) : State :=
  let h := hallOfCore core
  let m : HMsg := { kind := .load, src := fld s.domain 9 0, dst := 0, tag := 0, ctx := q.ctx, key := key, pa := 0, size := 128, aop := 0,
                    acas := false, af32 := false, data := 0, mask := BitVec.allOnes 128, poisoned := false }
  let s1 := s.setChan core ch { q with asked := q.asked ++ [(s.nextId, va / 128)] }
  match s.home pa with
  | .dev p => s.hallAsk h q.ctx (p / 128) key (.copy q.id (va / 128))
  | .host off => s1.sendOut { m with pa := off / 128 * 128 } true .none q.id h 0
  | .remote pk off => s1.sendOut { m with dst := pk, pa := off / 128 * 128 } false .none q.id h 0
  | .bad => s

/-- COPY_BEAT: a 32-byte beat in row order; where a source line is missing, the copy asks for it and waits (R290). -/
def execCopyBeat (core ch : Nat) (s : State) : Out :=
  match mget (s.core core).chans ch with
  | .none => .refused (.notEnabled "COPY_BEAT")
  | some q =>
    let ok := decide (q.beat < q.beats) && q.wait.isNone && (!q.acq || decide (q.beat ≠ 0) || s.mayAcquire core q.scope)
    let rs := (List.range q.pieces).foldl (fun (a : State × List (Piece × List Bool)) i =>
      let r := a.1.copyRead core q (q.srcAt + 16 * i); (r.1, a.2 ++ [r.2])) (s, [])
    let blocked := ((List.range q.pieces).zip rs.2).find? (fun x => match x.2.1 with
      | .data _ _ => false
      | _ => true)
    let mayAsk := match blocked with
      | some (i, (.ask _ _, _)) => !s.copyAsked core q (q.srcAt + 16 * i) && s.coreNext core
      | _ => true
    let vals := rs.2.filterMap (fun x => match x.1 with
      | .data v _ => some (v, x.2)
      | _ => .none)
    event s "COPY_BEAT" (ok && mayAsk) (match blocked with
      | some (_, (.miss idx ln, _)) => (rs.1.setChan core ch { q with wait := some (idx, ln) }).spawnSlice q.ctx idx core
      | some (i, (.ask pa key, _)) => rs.1.copyAsk core ch q (q.srcAt + 16 * i) pa key
      | _ =>
        let s2 := (rs.1.copyWhole core q vals).getD (((List.range q.pieces).zip vals).foldl (fun (s : State) x =>
          s.copyWrite core q (q.dstAt + 16 * x.1) x.2.1 x.2.2) rs.1)
        s2.setChan core ch { q with beat := q.beat + 1, got := [] })

/-- The copy's own writes are performed at its scope (R224). -/
def State.copyReleased (s : State) (core : Nat) (q : Copy) : Bool :=
  if !q.rel || q.scope < 4 then true
  else (s.hall (hallOfCore core)).pend.all (fun p => p.copy != q.id || (decide (q.scope < 5) && (match s.physKind p.pa with
    | .dev _ => false
    | _ => true)))

/-- The full bits that a releasing copy has held back: each granule of its destination once. -/
def State.copyFills (s : State) (q : Copy) : State :=
  if q.cmpl = 1 ∧ q.releases = true then
    (List.range q.rows).foldl (fun (s : State) r => (List.range (q.rowBytes / 16)).foldl (fun (s : State) i =>
      let da := q.dst + r * q.dstr + 16 * i
      if q.lastAt r da then (s.feSettleRange q.dstWg da 16).updMem q.dstWg (fun m => m.fill da 16) else s) s) s
  else s

/-- COPY_COMPLETE: every row is written; the release, if any, is performed; the granules of a releasing copy become full, and the barrier object counts the
copy (R223, R181). -/
def execCopyComplete (core ch : Nat) (s : State) : Out :=
  match mget (s.core core).chans ch with
  | .none => .refused (.notEnabled "COPY_COMPLETE")
  | some q =>
    event s "COPY_COMPLETE" (decide (q.beat = q.beats) && s.copyReleased core q)
      (let s1 := (s.copyFills q).updCore core (fun c => { c with chans := mdel c.chans ch })
       let v := (s.memOf q.wg).scr (16 * q.bar) 16
       let o := (bobjOf v).copyDone
       let s2 := if q.cmpl = 2 ∧ (bobjOf v).st = 1 then
           (s1.barSettle (fun _ => false) (.space (.scratch q.wg) (16 * q.bar)) o).updMem q.wg (fun m => m.scrPut (16 * q.bar) 16 (bobjBytes o v))
         else s1
       ((s2.reap q.wg).reap q.srcWg).reap q.dstWg)

end Sys2Proof.Machine
end

