-- ==== Sys2Proof/Machine/Special.lean ====
section
/-!
DEFINITION. Sys2Proof/Machine/Special.lean: `RCP` to `TANH` (R161, R162). The exact real value is computed to several
hundred fractional bits in integers, rounded towards zero to 32 significant bits, and then by rnd32 (log entry 23).
-/
namespace Sys2Proof.Machine

/-- Fractional bits of the fixed-point values below. -/
def fxP : Nat := 700
def fx1 : Nat := 2 ^ fxP

/-- Σ z^(2k+1)/(2k+1) with alternating (`alt`) or equal signs: atan or atanh of z in fixed point; `t` is z^(2k+1). -/
def atanGo (alt : Bool) (z2 : Nat) : Nat → Nat → Int → Nat → Int
  | 0, _, acc, _ => acc
  | n + 1, t, acc, k =>
    atanGo alt z2 n (t * z2 / fx1) (if alt && k % 2 == 1 then acc - (t / (2 * k + 1) : Nat) else acc + (t / (2 * k + 1) : Nat)) (k + 1)
def atanFx (alt : Bool) (z : Nat) : Int := atanGo alt (z * z / fx1) 460 z 0 0
/-- ln 2 = 2·atanh(1/3). -/
def ln2Fx : Nat := (2 * atanFx false (fx1 / 3)).toNat
/-- π = 16·atan(1/5) − 4·atan(1/239). -/
def piFx : Nat := (16 * atanFx true (fx1 / 5) - 4 * atanFx true (fx1 / 239)).toNat

/-- Σ y^k/k! with alternating or equal signs; `t` is the k-th term. -/
def expGo (alt : Bool) (y : Nat) : Nat → Nat → Int → Nat → Int
  | 0, _, acc, _ => acc
  | n + 1, t, acc, k => expGo alt y n (t * y / fx1 / (k + 1)) (if alt && k % 2 == 1 then acc - (t : Nat) else acc + (t : Nat)) (k + 1)
/-- e^y for 0 ≤ y < 1. -/
def expFx (y : Nat) : Nat := (expGo false y 170 fx1 0 0).toNat
/-- `n` squarings. -/
def sqrGo : Nat → Nat → Nat
  | 0, v => v
  | n + 1, v => sqrGo n (v * v / fx1)
/-- e^(−y) for y < 256, as (e^(−y/1024))^1024. -/
def expNegFx (y : Nat) : Nat := sqrGo 10 (expGo true (y / 1024) 170 fx1 0 0).toNat

/-- Σ (−1)^k r^(2k+o)/(2k+o)!: cosine for o = 0, sine for o = 1; `t` is the k-th term. -/
def trigGo (r2 o : Nat) : Nat → Nat → Int → Nat → Int
  | 0, _, acc, _ => acc
  | n + 1, t, acc, k =>
    trigGo r2 o n (t * r2 / fx1 / ((2 * k + o + 1) * (2 * k + o + 2))) (if k % 2 == 1 then acc - (t : Nat) else acc + (t : Nat)) (k + 1)
def sinFx (r : Nat) : Nat := (trigGo (r * r / fx1) 1 90 r 0 0).toNat
def cosFx (r : Nat) : Nat := (trigGo (r * r / fx1) 0 90 fx1 0 0).toNat

/-- m·2^e in fixed point (e at least −700). -/
def toFx (m : Nat) (e : Int) : Nat := m * 2 ^ (e + fxP).toNat

/-- A positive value v·2^e rounded towards zero to 32 significant bits (R161). -/
def trunc32 (neg : Bool) (v : Nat) (e : Int) : FV :=
  let d := v.log2 - 31
  .fin neg (v / 2 ^ d) (e + d) false

def fxv (neg : Bool) (v : Nat) : FV := if v = 0 then .fin neg 0 0 false else trunc32 neg v (-(fxP : Int))

/-- The seven functions. -/
inductive SF where
  | rcp | rsq | exp2 | log2 | sin | cos | tanh
  deriving DecidableEq, Repr

/-- 2^x for x = ±m·2^e. -/
def exp2v (neg : Bool) (m : Nat) (e : Int) : FV :=
  if 0 ≤ e + m.log2 - 9 then (if neg then .fin false 1 (-4096) false else .fin false 1 4096 false)
  else
    let x := toFx m e
    let n : Int := (x / fx1 : Nat)
    let r := x % fx1
    if r = 0 then .fin false 1 (if neg then -n else n) false
    else if neg then trunc32 false (expFx ((fx1 - r) * ln2Fx / fx1)) (-n - 1 - fxP)
    else trunc32 false (expFx (r * ln2Fx / fx1)) (n - fxP)

/-- log2 of a positive m·2^e: a significand in [3/4, 3/2) and its power of two. -/
def log2v (m : Nat) (e : Int) : FV :=
  let l := m.log2
  if m = 2 ^ l then FV.ofInt (e + l)
  else
    let big := decide (3 * 2 ^ l < 2 * m)
    let k : Int := e + l + (if big then 1 else 0)
    let s := m * fx1 / 2 ^ (if big then l + 1 else l)
    let z := (if fx1 ≤ s then s - fx1 else fx1 - s) * fx1 / (s + fx1)
    let lg := 2 * atanFx false z * fx1 / ln2Fx
    let t : Int := k * fx1 + (if fx1 ≤ s then lg else -lg)
    fxv (decide (t < 0)) t.natAbs

/-- sin and cos of m·2^e ≥ 0, reduced by multiples of π/2: (sine, cosine) with signs. -/
def sincos (m : Nat) (e : Int) : (Bool × Nat) × (Bool × Nat) :=
  let x := toFx m e
  let half := piFx / 2
  let k := (2 * x / half + 1) / 2
  let d : Int := (x : Int) - (2 * k * piFx / 4 : Nat)
  let r := d.natAbs
  let sn := (decide (d < 0), sinFx r)
  let cs := (false, cosFx r)
  let ng (p : Bool × Nat) : Bool × Nat := (!p.1, p.2)
  match k % 4 with
  | 0 => (sn, cs)
  | 1 => (cs, ng sn)
  | 2 => (ng sn, ng cs)
  | _ => (ng cs, sn)

/-- tanh of m·2^e > 0. -/
def tanhv (m : Nat) (e : Int) : Nat :=
  if 7 ≤ e + m.log2 then fx1 - 1
  else
    let q := expNegFx (2 * toFx m e)
    (fx1 - q) * fx1 / (fx1 + q)

/-- The FP32 result of a special function (R161, R162). -/
def special (g : SF) (md : BitVec 3) (a : Word) : Word :=
  let ftz := ftzR md
  let out (x : FV) : Word := toWord (fp32.rnd x .rne ftz)
  let one : FV := .fin false 1 0 false
  let zero (s : Bool) : FV := .fin s 0 0 false
  out (match f32v md (lo32 a) with
    | .nan => .nan
    | .inf true => (match g with
      | .rcp => zero true | .rsq => .nan | .exp2 => zero false | .log2 => .nan | .sin => .nan | .cos => .nan | .tanh => one.neg)
    | .inf false => (match g with
      | .rcp => zero false | .rsq => zero false | .exp2 => .inf false | .log2 => .inf false | .sin => .nan | .cos => .nan | .tanh => one)
    | .fin s m e k =>
      if m = 0 then (match g with
        | .rcp => .inf s | .rsq => .inf s | .exp2 => one | .log2 => .inf true | .sin => zero s | .cos => one | .tanh => zero s)
      else match g with
        | .rcp => one.div (.fin s m e k)
        | .rsq => if s then .nan else
            let odd := e % 2 != 0
            let m1 := if odd then 2 * m else m
            let e1 := if odd then e - 1 else e
            trunc32 false (isqrt (2 ^ 400 / m1)) (-200 - e1 / 2)
        | .exp2 => exp2v s m e
        | .log2 => if s then .nan else log2v m e
        | .sin => let p := (sincos m e).1; fxv (p.1 != s) p.2
        | .cos => let p := (sincos m e).2; fxv p.1 p.2
        | .tanh => fxv s (tanhv m e))

end Sys2Proof.Machine
end

