-- ==== Sys2Proof/Machine/FloatInsn.lean ====
section
/-!
DEFINITION. Sys2Proof/Machine/FloatInsn.lean: the instructions of groups G2 and G3 that calculate (R148 to R167).
-/
namespace Sys2Proof.Machine

/-- A narrow conversion: the code, or CONVERT_TRAP poison under TRAP (R115, R165). -/
def narrow (s : State) (pm : BitVec 2) (n : NF) (md : BitVec 3) (tb ta : BitVec 9) : Out :=
  slotL s pm (policyReserved n md) 1 [ta, tb] false (fun e _ _ a _ _ =>
    .out (match ncvt n md a with
      | some c => .value (toWord c)
      | none => faultTok e.slot cConvertTrap 0))

/-- `FADD` (R150). -/
def execFadd (pm : BitVec 2) (md : BitVec 3) (tb ta : BitVec 9) (s : State) : Out :=
  alu s pm false 2 tb ta (fun a b c => fOp32 .add md a b c)

/-- `FSUB` (R150). -/
def execFsub (pm : BitVec 2) (md : BitVec 3) (tb ta : BitVec 9) (s : State) : Out :=
  alu s pm false 2 tb ta (fun a b c => fOp32 .sub md a b c)

/-- `FMUL` (R150). -/
def execFmul (pm : BitVec 2) (md : BitVec 3) (tb ta : BitVec 9) (s : State) : Out :=
  alu s pm false 2 tb ta (fun a b c => fOp32 .mul md a b c)

/-- `FFMA` (R150). -/
def execFfma (pm : BitVec 2) (md : BitVec 3) (tb ta : BitVec 9) (s : State) : Out :=
  alu s pm false 3 tb ta (fun a b c => fOp32 .fma md a b c)

/-- `FDIV` (R150). -/
def execFdiv (pm : BitVec 2) (md : BitVec 3) (tb ta : BitVec 9) (s : State) : Out :=
  alu s pm false 2 tb ta (fun a b c => fOp32 .div md a b c)

/-- `FSQRT` (R150). -/
def execFsqrt (pm : BitVec 2) (md : BitVec 3) (tb ta : BitVec 9) (s : State) : Out :=
  alu s pm false 1 tb ta (fun a b c => fOp32 .sqrt md a b c)

/-- `FMIN` (R151). -/
def execFmin (pm : BitVec 2) (md : BitVec 3) (tb ta : BitVec 9) (s : State) : Out :=
  alu s pm (resF md) 2 tb ta (fun a b _ => toWord (fp32.minmax false (ftzR md) (lo32 a) (lo32 b)))

/-- `FMAX` (R151). -/
def execFmax (pm : BitVec 2) (md : BitVec 3) (tb ta : BitVec 9) (s : State) : Out :=
  alu s pm (resF md) 2 tb ta (fun a b _ => toWord (fp32.minmax true (ftzR md) (lo32 a) (lo32 b)))

/-- `FABS` (R152). -/
def execFabs (pm : BitVec 2) (tb ta : BitVec 9) (s : State) : Out :=
  alu s pm false 1 tb ta (fun a _ _ => fAbs a)

/-- `FNEG` (R152). -/
def execFneg (pm : BitVec 2) (tb ta : BitVec 9) (s : State) : Out :=
  alu s pm false 1 tb ta (fun a _ _ => fNeg a)

/-- `FCMP` (R153). -/
def execFcmp (pm : BitVec 2) (md : BitVec 3) (tb ta : BitVec 9) (s : State) : Out :=
  alu s pm (decide (6 ≤ md.toNat)) 2 tb ta (fun a b _ => boolTok (fcmp md (fp32.dec (lo32 a)) (fp32.dec (lo32 b))))

/-- `FCLASS` (R154). -/
def execFclass (pm : BitVec 2) (tb ta : BitVec 9) (s : State) : Out :=
  alu s pm false 1 tb ta (fun a _ _ => fClass a)

/-- `FRND` (R155). -/
def execFrnd (pm : BitVec 2) (md : BitVec 3) (tb ta : BitVec 9) (s : State) : Out :=
  alu s pm false 1 tb ta (fun a _ _ => fRnd md a)

/-- `FSCALE` (R156). -/
def execFscale (pm : BitVec 2) (md : BitVec 3) (tb ta : BitVec 9) (s : State) : Out :=
  alu s pm false 2 tb ta (fun a b _ => fScale md a b)

/-- `DADD` (R157). -/
def execDadd (pm : BitVec 2) (md : BitVec 3) (tb ta : BitVec 9) (s : State) : Out :=
  alu s pm (resRN md) 2 tb ta (fun a b c => fOp64 .add md a b c)

/-- `DSUB` (R157). -/
def execDsub (pm : BitVec 2) (md : BitVec 3) (tb ta : BitVec 9) (s : State) : Out :=
  alu s pm (resRN md) 2 tb ta (fun a b c => fOp64 .sub md a b c)

/-- `DMUL` (R157). -/
def execDmul (pm : BitVec 2) (md : BitVec 3) (tb ta : BitVec 9) (s : State) : Out :=
  alu s pm (resRN md) 2 tb ta (fun a b c => fOp64 .mul md a b c)

/-- `DFMA` (R157). -/
def execDfma (pm : BitVec 2) (md : BitVec 3) (tb ta : BitVec 9) (s : State) : Out :=
  alu s pm (resRN md) 3 tb ta (fun a b c => fOp64 .fma md a b c)

/-- `DDIV` (R158): always emulated. -/
def execDdiv (pm : BitVec 2) (md : BitVec 3) (tb ta : BitVec 9) (s : State) : Out :=
  aluOff s pm (resRN md) 2 tb ta

/-- `DSQRT` (R158): always emulated. -/
def execDsqrt (pm : BitVec 2) (md : BitVec 3) (tb ta : BitVec 9) (s : State) : Out :=
  aluOff s pm (resRN md) 1 tb ta

/-- `DCMP` (R153). -/
def execDcmp (pm : BitVec 2) (md : BitVec 3) (tb ta : BitVec 9) (s : State) : Out :=
  alu s pm (decide (6 ≤ md.toNat)) 2 tb ta (fun a b _ => boolTok (fcmp md (fp64.dec a.toNat) (fp64.dec b.toNat)))

/-- `DMINMAX` (R157). -/
def execDminmax (pm : BitVec 2) (md : BitVec 3) (tb ta : BitVec 9) (s : State) : Out :=
  alu s pm (decide (2 ≤ md.toNat)) 2 tb ta (fun a b _ => toWord (fp64.minmax (md == 1#3) false a.toNat b.toNat))

/-- `FADD.X2` (R159). -/
def execFaddX2 (pm : BitVec 2) (md : BitVec 3) (tb ta : BitVec 9) (s : State) : Out :=
  alu s pm false 2 tb ta (fun a b c => fOpX2 .add md a b c)

/-- `FSUB.X2` (R159). -/
def execFsubX2 (pm : BitVec 2) (md : BitVec 3) (tb ta : BitVec 9) (s : State) : Out :=
  alu s pm false 2 tb ta (fun a b c => fOpX2 .sub md a b c)

/-- `FMUL.X2` (R159). -/
def execFmulX2 (pm : BitVec 2) (md : BitVec 3) (tb ta : BitVec 9) (s : State) : Out :=
  alu s pm false 2 tb ta (fun a b c => fOpX2 .mul md a b c)

/-- `FFMA.X2` (R159). -/
def execFfmaX2 (pm : BitVec 2) (md : BitVec 3) (tb ta : BitVec 9) (s : State) : Out :=
  alu s pm false 3 tb ta (fun a b c => fOpX2 .fma md a b c)

/-- `FDOT.X2` (R116). -/
def execFdotX2 (pm : BitVec 2) (md : BitVec 3) (tb ta : BitVec 9) (s : State) : Out :=
  alu s pm false 2 tb ta (fun a b _ => fDotX2 md a b)

/-- `HADD.X4` (R160). -/
def execHaddX4 (pm : BitVec 2) (md : BitVec 3) (tb ta : BitVec 9) (s : State) : Out :=
  alu s pm (resRN md) 2 tb ta (fun a b c => fOpX4 fp16 .add md a b c)

/-- `HMUL.X4` (R160). -/
def execHmulX4 (pm : BitVec 2) (md : BitVec 3) (tb ta : BitVec 9) (s : State) : Out :=
  alu s pm (resRN md) 2 tb ta (fun a b c => fOpX4 fp16 .mul md a b c)

/-- `HFMA.X4` (R160). -/
def execHfmaX4 (pm : BitVec 2) (md : BitVec 3) (tb ta : BitVec 9) (s : State) : Out :=
  alu s pm (resRN md) 3 tb ta (fun a b c => fOpX4 fp16 .fma md a b c)

/-- `BADD.X4` (R160). -/
def execBaddX4 (pm : BitVec 2) (md : BitVec 3) (tb ta : BitVec 9) (s : State) : Out :=
  alu s pm (resRN md) 2 tb ta (fun a b c => fOpX4 bf16 .add md a b c)

/-- `BMUL.X4` (R160). -/
def execBmulX4 (pm : BitVec 2) (md : BitVec 3) (tb ta : BitVec 9) (s : State) : Out :=
  alu s pm (resRN md) 2 tb ta (fun a b c => fOpX4 bf16 .mul md a b c)

/-- `BFMA.X4` (R160). -/
def execBfmaX4 (pm : BitVec 2) (md : BitVec 3) (tb ta : BitVec 9) (s : State) : Out :=
  alu s pm (resRN md) 3 tb ta (fun a b c => fOpX4 bf16 .fma md a b c)

/-- `CVT.F2I` (R164). -/
def execCvtF2i (pm : BitVec 2) (md : BitVec 3) (tb ta : BitVec 9) (s : State) : Out :=
  alu s pm false 1 tb ta (fun a _ _ => cvtF2i md a)

/-- `CVT.I2F` (R163). -/
def execCvtI2f (pm : BitVec 2) (md : BitVec 3) (tb ta : BitVec 9) (s : State) : Out :=
  alu s pm false 1 tb ta (fun a _ _ => cvtI2f md a)

/-- `CVT.F2F` (R163). -/
def execCvtF2f (pm : BitVec 2) (md : BitVec 3) (tb ta : BitVec 9) (s : State) : Out :=
  alu s pm false 1 tb ta (fun a _ _ => cvtH fp64 md a)

/-- `CVT.I2I` (R164). -/
def execCvtI2i (pm : BitVec 2) (md : BitVec 3) (tb ta : BitVec 9) (s : State) : Out :=
  alu s pm (resRN md) 1 tb ta (fun a _ _ => cvtI2i md a)

/-- `CVT.H2F` (R163). -/
def execCvtH2f (pm : BitVec 2) (md : BitVec 3) (tb ta : BitVec 9) (s : State) : Out :=
  alu s pm false 1 tb ta (fun a _ _ => cvtH fp32 md a)

/-- `CVT.F2D` (R163). -/
def execCvtF2d (pm : BitVec 2) (tb ta : BitVec 9) (s : State) : Out :=
  alu s pm false 1 tb ta (fun a _ _ => cvtF2d a)

/-- `CVT.F2D` with MOD[2] set, `cvt.d2f` (R163). -/
def execCvtD2f (pm md : BitVec 2) (tb ta : BitVec 9) (s : State) : Out :=
  alu s pm false 1 tb ta (fun a _ _ => cvtD2f (rmOf md) a)

/-- `NCVT.H` (R165). -/
def execNcvtH (pm : BitVec 2) (md : BitVec 3) (tb ta : BitVec 9) (s : State) : Out :=
  narrow s pm .h md tb ta

/-- `NCVT.B` (R165). -/
def execNcvtB (pm : BitVec 2) (md : BitVec 3) (tb ta : BitVec 9) (s : State) : Out :=
  narrow s pm .b md tb ta

/-- `NCVT.E4` (R165). -/
def execNcvtE4 (pm : BitVec 2) (md : BitVec 3) (tb ta : BitVec 9) (s : State) : Out :=
  narrow s pm .e4 md tb ta

/-- `NCVT.E5` (R165). -/
def execNcvtE5 (pm : BitVec 2) (md : BitVec 3) (tb ta : BitVec 9) (s : State) : Out :=
  narrow s pm .e5 md tb ta

/-- `NCVT.F4` (R165). -/
def execNcvtF4 (pm : BitVec 2) (md : BitVec 3) (tb ta : BitVec 9) (s : State) : Out :=
  narrow s pm .f4 md tb ta

/-- `NCVT.SC` (R165). -/
def execNcvtSc (pm : BitVec 2) (md : BitVec 3) (tb ta : BitVec 9) (s : State) : Out :=
  narrow s pm .sc md tb ta

/-- `NCVT.I8` (R165). -/
def execNcvtI8 (pm : BitVec 2) (md : BitVec 3) (tb ta : BitVec 9) (s : State) : Out :=
  narrow s pm .i8 md tb ta

/-- `NCVT.I4` (R165). -/
def execNcvtI4 (pm : BitVec 2) (md : BitVec 3) (tb ta : BitVec 9) (s : State) : Out :=
  narrow s pm .i4 md tb ta

/-- `RCP` (R161, R162). -/
def execRcp (pm : BitVec 2) (md : BitVec 3) (tb ta : BitVec 9) (s : State) : Out :=
  alu s pm (resF md) 1 tb ta (fun a _ _ => special .rcp md a)

/-- `RSQ` (R161, R162). -/
def execRsq (pm : BitVec 2) (md : BitVec 3) (tb ta : BitVec 9) (s : State) : Out :=
  alu s pm (resF md) 1 tb ta (fun a _ _ => special .rsq md a)

/-- `EXP2` (R161, R162). -/
def execExp2 (pm : BitVec 2) (md : BitVec 3) (tb ta : BitVec 9) (s : State) : Out :=
  alu s pm (resF md) 1 tb ta (fun a _ _ => special .exp2 md a)

/-- `LOG2` (R161, R162). -/
def execLog2 (pm : BitVec 2) (md : BitVec 3) (tb ta : BitVec 9) (s : State) : Out :=
  alu s pm (resF md) 1 tb ta (fun a _ _ => special .log2 md a)

/-- `SIN` (R161, R162). -/
def execSin (pm : BitVec 2) (md : BitVec 3) (tb ta : BitVec 9) (s : State) : Out :=
  alu s pm (resF md) 1 tb ta (fun a _ _ => special .sin md a)

/-- `COS` (R161, R162). -/
def execCos (pm : BitVec 2) (md : BitVec 3) (tb ta : BitVec 9) (s : State) : Out :=
  alu s pm (resF md) 1 tb ta (fun a _ _ => special .cos md a)

/-- `TANH` (R161, R162). -/
def execTanh (pm : BitVec 2) (md : BitVec 3) (tb ta : BitVec 9) (s : State) : Out :=
  alu s pm (resF md) 1 tb ta (fun a _ _ => special .tanh md a)

/-- `PACK` (R166). -/
def execPack (pm : BitVec 2) (md : BitVec 3) (tb ta : BitVec 9) (s : State) : Out :=
  alu s pm false 2 tb ta (fun a b _ => pack md a b)

/-- `UNPACK` (R167). -/
def execUnpack (pm : BitVec 2) (md : BitVec 3) (tb ta : BitVec 9) (s : State) : Out :=
  alu s pm false 2 tb ta (fun a b _ => unpack md a b)

end Sys2Proof.Machine
end

