-- ==== Sys2Proof/Machine/Matrix.lean ====
section
/-!
DEFINITION. Sys2Proof/Machine/Matrix.lean: the matrix engine (R118, R119, R226 to R240).
-/
namespace Sys2Proof.Machine

/-! ## Formats -/

/-- The element formats of matrix operations; the code is the one `MOp.fmt` holds. -/
inductive MFmt where
  | bf16 | fp16 | i8 | e4 | e5 | f4 | i4
  deriving DecidableEq, Repr

def mfmt (n : Nat) : MFmt :=
  if n = 0 then .bf16 else if n = 1 then .fp16 else if n = 2 then .i8 else if n = 4 then .e4 else if n = 5 then .e5 else if n = 6 then .f4 else .i4
def MFmt.bits : MFmt → Nat
  | .bf16 => 16 | .fp16 => 16 | .i8 => 8 | .e4 => 8 | .e5 => 8 | .f4 => 4 | .i4 => 4
/-- Products of a K-step (R118). -/
def MFmt.ks : MFmt → Nat
  | .bf16 => 16 | .fp16 => 16 | _ => 32
def MFmt.isInt : MFmt → Bool
  | .i8 => true | .i4 => true | _ => false
def MFmt.val (m : MFmt) (c : Nat) : FV :=
  match m with
  | .bf16 => Sys2Proof.Machine.bf16.dec c
  | .fp16 => Sys2Proof.Machine.fp16.dec c
  | .e4 => f8e4v c
  | .e5 => f8e5.dec c
  | .f4 => f4e2v c
  | _ => .fin false 0 0 false
/-- The elements of a K-step in bytes. -/
def MFmt.elems (m : MFmt) (v : Nat) : List Nat := (List.range m.ks).map (fun i => v / 2 ^ (m.bits * i) % 2 ^ m.bits)

/-! ## One K-step (R118, R119) -/

/-- Scale bytes: row or column `i` of 64, from byte `b` or `b + 1` of its scale lane. -/
def MOp.scale (o : MOp) (b i : Nat) : Nat := ((mgetD o.scales (i % 32) 0).toNat / 2 ^ (8 * (b + i / 32))) % 256

/-- One element of D after a K-step. -/
def kElem (m : MFmt) (d : Nat) (sa sb : FV) (a b : List Nat) : Nat :=
  if m.isInt then
    (wrapN ((a.zip b).foldl (fun (x : Int) p => x + sint (toWord p.1) m.bits * sint (toWord p.2) m.bits) (sint (toWord d) 32)) 32).toNat
  else
    fp32.rnd (sumFV .rne (fp32.dec d :: (a.zip b).map (fun p => ((sa.mul sb).mul (m.val p.1)).mul (m.val p.2)))) .rne false

/-- A K-step on a tile: `am` holds A's rows, `bm` B's columns, `dm` the tile. Elements that a poisoned word contributes to
become poisoned (R240). -/
def kTile (o : MOp) (am bm dm : WgMem) : WgMem :=
  let m := mfmt o.fmt
  let n := m.ks * m.bits / 8
  let at_ (addr stride i : Nat) : Nat := addr + i * stride + o.kdone * n
  let scaled := decide (4 ≤ o.fmt) && !m.isInt
  let sc (b i : Nat) : FV := if scaled then sc8v (o.scale b i) else .fin false 1 0 false
  let rows := (List.range 64).map (fun i => (i, m.elems (am.scr (at_ o.aAddr o.aStride i) n), am.scrPois (at_ o.aAddr o.aStride i) n, sc 0 i))
  let cols := (List.range 64).map (fun j => (j, m.elems (bm.scr (at_ o.bAddr o.bStride j) n), bm.scrPois (at_ o.bAddr o.bStride j) n, sc 2 j))
  let base := 4096 * o.tile
  let cells := (rows.map (fun r => cols.map (fun c =>
    let k := base + 64 * r.1 + c.1
    (k, kElem m (mgetD dm.elems k 0).toNat r.2.2.2 c.2.2.2 r.2.1 c.2.1, r.2.2.1 || c.2.2.1 || dm.epois.contains k)))).flatten
  { dm with
    elems := dm.elems.filter (fun p => decide (p.1 < base)) ++
      cells.filterMap (fun x => if x.2.1 = 0 then none else some (x.1, BitVec.ofNat 32 x.2.1)) ++
      dm.elems.filter (fun p => decide (base + 4096 ≤ p.1)),
    epois := dm.epois.filter (fun p => decide (p < base)) ++ cells.filterMap (fun x => if x.2.2 then some x.1 else none) ++
      dm.epois.filter (fun p => decide (base + 4096 ≤ p)) }

/-- A tile set to zero, its marks cleared (R230, R240). -/
def zTile (tile : Nat) (dm : WgMem) : WgMem :=
  let out (k : Nat) : Bool := decide (k < 4096 * tile) || decide (4096 * tile + 4096 ≤ k)
  { dm with elems := dm.elems.filter (fun p => out p.1), epois := dm.epois.filter out }

/-! ## Reservations -/

def Core.updRes (c : Core) (rid : Nat) (g : MRes → MRes) : Core := { c with mres := c.mres.map (fun r => if r.rid = rid then g r else r) }

/-- `a` is at or past `b`, modulo 2^32 (R235). -/
def past32 (a b : Nat) : Bool := decide ((a + 2 ^ 32 - b % 2 ^ 32) % 2 ^ 32 < 2 ^ 31)

/-- Batches whose operations have all retired complete, oldest first (R234). -/
def completeGo (ops : List MOp) : List (Nat × Nat) → Nat → Nat × List (Nat × Nat)
  | [], d => (d, [])
  | (n, lim) :: r, d => if ops.all (fun o => decide (lim < o.order)) then completeGo ops r n else (d, (n, lim) :: r)
def MRes.settle (r : MRes) : MRes :=
  let x := completeGo r.ops r.batches r.complete
  { r with complete := x.1, batches := x.2 }

/-- Frees the contexts that are released and drained (R227). -/
def Core.freeRes (c : Core) : Core := { c with mres := c.mres.filter (fun r => !(r.releasing && r.ops.isEmpty && r.slaved == 0)) }

def mresMode (md : BitVec 3) : Nat := md.toNat

/-- `MRES` (R226). -/
def mresPerform (md : BitVec 3) (e : Env) (s : State) (_ _ _ : Word) : State × UOut :=
  if s.inSlice e.w then (s, .fail cRecipeFailed 0)
  else
    let core := s.coreOf e.w
    let c := s.core core
    let pair := (s.fuses.capFeat core).testBit 4
    match c.resOf e.w.wg with
    | some r => (s, .done (boolTok (r.mode == mresMode md)))
    | none =>
      if c.mres.length < 2 ∧ (md = 0 ∨ (pair = true ∧ (core % 8 % 2 = 0 ↔ md = 1))) then
        let r : MRes := { rid := s.nextId, wg := e.w.wg, mode := mresMode md, nextOp := 0, closed := 0, complete := 0, batches := [], ops := [],
                          held := none, releasing := false, slaved := 0 }
        (({ s with nextId := s.nextId + 1 } : State).updCore core (fun k => { k with mres := k.mres ++ [r] }), .done 1)
      else (s, .done 0)

/-- `MRES` (R226). -/
def execMres (pm : BitVec 2) (md : BitVec 3) (tb ta : BitVec 9) (s : State) : Out :=
  slotU s pm (fun _ => decide (3 ≤ md.toNat)) (fun _ => false) 0 [ta, tb] false false (mresPerform md)

/-- A command on the reservation of its workgroup: checks 1 and 2 of R231; a command of another warp waits while a vector
holds the queue (R269). -/
def mcommand (follower : Bool) (k : Env → State → MRes → Word → Word → State × UOut) (e : Env) (s : State) (a b _ : Word) : State × UOut :=
  if s.inSlice e.w then (s, .fail cRecipeFailed 0)
  else
    let c := s.core (s.coreOf e.w)
    match c.resOf e.w.wg with
    | none => (s, .fail cMatrixNotReserved 0)
    | some r =>
      if e.heldOut c then (s, .waits .space)
      else if r.mode = 2 ∧ follower = false then (s, .fail cMatrixPair 0)
      else k e s r a b

/-- `MREL` (R227). -/
def execMrel (pm : BitVec 2) (s : State) : Out :=
  slotU s pm (fun _ => false) (fun _ => false) 1 [] false false
    (mcommand true (fun e s r _ _ => (s.updCore (s.coreOf e.w) (fun c => (c.updRes r.rid (fun x => { x with releasing := true })).freeRes), .quiet)))

/-! ## Operations (R228 to R231) -/

/-- An operation is accepted: it takes the next number. -/
def State.acceptOp (s : State) (core : Nat) (r : MRes) (o : MOp) : State × UOut :=
  let s1 : State := { s with nextId := s.nextId + 1 }
  let slave := o.pair.bind (fun f => ((s.core (core + 1)).mres.find? (fun x => x.wg == f && x.mode == 2 && !x.releasing)).map (·.rid))
  let s2 := s1.updCore core (fun c => c.updRes r.rid (fun x =>
    { x with nextOp := (x.nextOp + 1) % 2 ^ 32, ops := x.ops ++ [{ o with num := r.nextOp, order := s.nextId, slave := slave }] }))
  let s3 := match slave with
    | some i => s2.updCore (core + 1) (fun c => c.updRes i (fun x => { x with slaved := x.slaved + 1 }))
    | none => s2
  (s3, .done (toWord r.nextOp))

/-- The scale bytes captured at performance (R119). -/
def scalesOf (e : Env) (bsel : Bool) : NMap Word :=
  let tok (l : Nat) : Nat := if hasLane e.f.mask l then (match e.f.tok 2 e.slot l with
    | some (.value v) => v.toNat
    | _ => 0) else 0
  if e.w.width = 16 then
    (List.range 32).map (fun l => (l, toWord (if l < 16 then tok l % 2 ^ 32 else tok (l - 16) / 2 ^ 32)))
  else (List.range 32).map (fun l => (l, toWord (if bsel then tok l / 2 ^ 32 else tok l % 2 ^ 32)))

/-- K lies within R229. -/
def kValid (scaled : Bool) (m : MFmt) (k : Nat) : Bool :=
  if scaled then k == 32 else decide (k ≠ 0) && k % m.ks == 0 && decide (k ≤ 4095)

/-- Check 4 for one descriptor: a RES0 bit, or a byte at or beyond the allocation. -/
def descOut (d : Word) (res0 : Nat) (size rowBytes : Nat) (kok : Bool) : Bool :=
  let a := fld d 21 0
  decide (res0 ≠ 0) || decide (size < a + (if kok then 63 * fld d 37 22 + rowBytes else 1))

/-- Checks 3 to 7 of R231, then acceptance, or a wait for space (R218). -/
def mopPerform (fmt : Nat) (pair scaled bsel : Bool) : Env → State → Word → Word → Word → State × UOut :=
  mcommand false (fun e s r a b =>
    let core := s.coreOf e.w
    let m := mfmt fmt
    let k := fld b 49 38
    let kok := kValid scaled m k
    let rb := k * m.bits / 8
    let own := mget s.wgs e.w.wg
    let size := (own.map (·.size)).getD 0
    let tiles := (own.map (·.tiles)).getD 0
    let fol := if pair then s.followerOf e.w.wg else none
    let mis (d : Word) : Bool := fld d 3 0 != 0 || fld d 25 22 != 0
    if 16 ≤ r.ops.length then (s, .waits .space)
    else if pair && fol.isNone then (s, .fail cMatrixPair 0)
    else if descOut a (fld a 63 42) size rb kok then (s, .fail cScratchRange a)
    else if descOut b (fld b 63 50) size rb kok then (s, .fail cScratchRange b)
    else if tiles ≤ fld a 41 38 then (s, .fail cTileRange a)
    else if mis a then (s, .fail cAlignment a)
    else if mis b || !kok then (s, .fail cAlignment b)
    else if pair && (match fol.bind (fun f => mget s.wgs f) with
        | some g => decide (g.size < fld a 21 0 + 63 * fld a 37 22 + rb) || decide (g.tiles < fld a 41 38 + 1)
        | none => true) then (s, .fail cMatrixPair a)
    else s.acceptOp core r
      { num := 0, zero := false, fmt := fmt, pair := fol, slave := none, tile := fld a 41 38, aAddr := fld a 21 0, aStride := fld a 37 22, bAddr := fld b 21 0,
        bStride := fld b 37 22, k := k, scales := if scaled then scalesOf e bsel else [], kdone := 0, ktot := k / m.ks, order := 0 })

/-- `MMA` (R229). -/
def execMma (pm : BitVec 2) (md : BitVec 3) (tb ta : BitVec 9) (s : State) : Out :=
  slotU s pm (fun _ => md.extractLsb' 0 2 == 3#2) (fun _ => false) 2 [ta, tb] false true (acqFirst (mopPerform (md.toNat % 4) (md.getLsbD 2) false false))

/-- The I4 forms on a core without them (R74). -/
def i4Disabled (md : BitVec 3) (s : State) (_ : Env) : Bool := md.extractLsb' 0 2 == 3#2 && !s.fuses.mmani4

/-- `MMAN` (R229). -/
def execMman (pm : BitVec 2) (md : BitVec 3) (tb ta : BitVec 9) (s : State) : Out :=
  slotU s pm (fun _ => false) (i4Disabled md s) 3 [ta, tb] true true (acqFirst (mopPerform (4 + md.toNat % 4) false true (md.getLsbD 2)))
/-- `MMANP` (R229). -/
def execMmanp (pm : BitVec 2) (md : BitVec 3) (tb ta : BitVec 9) (s : State) : Out :=
  slotU s pm (fun _ => false) (i4Disabled md s) 3 [ta, tb] true true (acqFirst (mopPerform (4 + md.toNat % 4) true true (md.getLsbD 2)))

def mzeroPerform : Env → State → Word → Word → Word → State × UOut :=
  mcommand false (fun e s r a _ =>
    let tiles := ((mget s.wgs e.w.wg).map (·.tiles)).getD 0
    if 16 ≤ r.ops.length then (s, .waits .space)
    else if fld a 63 4 ≠ 0 ∨ tiles ≤ fld a 3 0 then (s, .fail cTileRange a)
    else s.acceptOp (s.coreOf e.w) r
      { num := 0, zero := true, fmt := 0, pair := none, slave := none, tile := fld a 3 0, aAddr := 0, aStride := 0, bAddr := 0, bStride := 0, k := 0, scales := [],
        kdone := 0, ktot := 1, order := 0 })

/-- `MZERO` (R230). -/
def execMzero (pm : BitVec 2) (tb ta : BitVec 9) (s : State) : Out :=
  slotU s pm (fun _ => false) (fun _ => false) 1 [ta, tb] false true (acqFirst mzeroPerform)

/-! ## Batches (R234, R235) -/

/-- The batch number after `n`: never 0. -/
def nextBatch (n : Nat) : Nat := if n + 1 = 2 ^ 32 then 1 else n + 1

def mcomPerform : Env → State → Word → Word → Word → State × UOut :=
  mcommand false (fun e s r _ _ =>
    let n := nextBatch r.closed
    let lim := r.ops.foldl (fun a o => max a o.order) 0
    (s.updCore (s.coreOf e.w) (fun c => c.updRes r.rid (fun x => ({ x with closed := n, batches := x.batches ++ [(n, lim)] } : MRes).settle)),
      .done (toWord n)))

/-- `MCOM` (R234). -/
def execMcom (pm : BitVec 2) (tb ta : BitVec 9) (s : State) : Out :=
  slotU s pm (fun _ => false) (fun _ => false) 1 [ta, tb] false false mcomPerform

/-- The reservation whose batches a workgroup waits on: its own, or its leader's (R235). -/
def State.batchRes (s : State) (core : Nat) (r : MRes) : Nat × Option MRes :=
  if r.mode = 2 then
    (core - 1, (s.core (core - 1)).mres.find? (fun x => x.mode == 1 && !x.releasing && ((mget s.wgs x.wg).map (·.gang)) == ((mget s.wgs r.wg).map (·.gang))))
  else (core, some r)

/-- `MWAIT`: it waits for its batches; in follower mode while no leader of the gang holds a reservation it delivers 0 at once (DESIGN CHOICE, log
entry 33). -/
def mwaitPerform : Env → State → Word → Word → Word → State × UOut :=
  mcommand true (fun e s r a _ =>
    let n := fld a 31 0
    if n = 0 then (s, .done 0)
    else match s.batchRes (s.coreOf e.w) r with
      | (_, none) => (s, .done 0)
      | (k, some x) =>
        let v := if past32 x.closed n then n else x.closed
        (s, .waits (.mwait k x.rid v v)))

/-- `MWAIT` (R235). -/
def execMwait (pm : BitVec 2) (tb ta : BitVec 9) (s : State) : Out :=
  slotU s pm (fun _ => false) (fun _ => false) 1 [ta, tb] false false mwaitPerform

/-- MWAIT_END: every covered batch has completed. -/
def execMwaitEnd (wid slot : Nat) (s : State) : Out :=
  match (s.warp wid).bind (·.uWait slot) with
  | some (fid, _, .mwait core rid upto v) =>
    event s "MWAIT_END" (match (s.core core).mres.find? (fun r => r.rid == rid) with
      | some r => past32 r.complete upto
      | none => true) (s.endWait wid fid slot (.done (toWord v)))
  | _ => .refused (.notEnabled "MWAIT_END")

/-! ## Progress and state (R237, R238) -/

def mprogVal (r : MRes) : Word :=
  match r.ops with
  | o :: _ => toWord (o.num * 2 ^ 32 + r.ops.length * 2 ^ 16 + o.kdone * 2 ^ 8 + o.ktot)
  | [] => toWord (r.nextOp * 2 ^ 32)
/-- `MPROG` (R237). -/
def execMprog (pm : BitVec 2) (tb ta : BitVec 9) (s : State) : Out :=
  slotU s pm (fun _ => false) (fun _ => false) 0 [ta, tb] false false (fun e s _ _ _ =>
    if s.inSlice e.w then (s, .fail cRecipeFailed 0)
    else (s, .done (match (s.core (s.coreOf e.w)).resOf e.w.wg with
      | some r => mprogVal r
      | none => 0)))

/-- Leader and follower of the pair are both reserved (R238). -/
def State.paired (s : State) (core : Nat) (r : MRes) : Bool :=
  if r.mode = 1 then (s.followerOf r.wg).isSome
  else if r.mode = 2 then (s.batchRes core r).2.isSome
  else false
def State.mstatVal (s : State) (core : Nat) (r : Option MRes) : Word :=
  match r with
  | none => toWord (3 * 64)
  | some r => toWord (r.closed % 2 ^ 24 * 2 ^ 40 + r.complete % 2 ^ 24 * 2 ^ 16 + r.mode * 64 + (if s.paired core r then 32 else 0) + r.ops.length)
/-- `MSTAT` (R238). -/
def execMstat (pm : BitVec 2) (tb ta : BitVec 9) (s : State) : Out :=
  slotU s pm (fun _ => false) (fun _ => false) 0 [ta, tb] false false (fun e s _ _ _ =>
    if s.inSlice e.w then (s, .fail cRecipeFailed 0)
    else (s, .done (s.mstatVal (s.coreOf e.w) ((s.core (s.coreOf e.w)).resOf e.w.wg))))

/-! ## The engine (R232, R236, R239) -/

/-- The operation in progress on a core, or else the oldest accepted one of its contexts. -/
def Core.nextOp (c : Core) : Option (MRes × MOp) :=
  let heads := c.mres.filterMap (fun r => r.ops.head?.map (fun o => (r, o)))
  match heads.find? (fun p => decide (0 < p.2.kdone)) with
  | some p => some p
  | none => match heads with
    | [] => none
    | x :: r => some (r.foldl (fun a y => if y.2.order < a.2.order then y else a) x)

/-- The engine of a core is the second half of a pair operation in progress. -/
def State.slavedNow (s : State) (core : Nat) : Bool :=
  decide (core % 8 ≠ 0) && (match (s.core (core - 1)).nextOp with
    | some (_, o) => o.pair.isSome && decide (0 < o.kdone)
    | none => false)
/-- An operation may take its next K-step. -/
def State.opMayRun (s : State) (core : Nat) (o : MOp) : Bool :=
  !s.slavedNow core && (o.pair.isNone || decide (0 < o.kdone) || (match (s.core (core + 1)).nextOp with
    | some (_, q) => q.kdone == 0
    | none => true))

/-- A K-step on the tile of a workgroup; each element that becomes poisoned is recorded (R366). -/
def State.kOn (s : State) (wg : Nat) (o : MOp) (am bm : WgMem) : State :=
  let old := (s.memOf wg).epois
  let s1 := s.updMem wg (kTile o am bm)
  match mget s.wgs wg with
  | none => s1
  | some g => ((s1.memOf wg).epois.filter (fun k => !old.contains k)).foldl (fun (s : State) k => s.noteCore g.core 0x0002 (some g.ctx) (toWord (4 * k))) s1
/-- One K-step of an operation, on the workgroup's tile and, for a pair operation, on the follower's. -/
def State.kstep (s : State) (wg : Nat) (o : MOp) : State :=
  if o.zero then s.updMem wg (zTile o.tile)
  else
    let lm := s.memOf wg
    let s1 := s.kOn wg o lm lm
    match o.pair with
    | some f => s1.kOn f o (s.memOf f) lm
    | none => s1

/-- MATRIX_KSTEP_DONE: a K-step that is not its operation's last (R239). -/
def execMatrixKstepDone (core : Nat) (s : State) : Out :=
  match (s.core core).nextOp with
  | none => .refused (.notEnabled "MATRIX_KSTEP_DONE")
  | some (r, o) =>
    event s "MATRIX_KSTEP_DONE" (s.opMayRun core o && decide (o.kdone + 1 < o.ktot))
      ((s.kstep r.wg o).updCore core (fun c => c.updRes r.rid (fun x =>
        { x with ops := x.ops.map (fun q => if q.order = o.order then { q with kdone := q.kdone + 1 } else q) })))

/-- MATRIX_OP_RETIRE: an operation's last K-step writes D; its batch may complete, a released context free (R232). -/
def execMatrixOpRetire (core : Nat) (s : State) : Out :=
  match (s.core core).nextOp with
  | none => .refused (.notEnabled "MATRIX_OP_RETIRE")
  | some (r, o) =>
    event s "MATRIX_OP_RETIRE" (s.opMayRun core o && decide (o.ktot ≤ o.kdone + 1))
      (let s1 := (s.kstep r.wg o).updCore core (fun c => (c.updRes r.rid (fun x =>
         ({ x with ops := x.ops.filter (fun q => q.order != o.order) } : MRes).settle)).freeRes)
       let s2 := match o.pair with
         | some f => (match o.slave with
           | some i => s1.updCore (core + 1) (fun c => (c.updRes i (fun x => { x with slaved := x.slaved - 1 })).freeRes)
           | none => s1).reap f
         | none => s1
       s2.reap r.wg)

/-! ## Commands that waited for space (R218) -/

/-- The command of a slot word whose engine may be full. -/
def spacePerform (w : Insn) : Option (Env → State → Word → Word → Word → State × UOut) :=
  let md := fMd w
  let o := opOf w
  if o = 0x17A then some (copyPerform md.toNat)
  else if o = 0x0D1 then some (mcommand true (fun e s r _ _ => (s.updCore (s.coreOf e.w) (fun c => (c.updRes r.rid (fun x => { x with releasing := true })).freeRes), .quiet)))
  else if o = 0x0D2 then some (mopPerform (md.toNat % 4) (md.getLsbD 2) false false)
  else if o = 0x0D3 then some (mopPerform (4 + md.toNat % 4) false true (md.getLsbD 2))
  else if o = 0x0D4 then some (mopPerform (4 + md.toNat % 4) true true (md.getLsbD 2))
  else if o = 0x0D5 then some mzeroPerform
  else if o = 0x0D6 then some mcomPerform
  else if o = 0x0D7 then some mwaitPerform
  else none

end Sys2Proof.Machine
end

