-- ==== Sys2Proof/Machine/Emulation.lean ====
section
/-!
DEFINITION. Sys2Proof/Machine/Emulation.lean: slots that vector without an instruction (R75, R268), the matrix drain before
handler entry (R269), commands that find space (R218), and the return of a handler level (R176, R276 to R278).
-/
namespace Sys2Proof.Machine

/-! ## Words without an instruction (R75) -/

/-- Opcodes whose slots act as sinks beside those of R72: `SWREG`, `EMRET`, `TRAP` and the branches (R83, R174, R176). -/
def opIsSink (o : Nat) : Bool := o == 0x007 || (decide (0x100 ≤ o) && decide (o ≤ 0x105))
/-- The slot of a class L word is a sink. -/
def slotIsSink (w : Insn) : Bool := opIsSink (opOf w) || (match opRow (opOf w) with
  | some r => r.sink
  | none => false)

/-- The operands of a slot that the block's words target (R45). -/
def Block.targetedPorts (b : Block) (slot : Nat) : List Nat :=
  let ts := (b.reads.map (fun r => [fTa r, fTb r])).flatten ++ (b.insns.map (fun p => targetsOf p.2)).flatten
  (List.range 3).filter (fun p => ts.any (fun t => tgtPort t == some (p, slot)))

/-- The frame of a warp's innermost level that runs unfrozen, seen from one of its slots. -/
def State.envAt (s : State) (wid slot : Nat) : Option Env :=
  match s.warp wid with
  | none => none
  | some w => match w.top with
    | none => none
    | some lv => match lv.frame with
      | none => none
      | some f => if f.vec.isNone && decide (w.stat = .ready) && decide (slot < f.blk.nslot) then some ⟨wid, slot, w, lv, f⟩ else none

/-- Operations of the matrix engine for which handler entry drains (R269). -/
def opDrains (o : Nat) : Bool := o == 0x0D2 || o == 0x0D3 || o == 0x0D4 || o == 0x0D5

/-- A class U word that vectors whatever it is asked: its operands and predicate in every lane, then its quantifier (R269). -/
def State.vectorU (s : State) (e : Env) (cause : BitVec 8) : State :=
  let w := e.f.word e.slot
  let pm := fPm w
  let nops := ((opRow (opOf w)).map (·.nops)).getD 0
  let f := e.f
  let every := (lanesOf f.mask).all (fun l => (List.range nops).all (fun p => (f.tok p e.slot l).isSome))
  if e.uBusy || !f.predReady e.slot pm || !every then s
  else if (f.predPoison e.slot pm).isNone && !f.quant e.slot pm then s.putFrame e (f.deliverAll e.slot (targetsOf w) .null (f.uDep e.slot nops))
  else match e.lv.recorded e.slot 64 with
    | some r => s.putFrame e (f.replay e.slot (targetsOf w) e.lv r)
    | none =>
      if opDrains (opOf w) && e.heldOut (s.core (s.coreOf e.w)) then s
      else (s.putFrame e f).enterEmu e.wid e.slot cause f.mask (opDrains (opOf w))

/-- EMU_VECTOR: a slot whose word is no instruction vectors: EMU_UNDEF for an unassigned code, EMU_RESERVED for a reserved
field; `DDIV` and `DSQRT` vector as their own meanings say, and every other slot vectors in its own meaning. -/
def execEmuVector (wid slot : Nat) (s : State) : Out :=
  match s.envAt wid slot with
  | none => .refused (.notEnabled "EMU_VECTOR")
  | some e =>
    let w := e.f.word slot
    if e.f.blk.litSlots.contains slot then .refused (.notEnabled "EMU_VECTOR")
    else if opOf w = 0x094 ∨ opOf w = 0x095 then
      ran s (s.vectorL e (fPm w) (if opOf w = 0x094 then 2 else 1) [fTa w, fTb w] false
        (if fPm w = 3#2 ∨ resRN (fMd w) then cEmuReserved else cEmuDisabled))
    else match decodeWord w (e.f.word (slot + 1)) (e.f.word (slot + 2)) with
    | .ok _ => .refused (.notEnabled "EMU_VECTOR")
    | .error .unassigned => ran s (s.vectorP e (fPm w) (e.f.blk.targetedPorts slot) (targetsOf w) false cEmuUndef)
    | .error _ =>
      let r := opRow (opOf w)
      ran s (if (r.map (·.uni)).getD false then s.vectorU e cEmuReserved
             else s.vectorL e (fPm w) ((r.map (·.nops)).getD 0) (targetsOf w) (slotIsSink w) cEmuReserved)

/-! ## The matrix drain (R269) -/

/-- The operations of a workgroup's reservation have retired; with no reservation there are none. -/
def State.drained (s : State) (w : Warp) : Bool :=
  match (s.core (s.coreOf w)).resOf w.wg with
  | some r => r.ops.isEmpty
  | none => true

/-- EMU_MATRIX_DRAIN_DONE: the handler level that waited for the drain is entered; it holds the reservation's queue. Where the entry
has been marked absent since, the context stops (R271). -/
def execEmuMatrixDrainDone (wid : Nat) (s : State) : Out :=
  match s.warp wid with
  | none => .refused (.notEnabled "EMU_MATRIX_DRAIN_DONE")
  | some w => match w.frame.bind (fun f => f.vec.map (fun v => (f, v))) with
    | none => .refused (.notEnabled "EMU_MATRIX_DRAIN_DONE")
    | some (f, v) =>
      let ready := v.drain && decide (w.stat = .ready) && s.drained w
      match (mget s.ctxs w.ctx).bind (·.cfg.emu) with
      | some entry =>
        let lv := { handlerLevel .emu entry f.mask (f.window v.slot v.cause v.mask (w.depth + 1)) with hold := true }
        let w1 := w.setFrame { f with vec := some { v with drain := false } }
        event s "EMU_MATRIX_DRAIN_DONE" ready ((s.setWarp wid { w1 with levels := lv :: w1.levels }).spillFrame (s.coreOf w))
      | none => event s "EMU_MATRIX_DRAIN_DONE" (ready && s.postRoom w.ctx) (s.fatalBy w v.cause v.slot (leaderOf v.mask) f.blk.addr)

/-! ## Space in an engine (R218) -/

/-- ENGINE_QUEUE_SPACE: a command that waited on a full queue or channel is performed. -/
def execEngineQueueSpace (wid slot : Nat) (s : State) : Out :=
  match s.warp wid with
  | none => .refused (.notEnabled "ENGINE_QUEUE_SPACE")
  | some w => match w.uWait slot with
    | some (fid, _, .space) => (match w.levelOf fid with
      | some lv => (match lv.frame, lv.frame.bind (fun f => spacePerform (f.word slot)) with
        | some f, some k =>
          let ld := leaderOf f.mask
          let p := k ⟨wid, slot, w, lv, f⟩ s (f.opVal 0 slot ld) (f.opVal 1 slot ld) (f.opVal 2 slot ld)
          (match p.2 with
           | .waits .space => .refused (.notEnabled "ENGINE_QUEUE_SPACE")
           | .hold => .refused (.notEnabled "ENGINE_QUEUE_SPACE")
           | o => ran s (p.1.endWait wid fid slot o))
        | _, _ => .refused (.notEnabled "ENGINE_QUEUE_SPACE"))
      | none => .refused (.notEnabled "ENGINE_QUEUE_SPACE"))
    | _ => .refused (.notEnabled "ENGINE_QUEUE_SPACE")

/-! ## Return of a handler level (R176, R276 to R278) -/

/-- A token that a result register and its kind code give (R20); none for the code absent. -/
def injTok (d : Word) (k : Nat) : Option Tok :=
  if k = 0 then some (.value d)
  else if k = 1 then some .null
  else if k = 2 then some (.poison (d.extractLsb' 0 6) (d.extractLsb' 8 8) 0)
  else none
def Window.inj0 (w : Window) (l : Nat) : Option Tok := injTok (mgetD w.d0 l 0) (fld (mgetD w.dkind l 0) 1 0)
def Window.inj1 (w : Window) (l : Nat) : Option Tok := injTok (mgetD w.d1 l 0) (fld (mgetD w.dkind l 0) 3 2)

/-- The lanes of `ow.mask` in which a target field would receive no token (R277). -/
def absentLanes (win : Window) (v : Vec) (ts : List (BitVec 9)) : List Nat :=
  (lanesOf v.mask).filter (fun l =>
    (match ts with
     | t :: _ => t != 0x1FF#9 && (win.inj0 l).isNone
     | [] => false) ||
    (match ts with
     | _ :: t :: _ => t != 0x1FF#9 && (win.inj1 l).isNone
     | _ => false))

def tokPoison : Option Tok → Bool
  | some t => t.isPoison
  | none => false

/-- A slot whose injected tokens enter the completion record: class U, atomics and a clearing `LDS.FE` (R87, R278). -/
def injRecorded (w : Insn) : Bool :=
  ((opRow (opOf w)).map (·.uni)).getD false || opIsAtomic (opOf w) || (opOf w == 0x145 && fMdM w == 0)

/-- The tokens of the window reach the vectored slot's targets, and act by the slot's kind (R276). `ow.d1` is ignored in a slot of Out 0, poison too,
as R276's table says; and kind 0b11 in `ow.d0` of a sink without a target, which the table does not name, resolves it as a squash does (DESIGN
CHOICE, log entry 41). -/
def Frame.inject (f : Frame) (win : Window) (v : Vec) (dep : Nat) : Frame :=
  let w := f.word v.slot
  let ts := targetsOf w
  let uni := ((opRow (opOf w)).map (·.uni)).getD false
  let out := ((opRow (opOf w)).map (·.out)).getD true
  let f1 := (lanesOf v.mask).foldl (fun (f : Frame) l =>
    let g := match win.inj0 l, ts with
      | some t, tg :: _ => f.send1 l t dep tg
      | _, _ => f
    let g1 := match win.inj1 l, ts with
      | some t, _ :: tg :: _ => g.send1 l t dep tg
      | _, _ => g
    (match win.inj0 l with
     | some t => if t.isPoison && !uni && slotIsSink w then g1.poisonSink v.slot l t else g1
     | none => g1).markDone v.slot l) { f with vec := none }
  let bad := (lanesOf v.mask).filterMap (fun l => match win.inj0 l, win.inj1 l with
    | some (.poison a b c), _ => some (l, Tok.poison a b c)
    | _, some (.poison a b c) => if out then some (l, Tok.poison a b c) else none
    | _, _ => none)
  match uni, bad with
  | true, (l, t) :: _ => f1.poisonSink v.slot l t
  | _, _ => f1

/-- The entries of R278: one for each lane of `ow.mask`, and for a class U slot the mark that it is performed. `ow.d1` is not injected
in a slot of Out 0 (R276). -/
def injEntries (win : Window) (v : Vec) (w : Insn) (dep : Nat) : List RecE :=
  let r := opRow (opOf w)
  let entry (lane l : Nat) : RecE :=
    { slot := v.slot, lane := lane, t0 := win.inj0 l, t1 := if (r.map (·.out)).getD true then win.inj1 l else none, waiting := none, dep := dep }
  if injRecorded w then
    (lanesOf v.mask).map (fun l => entry l l) ++ (if (r.map (·.uni)).getD false then [entry 64 (leaderOf v.mask)] else [])
  else []

/-- The queue of the workgroup's reservation is free again when the last level of the warp that held it ends. -/
def State.unhold (s : State) (w : Warp) (wid : Nat) (lv : Level) : State :=
  if lv.hold && !w.levels.tail.any (·.hold) then s.updCore (s.coreOf w) (fun c => { c with mres := c.mres.map (fun r => if r.held = some wid then { r with held := none } else r) }) else s

/-- The buffered sinks of a frame that an invalidation covered while it was frozen are translated again; one that fails becomes a
poisoned sink (R397). -/
def State.retranslate (s : State) (wid fid : Nat) : State :=
  match s.warp wid, s.fidFrame wid fid with
  | some w, some f =>
    (f.sinks.filter (·.stale)).foldl (fun (s : State) x =>
      match s.xlatRange (s.coreOf w) w.ctx x.addr x.size (if x.kind == .clean then .rd else .wr) (fun v => (s.inWindow w v).isSome) with
      | (s1, .ok xs) => s1.updFid wid fid (fun f => { f with sinks := f.sinks.map (fun y => if y = x then { x with xl := xs, stale := false } else y) })
      | (s1, .error (c, _)) => s1.updFid wid fid (fun f =>
          ({ f with sinks := f.sinks.filter (· != x) } : Frame).poisonSink x.slot x.lane (faultTok x.slot c (toWord x.addr)))) s
  | _, _ => s

/-- The innermost level of a warp returns: after the emulation handler the results are injected and the frozen frame resumes,
or it is discarded by R277; after the trap handler the trapped block executes again. -/
def State.levelReturn (s : State) (wid : Nat) : State :=
  match s.warp wid with
  | none => s
  | some w => match w.levels with
    | lv :: lo :: rest =>
      let s1 := s.unhold w wid lv
      (match lv.kind, lo.frame with
       | .emu, some f => (match f.vec with
         | none => s1.setWarp wid { w with levels := lo :: rest }
         | some v =>
           let word := f.word v.slot
           let absent := absentLanes lv.win v (targetsOf word)
           let es := if absent.isEmpty then injEntries lv.win v word s.stamp else []
           let lo1 := { lo with frame := some (f.inject lv.win v s.stamp), spilled := false,
                                rcd := lo.rcd.filter (fun q => !es.any (fun x => x.slot == q.slot && x.lane == q.lane)) ++ es }
           let s2 := s1.setWarp wid { w with levels := lo1 :: rest }
           if absent.isEmpty then s2.retranslate wid f.fid
           else s2.enterTrap wid cIllegalTarget v.slot (leaderOf f.mask) (absent.foldl (fun m l => m ||| laneBit l) 0) f.blk.addr f.mask)
       | _, _ => s1.setWarp wid { w with levels := { lo with spilled := false } :: rest })
    | _ => s

end Sys2Proof.Machine
end

