-- ==== Sys2Proof/Machine/BlockCheck.lean ====
section
/-!
DEFINITION. Sys2Proof/Machine/BlockCheck.lean: the header of a block (R35 to R40) and checks 3, 4, 6 and 7 of block decode
(R36 to R38, R42 to R45, R51, R52, R63).
-/
namespace Sys2Proof.Machine

/-! ## The header (R35 to R38) -/

/-- The four header words. -/
structure Head where
  h0 : Insn
  h1 : Insn
  h2 : Insn
  h3 : Insn
  deriving DecidableEq, Repr

def Head.nslot (h : Head) : Nat := (h.h0.extractLsb' 18 6).toNat + 1
def Head.nread (h : Head) : Nat := (h.h0.extractLsb' 14 4).toNat
def Head.nwrite (h : Head) : Nat := (h.h0.extractLsb' 10 4).toNat
def Head.landing (h : Head) : Bool := h.h0.getLsbD 9
def Head.relscope (h : Head) : Nat := (h.h0.extractLsb' 6 3).toNat
def Head.acq (h : Head) : Bool := h.h0.getLsbD 5
def Head.specok (h : Head) : Bool := h.h0.getLsbD 4
def Head.nsink (h : Head) : Nat := (h.h1.extractLsb' 0 6).toNat
/-- Field Wn. -/
def Head.wreg (h : Head) (n : Nat) : BitVec 6 := if n < 5 then h.h2.extractLsb' (6 * n) 6 else h.h3.extractLsb' (6 * (n - 5)) 6
def Head.wregs (h : Head) : List (BitVec 6) := (List.range h.nwrite).map h.wreg

/-- The sum of the eight nibbles of a word. -/
def nibbles (w : Insn) : Nat := (List.range 8).foldl (fun a k => a + (w.extractLsb' (4 * k) 4).toNat) 0
/-- Check 3 passes: MARK, and the nibble sum of R36. -/
def Head.valid (h : Head) : Bool :=
  h.h0.extractLsb' 24 8 == 0xB7#8 && (nibbles h.h0 + nibbles h.h1 + nibbles h.h2 + nibbles h.h3) % 16 == 0

def hasDup : List (BitVec 6) → Bool
  | [] => false
  | x :: r => r.contains x || hasDup r

/-- Check 4 fails. -/
def Head.bad4 (h : Head) : Bool :=
  decide (8 < h.nread) || decide (8 < h.nwrite) || h.relscope == 7 || (h.acq && h.relscope == 0) || h.h2.extractLsb' 30 2 != 0#2 ||
    ((List.range 8).filter (fun n => decide (h.nwrite ≤ n))).any (fun n => h.wreg n != 0) || hasDup h.wregs

/-- The block of a header at an address, from its read and slot words. -/
def Head.block (h : Head) (addr : Word) (ws : List Insn) : Block :=
  { addr := addr, nread := h.nread, nslot := h.nslot, landing := h.landing, acq := h.acq, specok := h.specok, relscope := h.relscope,
    nsink := h.nsink, pfBase := (h.h3.extractLsb' 26 6).toNat, pfLen := (h.h3.extractLsb' 18 8).toNat, wregs := h.wregs,
    reads := ws.take h.nread, slots := (ws.drop h.nread).take h.nslot }

/-! ## Check 6 -/

/-- A target value that R43 or R44 calls illegal. -/
def Block.tgtIllegal (b : Block) (lits : List Nat) (t : BitVec 9) : Bool :=
  if t = 0x1FF#9 then false
  else if 448 ≤ t.toNat then decide (b.wregs.length ≤ t.toNat - 448)
  else decide (b.nslot ≤ t.toNat % 128) || lits.contains (t.toNat % 128)

/-- The word of a slot counts in NSINK (R37). -/
def countsSink (w : Insn) : Bool := if fmtOf w == .K then false else ((opRow (opOf w)).map (·.sink)).getD false
/-- The literals that a slot's word claims (R49). -/
def litCount (w : Insn) : Nat := if opOf w = 5 then (if fMd w &&& 3#3 = 3#3 then 2 else 1) else 0

/-- The slots with an illegal field of their own: opcode 0x000, literals past NSLOT, an illegal target, or a memory-order slot
that another slot carries too. -/
def Block.bad6Slots (b : Block) : List Nat :=
  let ps := b.insns
  let lits := b.litSlots
  (ps.filter (fun p => opOf p.2 == 0 || decide (b.nslot ≤ p.1 + litCount p.2 ∧ litCount p.2 ≠ 0) || (targetsOf p.2).any (b.tgtIllegal lits) ||
    (match mosOf p.2 with
     | some m => ps.any (fun q => q.1 != p.1 && mosOf q.2 == some m)
     | none => false))).map (·.1)
/-- A read word breaks R42 to R44. -/
def Block.badReads (b : Block) : Bool :=
  b.reads.any (fun w => w.extractLsb' 30 2 != 0#2 || w.extractLsb' 18 6 != 0#6 || b.tgtIllegal b.litSlots (fTa w) || b.tgtIllegal b.litSlots (fTb w))
/-- SINKS is wrong (R37). -/
def Block.badSinks (b : Block) (h1 : Insn) : Bool :=
  h1.extractLsb' 6 26 != 0 || (b.insns.filter (fun p => countsSink p.2)).length != b.nsink

/-- The lowest slot involved; 0 where none is (R52). -/
def lowestOf : List Nat → Nat
  | [] => 0
  | x :: r => r.foldl min x

/-- Check 6: the slot to report where it fails. -/
def Block.check6 (b : Block) (h1 : Insn) : Option Nat :=
  if b.badReads || b.badSinks h1 || !b.bad6Slots.isEmpty then some (lowestOf b.bad6Slots) else none

/-! ## Check 7 -/

/-- The producers of a block with the targets they name: none for a read word, a slot otherwise. -/
def Block.producers (b : Block) : List (Option Nat × Nat × Nat) :=
  (b.reads.map (fun r => [fTa r, fTb r].filterMap (fun t => (tgtPort t).map (fun p => ((none : Option Nat), p.1, p.2))))).flatten ++
    (b.insns.map (fun q => (targetsOf q.2).filterMap (fun t => (tgtPort t).map (fun p => (some q.1, p.1, p.2))))).flatten
/-- The producers of one operand or write slot. -/
def prodOf (ps : List (Option Nat × Nat × Nat)) (port ix : Nat) : List (Option Nat) :=
  (ps.filter (fun p => p.2.1 == port && p.2.2 == ix)).map (·.1)

/-- A word takes the operand of a port; an unassigned code takes those of a, b and c that are targeted (R45). -/
def takesPort (w : Insn) (port : Nat) (targeted : Bool) : Bool :=
  if fmtOf w == .K then false
  else if port = 3 then fPm w != 0#2
  else match opRow (opOf w) with
    | some r => decide (port < r.nops)
    | none => targeted
/-- A word has no output token, and a target (R63). -/
def outBroken (w : Insn) : Bool :=
  fmtOf w != .K && (match opRow (opOf w) with
    | some r => !r.out
    | none => false) && (targetsOf w).any (fun t => t != 0x1FF#9)

/-- Whether the producer rules fail, and the slots involved (R45, R52, R63). An operand of an unassigned code that two producers target breaks
rule 1, although R45 says that such a slot meets it by construction (DESIGN CHOICE, log entry 33). -/
def Block.rules7 (b : Block) : Bool × List Nat :=
  let ps := b.producers
  let ops := (b.insns.map (fun q => (List.range 4).map (fun port =>
    let l := prodOf ps port q.1
    if takesPort q.2 port (!l.isEmpty) then (if l.length = 1 then (false, []) else (true, q.1 :: l.filterMap id))
    else (!l.isEmpty, l.filterMap id)))).flatten
  let wrs := (List.range b.wregs.length).map (fun n =>
    let l := prodOf ps 4 n
    if l.length = 1 then (false, []) else (true, l.filterMap id))
  let outs := b.insns.map (fun q => if outBroken q.2 then (true, [q.1]) else (false, []))
  let cyc := b.insns.map (fun q => if b.derives q.1 q.1 then (true, [q.1]) else (false, []))
  let all := ops ++ wrs ++ outs ++ cyc
  (all.any (·.1), (all.map (·.2)).flatten)
/-- Check 7: the slot to report where it fails. -/
def Block.check7 (b : Block) : Option Nat := if b.rules7.1 then some (lowestOf b.rules7.2) else none

/-- Bytes of a block up to the last slot (R34). -/
def Block.bytes (b : Block) : Nat := 16 + 4 * b.nread + 4 * b.nslot

end Sys2Proof.Machine
end

