-- ==== Sys2Proof/Machine/Fetch.lean ====
section
/-!
DEFINITION. Sys2Proof/Machine/Fetch.lean: instruction fetch (R309 to R311, R382), frames that two warps of a slot share (R328),
and block decode and start (R34, R42, R51 to R53, R258, R290).
-/
namespace Sys2Proof.Machine

/-! ## Lines of code (R309 to R311) -/

/-- What a line of code comes to: its bytes and poisoned sectors; a wait for a recipe's slice, or for a physical line of a fill entry; or a
cause. -/
inductive CodeRes where
  | line (l : Line) (pois : BitVec 4)
  | miss (idx : Nat)
  | away (line : Nat)
  | fault (cause : BitVec 8)
  deriving DecidableEq, Repr

/-- The fetch cause of a page cause (R51). -/
def fetchCause (c : BitVec 8) : BitVec 8 :=
  if c = cPageNotPresent then cIfetchNotPresent else if c = cPageProtection then cIfetchProtection else c

/-- The execute permission of a page, and never the hall store window (R28, R311). -/
def State.codeXlat (s : State) (core : Nat) (w : Warp) (va : Nat) : State × Except (BitVec 8) Xlat :=
  if 2 ^ 57 ≤ va ∨ (s.inWindow w va).isSome then (s, .error cIfetchProtection)
  else match s.xlatNow core w.ctx va with
    | (s1, .error c) => (s1, .error (fetchCause c))
    | (s1, .ok x) => if s1.pageOk x .ex va then (s1, .ok x) else (s1, .error cIfetchProtection)

/-- A line of code comes to a cluster. -/
def State.icFill (s : State) (cluster ln : Nat) (c : CLine) : State :=
  s.updCluster cluster (fun k => { k with ic := mset (withRoom 3 Config.l1Sets Config.l1Ways (Config.victim s.tick) ln k.ic) ln c })

/-- A line of code: recipe tiles first (R290), then the cluster's instruction cache; a miss attaches to the line's fill entry, or takes one
(R310). -/
def State.codeLine1 (s : State) (core : Nat) (w : Warp) (va : Nat) (x : Xlat) : State × CodeRes :=
  match s.recRead w.ctx w.wg va with
  | .line l p => (s.recTouch w.ctx va, .line l p)
  | .miss i => (s.spawnSlice w.ctx i core, .miss i)
  | .refused c => (s, .fault c)
  | .plain =>
    let ln := x.phys va / 128
    let k := s.cluster (clusterOfCore core)
    if s.physKind (x.phys va) = .bad then (s, .fault cIfetchProtection)
    else match (w.fetch.got.find? (fun g => g.1 == ln)).map (·.2) <|> mget k.ic ln with
      | some c => (s, .line c.data c.pois)
      | none => (if k.fills.any (fun f => f.line == ln) then s else s.fillAsk (clusterOfCore core) w.ctx (x.phys va) x.key, .away ln)

/-- The line that holds a byte of code, for a warp; a slice that has failed gives its cause, and one that has passed the line (R290). -/
def State.codeLine (s : State) (core : Nat) (w : Warp) (va : Nat) (x : Xlat) : State × CodeRes :=
  match w.fetch.fails.find? (fun p => p.1 / 128 == va / 128), w.fetch.tiles.find? (fun p => p.1 == va / 128) with
  | some p, _ => (s, .fault p.2)
  | none, some p => (s, .line p.2.data p.2.pois)
  | none, none => s.codeLine1 core w va x

/-- What a range of code comes to: its words, a wait, or a cause with the lowest byte concerned (R51, R52). -/
inductive CodeWords where
  | words (ws : List Insn)
  | wait (recipes lines : List Nat)
  | fault (cause : BitVec 8) (a : Nat)
  deriving DecidableEq, Repr

/-- The lowest of `n` bytes at `a` that lies in a poisoned sector of line `ln`. -/
def poisByte (a n ln : Nat) (pois : BitVec 4) : Option Nat :=
  (((List.range 4).filter (fun k => pois.getLsbD k && overlaps a n (128 * ln + 32 * k) 32)).map (fun k => max a (128 * ln + 32 * k))).head?

/-- The words of `n` bytes of code at `a`: the pages first, then the lines. Where one check finds both a poisoned sector and a line whose slice
has failed, R51 and R52 do not say which is taken: every line is waited for, and the one at the lowest address gives the cause (DESIGN CHOICE, log
entry 40). -/
def State.codeWords (s : State) (core : Nat) (w : Warp) (a n : Nat) : State × CodeWords :=
  let lns := hintLines a n
  let r := lns.foldl (fun (t : State × List Xlat × Option (BitVec 8 × Nat)) ln =>
    match t.1.codeXlat core w (max a (128 * ln)) with
    | (s1, .ok x) => (s1, t.2.1 ++ [x], t.2.2)
    | (s1, .error c) => (s1, t.2.1, some (t.2.2.getD (c, max a (128 * ln))))) (s, [], none)
  match r.2.2 with
  | some (c, b) => (r.1, .fault c b)
  | none =>
    let q := (lns.zip r.2.1).foldl (fun (t : State × List (Nat × CodeRes)) p =>
      let u := t.1.codeLine core w (max a (128 * p.1)) p.2
      (u.1, t.2 ++ [(p.1, u.2)])) (r.1, [])
    let away := q.2.filterMap (fun p => match p.2 with
      | .away ln => some ln
      | _ => none)
    let miss := q.2.filterMap (fun p => match p.2 with
      | .miss _ => some (max a (128 * p.1))
      | _ => none)
    let bad := (q.2.filterMap (fun p => match p.2 with
      | .fault c => some (c, max a (128 * p.1))
      | .line _ po => (poisByte a n p.1 po).map (fun b => (cMemoryPoison, b))
      | _ => none)).head?
    if miss ≠ [] ∨ away ≠ [] then (q.1, .wait miss away)
    else match bad with
      | some (c, b) => (q.1, .fault c b)
      | none =>
        let byLine := q.2.map (fun p => match p.2 with
          | .line l _ => (p.1, l)
          | _ => (p.1, 0))
        (q.1, .words ((List.range (n / 4)).map (fun i => BitVec.ofNat 32 (lineBytes (mgetD byLine ((a + 4 * i) / 128) 0) ((a + 4 * i) % 128) 4))))

/-! ## Decode (R51) -/

/-- What decoding a block comes to. -/
inductive DecRes where
  | ok (b : Block)
  | wait (recipes lines : List Nat)
  | trap (cause : BitVec 8) (slot : Nat) (info : Word)
  deriving DecidableEq, Repr

def headOf (ws : List Insn) : Head := { h0 := ws.headD 0, h1 := (ws.drop 1).headD 0, h2 := (ws.drop 2).headD 0, h3 := (ws.drop 3).headD 0 }

/-- Checks 1 to 7, in order. -/
def State.decodeAt (s : State) (core : Nat) (w : Warp) (addr : Word) : State × DecRes :=
  let a := addr.toNat
  if a % 16 ≠ 0 then (s, .trap cBlockFormat 0 0)
  else if 2 ^ 57 ≤ a then (s, .trap cIfetchProtection 0 addr)
  else match s.codeWords core w a 16 with
    | (s1, .wait m l) => (s1, .wait m l)
    | (s1, .fault c b) => (s1, .trap c 0 (toWord b))
    | (s1, .words hw) =>
      let h := headOf hw
      if !h.valid || h.bad4 then (s1, .trap cBlockFormat 0 0)
      else match s1.codeWords core w (a + 16) (4 * (h.nread + h.nslot)) with
        | (s2, .wait m l) => (s2, .wait m l)
        | (s2, .fault c b) => (s2, .trap c 0 (toWord b))
        | (s2, .words ws) =>
          let b := h.block addr ws
          match b.check6 h.h1 with
          | some i => (s2, .trap cBlockFormat i 0)
          | none => match b.check7 with
            | some i => (s2, .trap cIllegalTarget i 0)
            | none => (s2, .ok b)

/-- The decoded blocks of an L0 buffer, newest first, that 16 KiB hold (R309). -/
def l0Take : List L0E → Nat → List L0E
  | [], _ => []
  | e :: r, n =>
    let k := (e.blk.bytes + 15) / 16 * 16
    if k ≤ n then e :: l0Take r (n - k) else []

/-- A core's L0 buffer may serve a warp's fetch of some bytes: none lies in the hall store window of the warp's grid, where it may not fetch
(R28), and, in a slice, none in a recipe tile, since the slice alone sees its staging copy there and may read only its sources (R293, R294). -/
def State.l0Open (s : State) (w : Warp) (a n : Nat) : Bool :=
  (match s.window w with
   | some (b, _) => !overlaps a n b 0x800000
   | none => true) && (!s.inSlice w || (match mget s.ctxs w.ctx with
   | some c => !c.recipeOver a n
   | none => true))
/-- The decoded block that a core's L0 buffer holds for a warp (R309, R382). -/
def State.l0Find (s : State) (core : Nat) (w : Warp) (addr : Word) : Option Block :=
  ((s.core core).l0.find? (fun e => e.ctx == w.ctx && e.blk.addr == addr)).map (·.blk)
/-- The block at an address, from the core's L0 buffer (R382) or by decoding it. -/
def State.blockAt (s : State) (core : Nat) (w : Warp) (addr : Word) : State × DecRes :=
  match (s.l0Find core w addr).filter (fun b => s.l0Open w addr.toNat b.bytes) with
  | some b => (s, .ok b)
  | none => match s.decodeAt core w addr with
    | (s1, .ok b) =>
      (if s1.l0Open w addr.toNat b.bytes then s1.updCore core (fun k => { k with l0 := l0Take ({ ctx := w.ctx, blk := b } :: k.l0) 16384 }) else s1, .ok b)
    | r => r

/-! ## Frames of a width-16 slot (R328) -/

/-- The two warps of a slot share its frame: the spare frames that no shadow frame takes serve the second warps of the core's oldest
pairs. -/
def State.sharing (s : State) (wid : Nat) (w : Warp) : Bool :=
  match s.partner wid w with
  | none => false
  | some (p, _) => !((s.pairsOn (s.coreOf w)).take (7 - s.shadows (s.coreOf w))).contains (max wid p)
/-- The warp may use a frame now; of two that share, the first holds it until it passes. -/
def State.holdsFrame (s : State) (wid : Nat) (w : Warp) : Bool :=
  !s.sharing wid w || w.shareHold || (match s.partner wid w with
    | some (_, v) => !v.shareHold && w.idx % 2 == 0
    | none => true)
/-- The partner is ready for the frame, and the warp has used it since it came. -/
def State.mustPass (s : State) (wid : Nat) (w : Warp) : Bool :=
  s.sharing wid w && w.shareUsed && (match s.partner wid w with
    | some (_, v) => decide (v.stat = .ready)
    | none => false)

/-! ## Block start -/

/-- Block fetch of a warp is stopped while its context is being saved (R339). -/
def State.fetchStopped (s : State) (w : Warp) : Bool :=
  s.ctxsw.busy && s.ctxsw.saving && s.ctxsw.ctx == w.ctx && s.ctxsw.halls.contains (s.hallOf w) && (match s.wgOf w with
    | some g => !g.alcove
    | none => true)

/-- Nothing that a warp's fetch waits for is still to come: no slice of a recipe, and no line of a fill entry of its cluster. -/
def State.fetchReady (s : State) (core : Nat) (w : Warp) : Bool :=
  w.fetch.waits.isEmpty && w.fetch.away.all (fun ln => !(s.cluster (clusterOfCore core)).fills.any (fun f => f.line == ln))

/-- The tokens that the read words deliver at block start, in every active lane (R42). -/
def Frame.begin (fid : Nat) (b : Block) (mask : Lanes) (w : Warp) (st : Start) : Frame :=
  let f0 : Frame := { fid := fid, blk := b, mask := mask, toks := [], deps := [], done := [], fired := [], sinks := [], bouts := [], swr := [],
                      spois := [], fres := [], yielded := false, waits := [], vec := none, start := st, samples := [] }
  b.reads.foldl (fun f r => (lanesOf mask).foldl (fun (f : Frame) l =>
    let k := (r.extractLsb' 24 6).toNat * 64 + l
    f.send [fTa r, fTb r] l (.value (mgetD w.regs k 0)) (mgetD w.regDeps k 0)) f) f0

/-- What the `SREG` slots of a block that starts now read (R129). -/
def State.startOf (s : State) (w : Warp) : Start :=
  { core := s.coreOf w, drophint := ((mget s.ctxs w.ctx).map (·.drophint)).getD 0, hregs := w.hregs }

/-- The scope at which the warp acquires before its block starts: what it owes (R257), and ACQ that acts as a fence (R258). -/
def startScope (w : Warp) (b : Block) : Nat := max w.acqOwed (if b.acqAtStart then b.relscope else 0)

/-- BLOCK_DECODE: the warp's next block is fetched and decoded, and starts; or its decode fault is taken; or what it needs is asked
for. -/
def execBlockDecode (wid : Nat) (s : State) : Out :=
  match s.warp wid with
  | none => .refused (.notEnabled "BLOCK_DECODE")
  | some w => match w.top with
    | none => .refused (.notEnabled "BLOCK_DECODE")
    | some lv =>
      let core := s.coreOf w
      if !(decide (w.stat = .ready) && lv.frame.isNone && lv.mask != 0 && w.stq.isEmpty && s.fetchReady core w && s.walkClear core w.ctx lv.pc.toNat 304 && s.holdsFrame wid w && !s.mustPass wid w
          && !s.fetchStopped w) then .refused (.notEnabled "BLOCK_DECODE")
      else match s.blockAt core w lv.pc with
        | (s1, .wait m l) => ran s (s1.updWarp wid (fun w => { w with fetch := w.fetch.wait m l }))
        | (s1, .trap c slot info) =>
          event s "BLOCK_DECODE" (s.postRoom w.ctx)
            ((s1.notePois w c info).takeTrap wid (c == cIfetchNotPresent || c == cIfetchProtection) c slot (leaderOf lv.mask) info lv.pc lv.mask)
        | (s1, .ok b) =>
          let sc := startScope w b
          event s "BLOCK_DECODE" (sc == 0 || s1.mayAcquire core sc)
            ((({ s1.acquire wid sc with nextId := s1.nextId + 1 } : State)).updWarp wid (fun w =>
              { (w.setFrame (Frame.begin s1.nextId b lv.mask w (s1.startOf w))) with acqOwed := 0, fetch := Fetching.idle, lastDispatch := s1.time, served := s1.nextId }))

/-- The line of a fill entry is delivered to every core of the cluster that is attached to it: to the warps whose fetch waits for it (R310). -/
def State.fillGive (s : State) (cluster line : Nat) (c : CLine) : State :=
  { s with warps := s.warps.map (fun p => (p.1, if clusterOfCore (s.coreOf p.2) = cluster then { p.2 with fetch := p.2.fetch.arrive line c } else p.2)) }
/-- ICACHE_FILL_ARRIVE: the line of a fill entry comes to the cluster's cache and, in the same clock, to every core attached to it; its entry becomes
free (R310). -/
def execIcacheFillArrive (cluster line : Nat) (s : State) : Out :=
  match (s.cluster cluster).fills.find? (fun f => f.line == line && f.got.isSome) with
  | none => .refused (.notEnabled "ICACHE_FILL_ARRIVE")
  | some f => ran s (match f.got with
    | some c => ((s.icFill cluster line c).fillGive cluster line c).fillFree cluster line
    | none => s)

end Sys2Proof.Machine
end

