-- ==== Sys2Proof/Machine/Commit.lean ====
section
/-!
DEFINITION. Sys2Proof/Machine/Commit.lean: completion, commit and discard of a block (R84 to R89), its stores (R86, R197, R207,
R212, R213, R305, R397), the successor vote and divergence (R91 to R95), and the end of a level or a warp (R172, R173, R176).
-/
namespace Sys2Proof.Machine

/-! ## Completion (R88) -/

/-- Every slot has resolved in every active lane. -/
def Frame.complete (f : Frame) : Bool := f.vec.isNone && f.waits.isEmpty && f.blk.insns.all (fun p => f.allDone p.1)

/-- The poisoned sinks: key, lane and poison (R89). -/
def Frame.poisoned (f : Frame) : List (Nat × Nat × Tok) :=
  f.spois ++ ((List.range f.blk.wregs.length).map (fun n => (lanesOf f.mask).filterMap (fun l => match f.tok 4 n l with
    | some (.poison a b c) => some (64 + n, l, Tok.poison a b c)
    | _ => none))).flatten
/-- The one that R89 reports: lowest key, then lowest lane. -/
def reported : List (Nat × Nat × Tok) → Option (Nat × Nat × Tok)
  | [] => none
  | x :: r => some (r.foldl (fun (a : Nat × Nat × Tok) y => if y.1 < a.1 ∨ (y.1 = a.1 ∧ y.2.1 < a.2.1) then y else a) x)

/-- The lanes that hold no branch output, or more than one. -/
def Frame.offending (f : Frame) : Lanes :=
  (lanesOf f.mask).foldl (fun m l => if (f.bouts.filter (fun b => b.2.1 == l)).length = 1 then m else m ||| laneBit l) 0
/-- The lowest branch slot; 0 where there is none. -/
def Block.branchSlot (b : Block) : Nat :=
  lowestOf ((b.insns.filter (fun p => fmtOf p.2 != .K && decide (0x100 ≤ opOf p.2) && decide (opOf p.2 ≤ 0x105))).map (·.1))

/-! ## The writes of a block (R84, R88) -/

/-- The declared writes: a null leaves the lane's register unchanged. -/
def Warp.declared (w : Warp) (f : Frame) : Warp :=
  ((List.range f.blk.wregs.length).zip f.blk.wregs).foldl (fun w p => (lanesOf f.mask).foldl (fun (w : Warp) l =>
    match f.tok 4 p.1 l with
    | some (.value v) => { w with regs := msetD w.regs (p.2.toNat * 64 + l) v 0, regDeps := msetD w.regDeps (p.2.toNat * 64 + l) (f.dep 4 p.1 l) 0 }
    | _ => w) w) w

def insSlot (x : Nat × Nat × Nat × Word) : List (Nat × Nat × Nat × Word) → List (Nat × Nat × Nat × Word)
  | [] => [x]
  | y :: r => if x.1 < y.1 then x :: y :: r else y :: insSlot x r
/-- A special-register write; to the window, it is discarded outside every handler level (R18). -/
def Warp.swreg (w : Warp) (l n : Nat) (v : Word) : Warp :=
  if 0x0C0 ≤ n then { w with hregs := msetD w.hregs ((n - 0x0C0) * 64 + l) v 0 }
  else if w.depth = 0 then w
  else w.setTop (fun lv => { lv with win :=
    if n = 0x090 then { lv.win with d0 := mset lv.win.d0 l v }
    else if n = 0x091 then { lv.win with d1 := mset lv.win.d1 l v }
    else { lv.win with dkind := mset lv.win.dkind l (v &&& 15) } })
/-- The `SWREG` writes, in the order of their slots. -/
def Warp.swregs (w : Warp) (f : Frame) : Warp :=
  (f.swr.foldl (fun l x => insSlot x l) []).foldl (fun (w : Warp) x => w.swreg x.2.1 x.2.2.1 x.2.2.2) w

/-! ## The stores of a block (R86, R197, R207) -/

/-- `y` overwrites `x` where they overlap (R86). -/
def Sink.loses (x y : Sink) : Bool :=
  y.kind.isData && y.space == x.space && (List.range x.size).any (fun i => (y.byteAt (locOf x.xl (x.addr + i))).isSome) && (decide (x.lane < y.lane) || (x.lane == y.lane && decide (x.mos < y.mos)))
def insLane (x : Sink) : List Sink → List Sink
  | [] => [x]
  | y :: r => if x.lane < y.lane ∨ (x.lane = y.lane ∧ x.mos < y.mos) then x :: y :: r else y :: insLane x r

/-- The bytes of a store that stores of an earlier group of its block overwrite (R86): it leaves them alone. -/
def Sink.without (x : Sink) (earlier : List Sink) : Sink :=
  let ys := earlier.filter x.loses
  if !x.kind.isData || ys.isEmpty then x
  else { x with lost := BitVec.ofNat 8 (((List.range x.size).filter (fun i => ys.any (fun y => (y.byteAt (locOf x.xl (x.addr + i))).isSome))).foldl
    (fun a i => a + 2 ^ i) 0) }

/-- The release points inside a block, as memory-order slot and scope: the release fences that fired, each `STREL`, and each
`DISC` or `CLEAN`, which follow the writes before them at their homes. -/
def Frame.points (f : Frame) : List (Nat × Nat) :=
  f.blk.insns.filterMap (fun p =>
      if (opOf p.2 = 0x171 ∨ opOf p.2 = 0x172) ∧ mgetD f.fired p.1 0 ≠ 0 then some ((fMos p.2).toNat, (fMdM p.2).toNat) else none) ++
    f.sinks.filterMap (fun x => match x.kind with
      | .strel sc => some (x.mos, max sc f.blk.relscope)
      | .disc => some (x.mos, 4)
      | .clean => some (x.mos, 5)
      | _ => none)

/-- The memory-order slots behind which the block's successors wait until what lies below them is performed at a scope: release fences that
fired, and `CLEAN`, whose lines are to be written first (R207, R213). -/
def Frame.gates (f : Frame) : List Nat :=
  f.blk.insns.filterMap (fun p =>
      if (opOf p.2 = 0x171 ∨ opOf p.2 = 0x172) ∧ mgetD f.fired p.1 0 ≠ 0 then some ((fMos p.2).toNat + 1) else none) ++
    f.sinks.filterMap (fun x => if x.kind = .clean then some (x.mos + 1) else none)
/-- The scope at which a `FENCE.AR` that fired acquires, by its memory-order slot. -/
def Frame.arFences (f : Frame) : List (Nat × Nat) :=
  f.blk.insns.filterMap (fun p => if opOf p.2 = 0x172 ∧ mgetD f.fired p.1 0 ≠ 0 then some ((fMos p.2).toNat + 1, (fMdM p.2).toNat) else none)

/-- The sinks of a block in groups: each group waits for what the points at or below it order. Within a group the stores stand by lane and
memory-order slot, so that the winner of R86 is performed last; a winner in an earlier group keeps its bytes. `DISC` stands among the stores of
its group (DESIGN CHOICE, log entry 33). -/
def Frame.groups (f : Frame) (blk : Word) (level mode : Nat) : List StGroup :=
  let ps := f.points
  let keys := (ps.foldl (fun (l : List Nat) p => sadd l (p.1 + 1)) [0])
  let key (x : Sink) : Nat := (ps.filter (fun p => decide (p.1 ≤ x.mos))).foldl (fun a p => max a (p.1 + 1)) 0
  let group (k : Nat) : StGroup :=
    { scope := (ps.filter (fun p => decide (p.1 < k))).foldl (fun a p => max a p.2) 0,
      acq := ((f.arFences.filter (fun p => p.1 == k)).map (·.2)).foldl max 0, blk := blk, level := level, mode := mode,
      sinks := ((f.sinks.filter (fun x => key x == k)).map (fun x => x.without (f.sinks.filter (fun y => decide (key y < k))))).foldl (fun l x => insLane x l) [],
      fres := [] }
  (keys.filterMap (fun k => if (group k).sinks.isEmpty && !f.gates.contains k then none else some (group k))) ++
    (if f.fres.isEmpty then [] else [{ scope := 4, acq := 0, blk := blk, level := level, mode := mode, sinks := [], fres := f.fres.map (·.2) }])

/-- A store to global memory: written through the L1 to the hall and on (R305), or to the staging copy of its slice (R293). -/
def State.storeGlobal (s : State) (wid : Nat) (w : Warp) (g : StGroup) (x : Sink) : State :=
  let core := s.coreOf w
  match s.sliceOf w.wg with
  | some sl => (match (mget s.ctxs w.ctx).bind (fun c => mget c.recipes sl.idx) with
    | some r => ((List.range x.size).filter (fun i => !x.lost.getLsbD i)).foldl (fun (s : State) i =>
        let o := x.addr + i - r.tile
        { s with slices := s.slices.map (fun y => if y.ctx = sl.ctx ∧ y.idx = sl.idx then
            { y with staging := mset y.staging (o / 128) (mergeLine (mgetD y.staging (o / 128) 0)
                (placeAt ((x.data >>> (8 * i)).toNat % 256) (o % 128)) (byteMask (o % 128) 1)) } else y) }) s
    | none => s)
  | none =>
    let n0 := min x.size (128 - x.addr % 128)
    let part (s : State) (o n : Nat) : State :=
      if n = 0 then s
      else match physIn x.xl (x.addr + o) with
        | none => s
        | some (pa, key) =>
          let data := placeAt ((x.data >>> (8 * o)).toNat % 2 ^ (8 * n)) (pa % 128)
          let mask := byteMask (pa % 128) n &&& ~~~(BitVec.ofNat 128 (x.lost.toNat / 2 ^ o % 2 ^ n) <<< (pa % 128))
          if mask = 0 then s
          else (s.updCore core (fun c => c.l1Store (pa / 128) data mask)).globWrite core
            { tag := 0, wid := wid, copy := 0, ctx := w.ctx, pa := pa, data := data, mask := mask, pois := 0, va := x.addr + o, blk := g.blk,
              slot := x.slot, lane := x.lane, level := g.level, mode := g.mode, seq := s.seqOf w } key .store
    part (part s 0 n0) n0 (x.size - n0)

/-- A request of `DISC` or `CLEAN` for a line, before its mask is set: it writes no byte. -/
def lineWrite (s : State) (wid : Nat) (w : Warp) (g : StGroup) (x : Sink) (va pa : Nat) : PendW :=
  { tag := 0, wid := wid, copy := 0, ctx := w.ctx, pa := pa, data := 0, mask := 0, pois := 0, va := va, blk := g.blk, slot := x.slot, lane := x.lane,
    level := g.level, mode := g.mode, seq := s.seqOf w }
/-- `DISC` of one line (R212): a request to its home, behind the hall's earlier writes to its slice (R305, R346). -/
def State.discLine (s : State) (wid : Nat) (w : Warp) (g : StGroup) (x : Sink) (va : Nat) : State :=
  match s.inWindow w va with
  | some o => s.updStore (s.hallOf w) (s.gidOf w) (fun h => h.put o 128 0)
  | none => match physIn x.xl va with
    | none => s
    | some (pa, key) =>
      let p : PendW := { lineWrite s wid w g x va pa with mask := BitVec.allOnes 128 }
      match (mget s.ctxs w.ctx).bind (fun c => c.recipeAt va), s.physKind pa with
      | some _, .dev a => s.hallWrite (s.hallOf w) { p with pa := a, mask := 0 } key 3
      | some (i, r), _ => s.updRecipe w.ctx i (fun q => q.dropLine ((va - r.tile) / 128))
      | none, .dev _ => (s.updCore (s.coreOf w) (fun c => { c with l1 := mdel c.l1 (pa / 128) })).globWrite (s.coreOf w) p key .disc
      | none, _ => (s.dropEverywhere (pa / 128)).globWrite (s.coreOf w) p key .disc

/-- `CLEAN` of one line (R213): its home writes what is dirty there to its frame. Host memory has none. -/
def State.cleanLine (s : State) (wid : Nat) (w : Warp) (g : StGroup) (x : Sink) (va : Nat) : State :=
  if (s.inWindow w va).isSome then s
  else match physIn x.xl va with
    | none => s
    | some (pa, key) => match s.home pa with
      | .host _ => s
      | .bad => s
      | _ => s.globWrite (s.coreOf w) (lineWrite s wid w g x va pa) key .clean

/-- A store to scratch, a tile or a hall store: whole, or without the bytes that it leaves alone. -/
def State.spaceStore (s : State) (w : Warp) (sp : Space) (x : Sink) : State :=
  if x.lost = 0 then s.spaceWrite w sp x.addr x.size (x.data.toNat % 2 ^ (8 * x.size))
  else ((List.range x.size).filter (fun i => !x.lost.getLsbD i)).foldl (fun (s : State) i =>
    s.spaceWrite w sp (x.addr + i) 1 (x.data.toNat / 2 ^ (8 * i) % 256)) s

/-- Performs one sink. -/
def State.perform1Sink (s : State) (wid : Nat) (w : Warp) (g : StGroup) (x : Sink) : State :=
  let near (k : Nat → State) : State := match x.space with
    | .scratch wg => k wg
    | _ => s
  let lines := (List.range (x.size / 128)).map (fun i => x.addr + 128 * i)
  let store : State := match x.space with
    | .global => s.storeGlobal wid w g x
    | sp => s.spaceStore w sp x
  match x.kind with
  | .store => store
  | .strel _ => store
  | .storeFE => near (fun wg => ((s.feSettleRange wg x.addr 8).spaceStore w x.space x).updMem wg (fun m => m.fill x.addr 8))
  | .feset => near (fun wg => (s.feSettleRange wg x.addr x.size).updMem wg (fun m => m.fill x.addr x.size))
  | .feclr => near (fun wg => (s.feSettleRange wg x.addr x.size).updMem wg (fun m => m.empt x.addr x.size))
  | .disc => lines.foldl (fun (s : State) va => s.discLine wid w g x va) s
  | .clean => lines.foldl (fun (s : State) va => s.cleanLine wid w g x va) s

/-- Performs one sink; the warp's reads of a later block do not stand before it where they meet (R256). -/
def State.perform (s : State) (wid : Nat) (w : Warp) (g : StGroup) (x : Sink) : State :=
  let t := s.perform1Sink wid w g x
  if x.kind == .clean || x.kind == .feset || x.kind == .feclr then t
  else t.updWarp wid (fun v => match x.space with
    | .global => if x.kind == .disc then { v with early := v.early.filter (fun y => y.space != .global) }
                 else (pagesOf x.addr x.size).foldl (fun (v : Warp) pg => match physIn x.xl (max x.addr (pg * 65536)) with
                   | some (pa, _) => v.wrote .global pa x.size
                   | none => v) v
    | sp => v.wrote sp x.addr x.size)

/-- The warp parked under a handle becomes ready, on the part or in a save image; its block acquires at device scope (R177, R337). -/
def State.resumeWarp (s : State) (ok : Nat → Bool) (h : Word) : State :=
  let go (w : Warp) : Warp := if w.stat = .parked h ∧ ok w.ctx then { w with stat := .ready, acqOwed := max w.acqOwed 4 } else w
  { s with warps := s.warps.map (fun p => (p.1, go p.2)),
           images := s.images.map (fun i => { i with warps := i.warps.map (fun p => (p.1, go p.2)) }) }
/-- `FRESUME` by a warp of context `ctx`: it must be the supervisor of the parked warp's fault queue. -/
def State.fresume (s : State) (ctx : Nat) (h : Word) : State :=
  s.resumeWarp (fun c => ((mget s.ctxs c).bind (·.cfg.servicer)) == some ctx) h

/-- A sink whose order among those before it nobody can tell: a plain store that overlaps none of them. -/
def Sink.freeOf (x : Sink) (before : List Sink) : Bool :=
  x.kind == .store && before.all (fun y => y.kind == .store && (y.space != x.space || (List.range x.size).all (fun i => (y.byteAt (locOf x.xl (x.addr + i))).isNone)))
/-- The sink of a group that is performed next: others may see a block's stores in any order (R86, R263), so a free value picks one, and
where that is bound to its place the first goes. -/
def nextSink (tick : Nat) (xs : List Sink) : Nat :=
  let i := Config.order tick xs.length % xs.length
  match xs[i]? with
  | some x => if x.freeOf (xs.take i) then i else 0
  | none => 0
/-- Performs sinks of a group one after another, at most `n`; others may see some of them before the rest (R263), so a free value says where
it pauses. -/
def State.performSome (s : State) (wid : Nat) (w : Warp) (g : StGroup) : Nat → List Sink → State × List Sink
  | 0, xs => (s, xs)
  | n + 1, xs =>
    let i := nextSink s.tick xs
    match xs[i]? with
    | none => (s, xs)
    | some x =>
      let s1 := s.perform wid w g x
      let rest := xs.eraseIdx i
      if !rest.isEmpty && Config.pause s.tick rest.length then (s1, rest) else s1.performSome wid w g n rest
/-- Performs groups while what each waits for has been released, and acquired where a `FENCE.AR` stands before it (R207); the rest stays with the
warp. -/
def State.runGroups (s : State) (wid : Nat) (w : Warp) : List StGroup → State × List StGroup
  | [] => (s, [])
  | g :: r =>
    if s.released (s.hallOf w) w.ctx g.scope && (g.acq == 0 || s.mayAcquire (s.coreOf w) g.acq) then
      match (s.acquire wid g.acq).performSome wid w g g.sinks.length g.sinks with
      | (s1, []) => (g.fres.foldl (fun (s : State) h => s.fresume w.ctx h) s1).runGroups wid w r
      | (s1, xs) => (s1, { g with sinks := xs } :: r)
    else (s, g :: r)

/-! ## The successor vote and divergence (R91 to R95) -/

/-- Lanes by successor address, lowest address first. -/
def addPath (a : Word) (l : Nat) : List (Word × Lanes) → List (Word × Lanes)
  | [] => [(a, laneBit l)]
  | (b, m) :: r => if a = b then (b, m ||| laneBit l) :: r else if a.toNat < b.toNat then (a, laneBit l) :: (b, m) :: r else (b, m) :: addPath a l r
def votePaths (outs : List (Nat × Nat × BOut)) : List (Word × Lanes) :=
  outs.foldl (fun ps o => match o.2.2 with
    | .succ a => addPath a o.2.1 ps
    | _ => ps) []
def lanesWith (outs : List (Nat × Nat × BOut)) (k : BOut) : Lanes :=
  outs.foldl (fun m o => if o.2.2 = k then m ||| laneBit o.2.1 else m) 0

/-- The running path of a record changes. -/
def DivRec.updRunning (r : DivRec) (f : Path → List Path) : DivRec :=
  { r with paths := (r.paths.map (fun p => if p.st = .running then f p else [p])).flatten }
def DivRec.withExited (r : DivRec) (gone : Lanes) : DivRec :=
  if gone = 0 then r else { r with paths := r.paths ++ [{ addr := 0, mask := gone, st := .exited }] }
/-- The path of the lowest address. After a replacement (R94) two paths of a record may have the same address, and R93 does not say which goes
first: the one that stands first in the record does (DESIGN CHOICE, log entry 41). -/
def lowestPath : List Path → Option Path
  | [] => none
  | p :: r => some (r.foldl (fun a q => if q.addr.toNat < a.addr.toNat then q else a) p)

/-- R93: which path runs next. `lv.mask` is zero where no lane remains. -/
def Level.settle : Nat → Level → Level
  | 0, lv => lv
  | n + 1, lv => match lv.div with
    | [] => lv
    | r :: rs =>
      match r.paths.find? (fun p => p.st = .running) with
      | some p => { lv with pc := p.addr, mask := p.mask }
      | none => match lowestPath (r.paths.filter (fun p => p.st = .runnable)) with
        | some p => { lv with pc := p.addr, mask := p.mask, div := { r with paths := r.paths.map (fun q => if q = p then { q with st := .running } else q) } :: rs }
        | none =>
          let parked := r.paths.filter (fun p => p.st = .parked)
          match lowestPath parked with
          | none => (match rs with
            | [] => { lv with mask := 0, div := [] }
            | d :: ds => Level.settle n { lv with div := d.updRunning (fun p => [{ p with st := .exited }]) :: ds })
          | some p =>
            let m := (parked.filter (fun q => q.addr == p.addr)).foldl (fun m q => m ||| q.mask) 0
            let here : Path := { addr := p.addr, mask := m, st := .running }
            if parked.all (fun q => q.addr == p.addr) then
              (match rs with
               | [] => { lv with pc := p.addr, mask := m, div := [] }
               | d :: ds => Level.settle n { lv with div := d.updRunning (fun _ => [here]) :: ds })
            else { lv with pc := p.addr, mask := m,
                           div := { r with paths := here :: r.paths.filter (fun q => !(q.st == .parked && q.addr == p.addr)) } :: rs }

/-- The outputs of a committed block, as the level's record takes them. `land` says which successors are landings. Lanes that exit leave at
once where the level is undiverged; else they form an exited path of the innermost record, that of the split where the others split, and leave
at its pop (R91, R95). -/
def Level.voted (lv : Level) (outs : List (Nat × Nat × BOut)) (land : Word → Bool) : Level :=
  let ret := lanesWith outs .ret
  let ext := lanesWith outs .exit
  let gone := ret ||| ext
  let l0 := { lv with returned := lv.returned ||| ret, exited := lv.exited ||| ext, frame := none, rcd := [] }
  let paths := votePaths outs
  let fresh := paths.map (fun p => ({ addr := p.1, mask := p.2, st := if land p.1 then .parked else .runnable } : Path))
  match lv.div, paths with
  | [], [] => { l0 with mask := 0 }
  | [], [p] => { l0 with pc := p.1, mask := p.2 }
  | [], _ => { l0 with div := [{ parent := lv.mask &&& ~~~gone, paths := fresh }] }
  | r :: rs, [] => { l0 with div := r.updRunning (fun p => [{ p with st := .exited }]) :: rs }
  | r :: rs, [p] =>
    { l0 with div := (r.updRunning (fun q => [{ q with addr := p.1, mask := p.2, st := if land p.1 then .parked else .running }])).withExited gone :: rs }
  | r :: rs, _ =>
    if lv.div.length < 16 then
      { l0 with div := ({ parent := lv.mask, paths := fresh } : DivRec).withExited gone :: r :: rs }
    else { l0 with div := (r.updRunning (fun _ => fresh)).withExited gone :: rs }
/-- The vote of a committed block: its outputs, then the path that runs next (R91 to R95). -/
def Level.vote (lv : Level) (outs : List (Nat × Nat × BOut)) (land : Word → Bool) : Level := (lv.voted outs land).settle 32
/-- A record has been popped: what comes at or after the landing is ordered after every path's accesses (R93, R256). -/
def Level.popped (lv : Level) (outs : List (Nat × Nat × BOut)) (land : Word → Bool) : Bool :=
  decide ((lv.vote outs land).div.length < (lv.voted outs land).div.length)

/-- The successors that the LANDING test reads: none where the warp stays undiverged. -/
def Level.testAddrs (lv : Level) (outs : List (Nat × Nat × BOut)) : List Word :=
  let ps := votePaths outs
  if lv.div.isEmpty && decide (ps.length ≤ 1) then [] else ps.map (·.1)

/-- What the LANDING test of one successor finds. -/
inductive LandRes where
  | is (b : Bool)
  | wait (recipes lines : List Nat)
  deriving DecidableEq, Repr
/-- The header is read only to learn whether LANDING is set; one that cannot be read as a valid header is no landing (R93). -/
def State.landing (s : State) (core : Nat) (w : Warp) (a : Word) : State × LandRes :=
  match (s.l0Find core w a).filter (fun _ => s.l0Open w a.toNat 16) with
  | some b => (s, .is b.landing)
  | none =>
    if a.toNat % 16 ≠ 0 ∨ 2 ^ 57 ≤ a.toNat then (s, .is false)
    else match s.codeWords core w a.toNat 16 with
      | (s1, .wait m l) => (s1, .wait m l)
      | (s1, .fault _ _) => (s1, .is false)
      | (s1, .words ws) => (s1, .is ((headOf ws).valid && (headOf ws).landing))
/-- What a test waits for. -/
def LandRes.waits : LandRes → List Nat × List Nat
  | .is _ => ([], [])
  | .wait m l => (m, l)
def State.landings (s : State) (core : Nat) (w : Warp) (l : List Word) : State × List (Word × LandRes) :=
  l.foldl (fun (t : State × List (Word × LandRes)) a => let r := t.1.landing core w a; (r.1, t.2 ++ [(a, r.2)])) (s, [])

/-! ## The end of a level (R172, R173, R176) -/

/-- No lane of the innermost level remains: the warp ends, or the level returns. -/
def State.endLevel (s : State) (wid : Nat) : State :=
  match s.warp wid with
  | none => s
  | some w => match w.top with
    | none => s
    | some lv =>
      if w.depth = 0 ∨ lv.exited ≠ 0 then (s.unhold w wid lv).warpEnd wid
      else s.levelReturn wid

/-- Where every group of the warp's committed blocks is performed and no lane of its level remains, the level ends. -/
def State.afterCommit (s : State) (wid : Nat) : State :=
  match s.warp wid with
  | none => s
  | some w => match w.top with
    | none => s
    | some lv => if lv.frame.isNone && lv.mask == 0 && w.stq.isEmpty then s.endLevel wid else s

/-! ## BLOCK_COMMIT -/

/-- The block of a warp commits, once it is known which successors are landings. -/
def State.commit (s : State) (wid : Nat) (w : Warp) (lv : Level) (f : Frame) (land : Word → Bool) : State :=
  let gang := ((s.wgOf w).map (·.gang)).getD 0
  let w1 := (w.declared f).swregs f
  let w2 := { w1 with stamp := if f.yielded then s.time else w.stamp, served := if f.yielded then s.nextId else w.served, shareUsed := true, fetch := Fetching.idle }
  let r := (s.setWarp wid w2).runGroups wid w2 (f.groups f.blk.addr w.depth (modeCode w.modeNow))
  let s1 := r.1.updWarp wid (fun x => { (x.setTop (fun _ => (({ lv with win := (x.top.map (·.win)).getD lv.win } : Level).vote f.bouts land))) with stq := r.2 })
  let s1 := if lv.popped f.bouts land then s1.updWarp wid (fun x => x.ordered s1.stamp) else s1
  (s1.afterCommit wid).reapAll (s.gangWgs gang)

/-- The groups of a committed block's stores that may go are performed. -/
def State.nextGroups (s : State) (wid : Nat) (w : Warp) : State :=
  let r := s.runGroups wid w w.stq
  r.1.updWarp wid (fun x => { x with stq := r.2 })
/-- The workgroups of a warp's gang that have ended and that nothing names go. -/
def State.reapOf (s : State) (w : Warp) (t : State) : State := t.reapAll (s.gangWgs (((s.wgOf w).map (·.gang)).getD 0))

/-- BLOCK_COMMIT: a complete block commits, or is discarded and traps (R88 to R90); or the next group of a committed block's
stores is performed; where the end of a level with the last of them finds no room for its fault record, it waits (R335). -/
def execBlockCommit (wid : Nat) (s : State) : Out :=
  match s.warp wid with
  | none => .refused (.notEnabled "BLOCK_COMMIT")
  | some w => match w.top with
    | none => .refused (.notEnabled "BLOCK_COMMIT")
    | some lv => match lv.frame with
      | none =>
        (match w.stq with
         | [] =>
           let t := s.afterCommit wid
           event s "BLOCK_COMMIT" (lv.mask == 0 && s.postsFit t w.ctx) (s.reapOf w t)
         | g :: _ =>
           let s1 := s.nextGroups wid w
           let t := s1.afterCommit wid
           event s "BLOCK_COMMIT" (s.released (s.hallOf w) w.ctx g.scope && (g.acq == 0 || s.mayAcquire (s.coreOf w) g.acq)) (s.reapOf w (if s.postsFit t w.ctx then t else s1)))
      | some f =>
        let core := s.coreOf w
        if !(decide (w.stat = .ready) && f.complete && s.fetchReady core w) then .refused (.notEnabled "BLOCK_COMMIT")
        else match reported f.poisoned with
          | some (_, lane, .poison slot cause info) =>
            event s "BLOCK_COMMIT" (s.postRoom w.ctx)
              (s.reapOf w (s.takeTrap wid (sinkToFaultQueue cause) cause slot.toNat lane info f.blk.addr f.mask))
          | _ =>
            if f.offending ≠ 0 then
              event s "BLOCK_COMMIT" (s.postRoom w.ctx)
                (s.reapOf w (s.takeTrap wid false cIllegalTarget f.blk.branchSlot (leaderOf f.offending) f.offending f.blk.addr f.mask))
            else
              let as := lv.testAddrs f.bouts
              let r := s.landings core w as
              let m := (r.2.map (fun p => p.2.waits.1)).flatten
              let l := (r.2.map (fun p => p.2.waits.2)).flatten
              if !(as.all (fun a => s.walkClear core w.ctx a.toNat 16)) then .refused (.notEnabled "BLOCK_COMMIT")
              else if m ≠ [] ∨ l ≠ [] then ran s (r.1.updWarp wid (fun w => { w with fetch := w.fetch.wait m l }))
              else
                let t := r.1.commit wid w lv f (fun a => r.2.contains (a, .is true))
                event s "BLOCK_COMMIT" (s.released (s.hallOf w) w.ctx f.blk.relscope && s.postsFit t w.ctx) t

end Sys2Proof.Machine
end

