-- ==== Sys2Proof/Machine/Control.lean ====
section
/-!
DEFINITION. Sys2Proof/Machine/Control.lean: branches, calls, exit, software traps, yield, handler return and resume
(R168 to R177).
-/
namespace Sys2Proof.Machine

/-- The address of the block under the cursor. -/
def Env.blockAddr (e : Env) : Word := e.f.blk.addr

/-- A successor relative to its block, modulo 2^57 (R48). -/
def relSucc (a : Word) (off : Int) : Word := zx (a + BitVec.ofInt 64 (16 * off)) 57

/-- The link: the byte after the calling block's padding (R170). -/
def Block.link (b : Block) : Word := b.addr + toWord (16 * ((16 + 4 * b.nread + 4 * b.nslot + 15) / 16))

/-- A branch: one branch output in each lane where it fires, and a link to its targets. -/
def branchSlot (s : State) (pm : BitVec 2) (nops : Nat) (ts : List (BitVec 9)) (k : Env → Word → BOut) : Out :=
  slotL s pm false nops ts true (fun e _ _ a _ _ => .branch (k e a) (.value e.f.blk.link))

/-- `BRI` (R169). -/
def execBri (pm : BitVec 2) (off : BitVec 21) (s : State) : Out := branchSlot s pm 0 [] (fun e _ => .succ (relSucc e.blockAddr off.toInt))
/-- `BR` (R169, R171). -/
def execBr (pm : BitVec 2) (s : State) : Out := branchSlot s pm 1 [] (fun _ a => .succ a)
/-- `CALLI` (R169, R170). -/
def execCalli (pm : BitVec 2) (imm : BitVec 12) (t : BitVec 9) (s : State) : Out :=
  branchSlot s pm 0 [t] (fun e _ => .succ (relSucc e.blockAddr imm.toInt))
/-- `CALL` (R169, R170). -/
def execCall (pm : BitVec 2) (tb ta : BitVec 9) (s : State) : Out := branchSlot s pm 1 [ta, tb] (fun _ a => .succ a)
/-- `RET` (R169, R171). -/
def execRet (pm : BitVec 2) (s : State) : Out := branchSlot s pm 1 [] (fun _ a => .succ a)
/-- `EXIT` (R169, R172). -/
def execExit (pm : BitVec 2) (s : State) : Out := branchSlot s pm 0 [] (fun _ _ => .exit)

/-- `TRAP` (R174): a sink in the lanes where it fires, and in no other. -/
def execTrap (pm : BitVec 2) (imm : BitVec 12) (s : State) : Out :=
  slotL s pm false 0 [] false (fun e _ _ _ _ _ => .fail (faultTok e.slot cSoftwareTrap (imm.zeroExtend 64)))

/-- `YIELD` (R175): it takes effect when its block commits. -/
def execYield (pm : BitVec 2) (s : State) : Out :=
  match s.env? with
  | none => .refused .noSlot
  | some e => ran s (match vecCause pm false false with
    | some c => s.vectorL e pm 0 [] false c
    | none =>
      let f := e.f.fireAll e.slot 0 pm [] false (fun _ _ _ _ _ => .out .null)
      s.dispatch e { f with yielded := f.yielded || !(e.f.firing e.slot 0 pm).isEmpty })

/-- `EMRET` (R176): a return output in a handler level; elsewhere it vectors. -/
def execEmret (pm : BitVec 2) (s : State) : Out :=
  slotL s pm (s.curMode != .handler) 0 [] false (fun _ _ _ _ _ _ => .branch .ret .null)

/-- `FRESUME` (R177): recorded, and performed at commit; in a mode other than supervisor it vectors. -/
def execFresume (pm : BitVec 2) (s : State) : Out :=
  slotL s pm (s.curMode != .supervisor) 1 [] false (fun _ _ _ a _ _ => .resume a)

end Sys2Proof.Machine
end

