-- ==== Sys2Proof/Machine/Distribute.lean ====
section
/-!
DEFINITION. Sys2Proof/Machine/Distribute.lean: the device and hall distributors: eligibility (R324), placement, patience and
the placement ceiling (R325, R326), completion (R189, R321), and the alcove (R331, R332).
-/
namespace Sys2Proof.Machine

/-! ## Eligibility (R324) -/

/-- The context is saved on a hall: its clocks there stand still, and `since` holds the time that has run (R326, R342). -/
def Ctx.savedOn (c : Ctx) (h : Nat) : Bool := c.savedHalls.contains h
/-- The device distributor hands gang `n` of a grid to the hall with the fewest gangs of it so far. -/
def State.handGang (s : State) (gid : Nat) (g : Grid) (c : Ctx) (hs : List Nat) (n : Nat) : State :=
  let ix := n % hs.length
  let h := hs.getD ix 0
  { s with nextId := s.nextId + 1,
           gangs := mset s.gangs s.nextId (gangOf gid n ix h (if c.savedOn h then 0 else s.time) [] 0 (g.lr.startAcq g.acqScope)) }

/-- GRID_ELIGIBLE: every predecessor has completed, or has triggered where EARLY is set; the grid's halls are fixed and its gangs
handed to them. Where H exceeds the halls that work, the grid is fixed to those, and `hall.count` still reads H (DESIGN CHOICE, log entry 32). -/
def execGridEligible (gid : Nat) (s : State) : Out :=
  match mget s.grids gid with
  | none => .refused (.notEnabled "GRID_ELIGIBLE")
  | some g => match mget s.ctxs g.ctx with
    | none => .refused (.notEnabled "GRID_ELIGIBLE")
    | some c =>
      let free := !g.eligible && !c.stopped && s.depDone g.ctx g.lr.dep0 g.lr.early && s.depDone g.ctx g.lr.dep1 g.lr.early
      match g.kind with
      | .plain =>
        let hs := s.chooseHalls s.liveHalls g.lr.halls
        let g1 := { g with eligible := true, halls := hs, handed := g.lr.gangs }
        event s "GRID_ELIGIBLE" (free && !hs.isEmpty)
          ((List.range g.lr.gangs).foldl (fun (s : State) n => s.handGang gid g c hs n) { s with grids := mset s.grids gid g1 })
      | .stage q => event s "GRID_ELIGIBLE" free (({ s with grids := mset s.grids gid { g with eligible := true } } : State).batches q)
      | _ => .refused (.notEnabled "GRID_ELIGIBLE")

/-! ## Room for a gang (R325, R340) -/

/-- A workgroup to place, by its rank, or by its identity where it is restored; with the other of its pair; and the side of a
matrix pair that it must stand on. -/
structure PUnit where
  key : Nat
  want : Want
  mate : Option (Nat × Want)
  side : Option Bool
  deriving DecidableEq, Repr

def Room.sideOk (r : Room) (side : Option Bool) : Bool :=
  match side with
  | none => true
  | some leader => r.pair && (r.core % 2 == if leader then 0 else 1)
/-- First fit of one unit: its places, as key, core and offset. -/
def takeSide : List Room → Want → Option Bool → Option (List Room × Nat × Nat)
  | [], _, _ => none
  | r :: l, n, side => match (if r.sideOk side then r.take n else none) with
    | some (r1, b) => some (r1 :: l, r.core, b)
    | none => match takeSide l n side with
      | some (l1, x) => some (r :: l1, x)
      | none => none
def takeUnit (l : List Room) (u : PUnit) : Option (List Room × List (Nat × Nat × Nat)) :=
  match u.mate with
  | some (k, n) => (takePair l u.want n).map (fun p => (p.1, [(u.key, p.2.1.1, p.2.1.2), (k, p.2.2.1, p.2.2.2)]))
  | none => (takeSide l u.want u.side).map (fun p => (p.1, [(u.key, p.2.1, p.2.2)]))
def fitUnits : List Room → List PUnit → Option (List (Nat × Nat × Nat))
  | _, [] => some []
  | l, u :: us => match takeUnit l u with
    | some (l1, x) => (fitUnits l1 us).map (fun r => x ++ r)
    | none => none

/-- The units of a gang that has not run yet. -/
def freshUnits (r : LaunchRec) : List PUnit :=
  if r.pairpl then (List.range (r.gang / 2)).map (fun i => { key := 2 * i, want := r.want, mate := some (2 * i + 1, r.want), side := none })
  else (List.range r.gang).map (fun i => { key := i, want := r.want, mate := none, side := none })

/-- The save image that holds a gang. -/
def State.imageOf (s : State) (gang : Nat) : Option Image := s.images.find? (fun i => (mget i.gangs gang).isSome)
/-- The mode of the reservation that a saved workgroup holds. -/
def Image.mode (i : Image) (wg : Nat) : Option Nat := (i.mres.find? (fun r => r.1 == wg && r.2.2.mode != 0)).map (·.2.2.mode)
/-- The workgroup that a saved one must stand beside: under PAIRPL its rank's, or the other half of its matrix pair. -/
def Image.mateOf (i : Image) (pairpl : Bool) (l : List (Nat × Wg)) (k : Nat) (g : Wg) : Option (Nat × Wg) :=
  l.find? (fun q =>
    if pairpl then q.2.rank / 2 == g.rank / 2 && q.2.rank != g.rank
    else (i.mode k == some 1 && i.mode q.1 == some 2 && q.2.core == g.core + 1) || (i.mode k == some 2 && i.mode q.1 == some 1 && q.2.core + 1 == g.core))
/-- The units of a saved gang. -/
def State.savedUnits (s : State) (i : Image) (gang : Nat) (r : LaunchRec) : List PUnit :=
  let l := i.wgs.filter (fun p => p.2.gang == gang)
  let want (k : Nat) (g : Wg) : Want :=
    { slots := ({ s with warps := i.warps } : State).hwWarps g, scratch := g.size, tiles := g.tiles, mres := (i.mres.filter (fun q => q.1 == k)).length }
  l.filterMap (fun p =>
    match i.mateOf r.pairpl l p.1 p.2 with
    | some q => if p.2.core < q.2.core then some { key := p.1, want := want p.1 p.2, mate := some (q.1, want q.1 q.2), side := none } else none
    | none => some { key := p.1, want := want p.1 p.2, mate := none,
                     side := if r.pairpl then some (p.2.rank % 2 == 0) else (i.mode p.1).map (fun m => m == 1) })
def State.gangUnits (s : State) (id : Nat) (g : Gang) (r : LaunchRec) : List PUnit :=
  if g.restoring then (match s.imageOf id with
    | some i => s.savedUnits i id r
    | none => [])
  else freshUnits r

/-- The first cluster of the hall that holds the whole gang, and the places. -/
def State.gangFit (s : State) (id : Nat) (g : Gang) (r : LaunchRec) : Option (Nat × List (Nat × Nat × Nat)) :=
  let us := s.gangUnits id g r
  (List.range 13).findSome? (fun i =>
    let c := 13 * g.hall + i
    (fitUnits (((coresOf c).filter (fun k => match (s.core k).resv with
      | some x => x == id
      | none => true)).map s.room) us).map (fun p => (c, p)))

/-- The hall stores of a hall, in bytes; 16 MiB may be reserved (R307). -/
def Hall.storeSum (h : Hall) : Nat := h.stores.foldl (fun a p => a + p.2.size) 0
def State.storeFits (s : State) (g : Gang) (gr : Grid) : Bool :=
  gr.lr.hstore == 0 || gr.storesAt.contains g.hall || decide ((s.hall g.hall).storeSum + gr.lr.storeBytes ≤ 2 ^ 24)
/-- A pending gang that its hall distributor tries. -/
def State.tried (s : State) (g : Gang) (gr : Grid) : Bool :=
  g.stat == .pending && !(s.hall g.hall).fatal && (match mget s.ctxs gr.ctx with
    | some c => !c.stopped && (g.restoring || !c.savedOn g.hall)
    | none => false)
/-- The order in which a hall distributor tries its gangs: restored ones first, then priority, then as they came. -/
def before (a b : Nat × Gang × Grid) : Bool :=
  if a.2.1.restoring != b.2.1.restoring then a.2.1.restoring
  else if a.2.2.lr.prio ≠ b.2.2.lr.prio then decide (b.2.2.lr.prio < a.2.2.lr.prio)
  else decide (a.1 < b.1)
/-- The gangs that a hall tries, with their grids. -/
def State.hallGangs (s : State) (h : Nat) : List (Nat × Gang × Grid) :=
  s.gangs.filterMap (fun p => if p.2.hall = h then (match mget s.grids p.2.gid with
    | some gr => if s.tried p.2 gr then some (p.1, p.2, gr) else none
    | none => none) else none)
def State.fits (s : State) (x : Nat × Gang × Grid) : Bool := s.storeFits x.2.1 x.2.2 && (s.gangFit x.1 x.2.1 x.2.2.lr).isSome

/-! ## Placement (R30, R325, R340) -/

/-- The grid's store on a hall is reserved, zero, or as its image holds it. -/
def State.reserveStore (s : State) (g : Gang) (gr : Grid) (saved : Option HStore) : State :=
  if gr.lr.hstore = 0 ∨ gr.storesAt.contains g.hall = true then s
  else
    let x := saved.getD { size := gr.lr.storeBytes, lines := [], pois := [] }
    ({ s with grids := mset s.grids g.gid { gr with storesAt := sadd gr.storesAt g.hall } } : State).updHall g.hall (fun h =>
      ({ h with stores := mset h.stores g.gid x } : Hall).carve)

/-- The ranks of a fresh gang start, all together. -/
def State.startRanks (s : State) (id : Nat) (g : Gang) (gr : Grid) (places : List (Nat × Nat × Nat)) : State :=
  let mem := match gr.kind with
    | .stage _ => stageMem g.recs g.batch
    | _ => WgMem.start
  let mode := s.modeOf gr.ctx
  (List.range gr.lr.gang).foldl (fun (s : State) r => match places.find? (fun p => p.1 == r) with
    | some p => s.startWg id g.gid gr.ctx (g.num * gr.lr.gang + r) r p.2.1 p.2.2 gr.lr mode g.acqScope mem false []
    | none => s) s

/-- A wait names a core by where its workgroup stands now. -/
def Warp.moveWaits (w : Warp) (dest : Nat → Nat) : Warp :=
  { w with levels := w.levels.map (fun lv => { lv with frame := lv.frame.map (fun f => { f with waits := f.waits.map (fun q => match q.2 with
    | .mwait c r u v => (q.1, .mwait (dest c) r u v)
    | _ => q) }) }) }
/-- The lowest channel of a core that holds no copy. -/
def Core.anyChan (c : Core) : Nat := ((List.range (c.chans.length + 1)).find? (fun i => (mget c.chans i).isNone)).getD 0
/-- A saved gang comes back from its image. Its warps may stand on another core, so each acquires at device scope before its next block: it reads
nothing older than what it has read or written (R264, R266). -/
def State.loadGang (s : State) (id : Nat) (i : Image) (places : List (Nat × Nat × Nat)) : State :=
  let mine := i.wgs.filter (fun p => p.2.gang == id)
  let at_ (wg : Nat) : Option (Nat × Nat × Nat) := places.find? (fun p => p.1 == wg)
  let dest (c : Nat) : Nat := match mine.find? (fun p => p.2.core == c) with
    | some p => ((at_ p.1).map (·.2.1)).getD c
    | none => c
  mine.foldl (fun (s : State) p => match at_ p.1 with
    | none => s
    | some (_, core, base) =>
      let s1 := { s with wgs := mset s.wgs p.1 { p.2 with core := core, base := base, saved := false } }
      let s2 := p.2.warps.foldl (fun (s : State) w => match mget i.warps w with
        | some x => ((s.setWarp w ({ x with acqOwed := max x.acqOwed 4, stat := if x.stat = WStat.saved then WStat.ready else x.stat, floor := some s.stamp }.moveWaits dest)).spillFrame
            core).spillFrame core
        | none => s) s1
      let s3 := s2.updCore core (fun c => { c with mres := c.mres ++ (i.mres.filter (fun q => q.1 == p.1)).map (·.2.2) })
      let s4 := (i.copies.filter (fun q => q.1 == p.1)).foldl (fun (s : State) q => s.updCore core (fun c => { c with chans := mset c.chans c.anyChan q.2.2 })) s3
      (i.accs.filter (fun q => p.2.warps.contains q.2.wid)).foldl (fun (s : State) q => s.accStep q.1 q.2) s4) s

/-- The cores that a gang had reserved are open again (R326). -/
def State.freeResv (s : State) (id : Nat) : State :=
  { s with cores := s.cores.map (fun p => (p.1, if p.2.resv = some id then { p.2 with resv := none } else p.2)) }

/-- GANG_PLACE: the hall distributor places the first of its gangs that fits. -/
def execGangPlace (gang : Nat) (s : State) : Out :=
  match mget s.gangs gang with
  | none => .refused (.notEnabled "GANG_PLACE")
  | some g => match mget s.grids g.gid with
    | none => .refused (.notEnabled "GANG_PLACE")
    | some gr => match s.gangFit gang g gr.lr with
      | none => .refused (.notEnabled "GANG_PLACE")
      | some (cluster, places) =>
        let me := (gang, g, gr)
        let image := if g.restoring then s.imageOf gang else none
        let saved := (image.bind (fun i => i.stores.find? (fun q => q.1 == g.hall && q.2.1 == g.gid))).map (·.2.2)
        let s1 := (s.freeResv gang).reserveStore g gr saved
        let s2 := { s1 with gangs := mset s1.gangs gang { g with stat := .placed, cluster := cluster, resv := [] } }
        event s "GANG_PLACE" (s.tried g gr && s.storeFits g gr && (s.hallGangs g.hall).all (fun x => !before x me || !s.fits x))
          (match image with
           | some i => s2.loadGang gang i places
           | none => ({ s2 with grids := mupd s2.grids g.gid (fun x => { x with placedGangs := x.placedGangs + 1 }) } : State).startRanks gang g gr places)

/-! ## Patience and the placement ceiling (R326) -/

def insertBy (key : Nat → Nat) (x : Nat) : List Nat → List Nat
  | [] => [x]
  | y :: r => if key x < key y then x :: y :: r else y :: insertBy key x r
/-- The cores that a starved gang would reserve in a cluster, with their cost. -/
def State.candidates (s : State) (us : List PUnit) (cluster : Nat) : Option (Nat × List Nat) :=
  let cs := coresOf cluster
  let order := cs.foldl (fun l c => insertBy s.running c l) []
  (List.range 9).findSome? (fun k =>
    let pre := order.take k
    (fitUnits (cs.map (fun c => if pre.contains c then s.emptyRoom c else s.room c)) us).map (fun p =>
      let used := pre.filter (fun c => p.any (fun q => q.2.1 == c))
      (used.foldl (fun a c => a + s.running c) 0, used)))
/-- The reservation that a starved gang takes: the cluster of least cost among those that hold none. -/
def State.wouldReserve (s : State) (x : Nat × Gang × Grid) : Option (List Nat) :=
  let us := s.gangUnits x.1 x.2.1 x.2.2.lr
  let l := (List.range 13).filterMap (fun i =>
    let c := 13 * x.2.1.hall + i
    if (coresOf c).any (fun k => (s.core k).resv.isSome) then none else s.candidates us c)
  match l with
  | [] => none
  | y :: r => let b := r.foldl (fun (a : Nat × List Nat) z => if z.1 < a.1 then z else a) y
              if b.2.isEmpty then none else some b.2
/-- The gang's patience has run out: hall clocks of 1.25 ns (R327). -/
def State.starving (s : State) (x : Nat × Gang × Grid) : Bool :=
  match mget s.ctxs x.2.2.ctx with
  | some c => decide (5 * c.cfg.patience ≤ 4 * (s.time - x.2.1.since)) && x.2.1.resv.isEmpty
  | none => false

/-- GANG_PATIENCE_EXPIRED: a starved gang reserves cores, in the order of R325 among the starved gangs that can. -/
def execGangPatienceExpired (gang : Nat) (s : State) : Out :=
  match mget s.gangs gang with
  | none => .refused (.notEnabled "GANG_PATIENCE_EXPIRED")
  | some g => match mget s.grids g.gid with
    | none => .refused (.notEnabled "GANG_PATIENCE_EXPIRED")
    | some gr =>
      let me := (gang, g, gr)
      match s.wouldReserve me with
      | none => .refused (.notEnabled "GANG_PATIENCE_EXPIRED")
      | some cs =>
        event s "GANG_PATIENCE_EXPIRED"
          (s.tried g gr && s.starving me && (s.hallGangs g.hall).all (fun x => !before x me || !s.starving x || (s.wouldReserve x).isNone))
          (cs.foldl (fun (s : State) c => s.updCore c (fun k => { k with resv := some gang }))
            { s with gangs := mset s.gangs gang { g with resv := cs } })

/-- GANG_PLACEMENT_TIMEOUT: one fault record of kind 1; the gang stays pending, with its reservation. -/
def execGangPlacementTimeout (gang : Nat) (s : State) : Out :=
  match mget s.gangs gang with
  | none => .refused (.notEnabled "GANG_PLACEMENT_TIMEOUT")
  | some g => match mget s.grids g.gid with
    | none => .refused (.notEnabled "GANG_PLACEMENT_TIMEOUT")
    | some gr => match mget s.ctxs gr.ctx with
      | none => .refused (.notEnabled "GANG_PLACEMENT_TIMEOUT")
      | some c =>
        event s "GANG_PLACEMENT_TIMEOUT"
          (s.tried g gr && !g.told && !g.restoring && decide (c.cfg.ceiling ≤ s.time - g.since) && s.postRoom gr.ctx)
          (({ s with gangs := mset s.gangs gang { g with told := true } } : State).post
            { ctx := gr.ctx, w0 := recWord0 1 cGangPlacementTimeout.toNat gr.ctx 0 0 0 0 gr.seq, info := toWord gr.seq, block := toWord g.num, handle := 0 })

/-! ## Completion (R189, R321) -/

/-- Every workgroup of a grid has ended, and nothing names one any more. -/
def State.gridEnded (s : State) (gid : Nat) (g : Grid) : Bool :=
  let done := match g.kind with
    | .plain => g.eligible && decide (g.lr.gx * g.lr.gy * g.lr.gz ≤ g.endedWgs)
    | .stage _ => g.unbound && s.gangs.all (fun p => p.2.gid != gid || p.2.stat == .ended)
    | _ => false
  done && s.wgs.all (fun p => p.2.gid != gid)
/-- The completed grid leaves the machine: its stores, its retention marks and its gangs (R209, R307). -/
def State.gridGone (s : State) (gid : Nat) : State :=
  { s with grids := mdel s.grids gid, gangs := s.gangs.filter (fun p => p.2.gid != gid),
           halls := s.halls.map (fun p => (p.1, { p.2 with stores := mdel p.2.stores gid })),
           gal := s.gal.map (fun p => (p.1, { p.2 with keep := p.2.keep.filter (fun k => k.1 != gid) })) }
/-- The completion word is written through the context's page tables, or its cause is given. -/
def State.completionWord (s : State) (ctx caddr seq : Nat) : Except (BitVec 8) State :=
  match s.walk ctx caddr with
  | .bad c => .error c
  | .ok x _ =>
    if !s.pageOk x .wr caddr then .error cPageProtection
    else if s.immutable ctx caddr 8 then .error cRecipePinnedWrite
    else
      let pa := x.phys caddr
      let m : HMsg := { kind := .store, src := fld s.domain 9 0, dst := 0, tag := 0, ctx := ctx, key := x.key, pa := 0, size := 8, aop := 0, acas := false,
                        af32 := false, data := placeAt seq (pa % 128), mask := byteMask (pa % 128) 8, poisoned := false }
      match s.physKind pa with
      | .dev p => .ok (s.galPut (some ctx) p 8 x.key seq)
      | .host off => .ok (if (mget s.gal (pa / 128)).isSome then s.galPut (some ctx) pa 8 x.key seq else s.sendOut { m with pa := off } true none 0 8 caddr)
      | .remote pk off => .ok (s.sendOut { m with dst := pk, pa := off } false none 0 8 caddr)
      | .bad => .error cPageProtection

/-- GRID_COMPLETE: every workgroup has ended, its stores are performed and its engine commands retired; NOTIFY writes the grid's
number, released at system scope. -/
def execGridComplete (gid : Nat) (s : State) : Out :=
  match mget s.grids gid with
  | none => .refused (.notEnabled "GRID_COMPLETE")
  | some g =>
    let live := match mget s.ctxs g.ctx with
      | some c => !c.stopped
      | none => false
    let ok := live && s.gridEnded gid g && g.halls.all (fun h => s.released h g.ctx (if g.lr.notify then 6 else 4))
    if !g.lr.notify then event s "GRID_COMPLETE" ok (s.gridGone gid)
    else match s.completionWord g.ctx g.lr.caddr g.seq with
      | .ok s1 => event s "GRID_COMPLETE" ok (s1.gridGone gid)
      | .error c => event s "GRID_COMPLETE" (ok && s.postRoom g.ctx)
          ((s.gridGone gid).post { ctx := g.ctx, w0 := recWord0 6 c.toNat g.ctx 0 0 0 0 g.seq, info := toWord g.lr.caddr, block := 0, handle := 0 })

/-! ## The alcove (R331, R332) -/

/-- The launch record that an alcove warp's identity registers read as. -/
def alcoveLr (entry cbase : Nat) (banks : BitVec 256) : LaunchRec :=
  { entry := entry, gx := 1, gy := 1, gz := 1, hstore := 0, scratch := 65536, tiles := 0, prio := 3, halls := 1, gang := 1, pairpl := false, width := 32,
    warps := 1, hsbase := 0, cbase := cbase, banks := banks, dep0 := 0, dep1 := 0, notify := false, early := false, caddr := 0 }
def alcoveArgs (r : Rec64) : List (Nat × Word) := (List.range 6).map (fun i => (i, r.extractLsb' (128 + 64 * i) 64))

/-- The alcove warp of a core starts for a record. -/
def State.alcoveStart (s : State) (core ctx : Nat) (c : Ctx) (r : Rec64) (scope : Nat) : State :=
  let gid := s.nextId
  let lr := alcoveLr (alcoveEntry r) c.alcCbase c.alcBanks
  let g := { gridNew ctx 0 .alcove lr scope with eligible := true, halls := [hallOfCore core] }
  let gg := { gangOf gid 0 0 (hallOfCore core) s.time [] 0 scope with stat := .placed, cluster := core / 8 }
  let s1 := { s with nextId := gid + 2, grids := mset s.grids gid g, gangs := mset s.gangs (gid + 1) gg }
  (s1.startWg (gid + 1) gid ctx 0 0 core 0 lr .supervisor scope WgMem.start true (alcoveArgs r)).updCore core (fun k =>
    { k with alcBuf := k.alcBuf.drop 1, alcWid := some (s1.nextId + 1) })

/-- ALCOVE_RECORD_ARRIVE: a record is at the head of its core's buffer and the alcove is idle. -/
def execAlcoveRecordArrive (core : Nat) (s : State) : Out :=
  match (s.core core).alcBuf, s.alcCtx with
  | (r, scope) :: _, some ctx => (match mget s.ctxs ctx with
    | some c =>
      let s1 := s.alcoveStart core ctx c r scope
      event s "ALCOVE_RECORD_ARRIVE" ((s.core core).alcWid.isNone && !c.stopped && !c.savedOn (hallOfCore core) && !(s.hall (hallOfCore core)).fatal &&
          !(s.ctxsw.busy && s.ctxsw.saving && s.ctxsw.ctx == ctx && s.ctxsw.halls.contains (hallOfCore core)))
        ((mkeys s.queues).foldl (fun (s : State) q => s.alcoveMoveAll q) s1)
    | none => .refused (.notEnabled "ALCOVE_RECORD_ARRIVE"))
  | _, _ => .refused (.notEnabled "ALCOVE_RECORD_ARRIVE")

end Sys2Proof.Machine
end

