-- ==== Sys2Proof/Machine/Switch.lean ====
section
/-!
DEFINITION. Sys2Proof/Machine/Switch.lean: frames that pass between warps (R328), starving frames (R329), fault records and messages
that waited (R335, R356), and the saving and restoring of contexts (R102, R297, R338 to R342).
-/
namespace Sys2Proof.Machine

/-! ## Waiting blocks (R102) -/

/-- The accesses of a frame instance. -/
def State.accsOf (s : State) (wid fid : Nat) : List (Nat × Access) := s.accs.filter (fun p => p.2.wid == wid && p.2.fid == fid)
def AStat.parked : AStat → Bool
  | .walk _ => true
  | .recipe _ => true
  | _ => false
/-- The access waits on a walk and holds no translation yet. -/
def AStat.walking : AStat → Bool
  | .walk _ => true
  | _ => false
/-- An atomic of the frame is on its way or performed: the block cannot be discarded before its result is recorded (R87). -/
def State.atomicOut (s : State) (wid fid : Nat) : Bool := (s.accsOf wid fid).any (fun p => p.2.kind.isAtomic && !p.2.stat.parked)
/-- The waits that R102 lists; a wait for engine space, for a record or for an invalidation ends by itself (R214, R218). -/
def Wait.listed : Wait → Bool
  | .fe .. => true
  | .feDone .. => false
  | .bar .. => true
  | .mwait .. => true
  | .qtake .. => true
  | .dep => true
  | .iinv .. => false
  | .space => false
  | .record => false
/-- The block waits in one of the ways that R102 lists, or its landing test waits for a recipe's slice (R297), and may be discarded. -/
def State.blockWaits (s : State) (wid : Nat) (f : Frame) : Bool :=
  f.vec.isNone && (f.waits.any (fun q => q.2.listed) || (s.accsOf wid f.fid).any (fun p => p.2.stat.parked) ||
    ((s.warp wid).map (fun w => !w.fetch.waits.isEmpty)).getD false) && !s.atomicOut wid f.fid
/-- The operand ports that a slot uses, and its predicate mode. -/
def Block.portsOf (b : Block) (p : Nat × Insn) : List Nat :=
  match opRow (opOf p.2) with
  | some r => List.range r.nops
  | none => b.targetedPorts p.1
def pmOf (i : Insn) : BitVec 2 := if fmtOf i == .K then 0#2 else fPm i
/-- An access has its tokens and is not performed, while an access of a lower memory-order slot takes a token that derives from it: an
order between the two makes the block wait for itself (R396). -/
def Frame.selfWaits (f : Frame) : Bool :=
  f.blk.insns.any (fun p => match mosOf p.2 with
    | none => false
    | some m => (lanesOf f.mask).any (fun l => !hasLane (mgetD f.fired p.1 0) l && !f.doneIn p.1 l &&
        decide (f.laneGoP p.1 (f.blk.portsOf p) (pmOf p.2) l ≠ .wait) && (f.lower m).any (fun q => !f.doneIn q.1 l && f.blk.derives p.1 q.1)))
/-- A store or atomic of the frame has its tokens and is never performed, since an access that derives from it stands before it on bytes
of its own (R396, log entry 30). -/
def State.neverClear (s : State) (wid : Nat) (f : Frame) : Bool :=
  match s.warp wid with
  | none => false
  | some w => match w.top with
    | none => false
    | some lv => f.blk.insns.any (fun p => match mosOf p.2 with
      | none => false
      | some m => (lanesOf f.mask).any (fun l => !hasLane (mgetD f.fired p.1 0) l && decide (f.laneGoP p.1 (f.blk.portsOf p) (pmOf p.2) l ≠ .wait) &&
          (let e : Env := { wid := wid, slot := p.1, w := w, lv := lv, f := f }
           match s.foot e f p l with
           | .at_ sp a n => (opIsStore (opOf p.2) || opIsAtomic (opOf p.2)) && !s.laneClear e f p.1 m l sp a n (opIsAtomic (opOf p.2))
           | _ => false)))
/-- The block waits, for itself too, or for space in a queue that a handler level may hold, or its loads are still in flight, and it may be
discarded. -/
def State.blockStuck (s : State) (wid : Nat) (f : Frame) : Bool :=
  s.blockWaits wid f || f.vec.isNone && (!(s.accsOf wid f.fid).isEmpty || f.waits.any (fun q => q.2 == .space) || f.selfWaits || s.neverClear wid f)
    && !s.atomicOut wid f.fid

/-! ## Frames (R328, R329) -/

/-- FRAME_SHARE_HANDOFF: the holder of a shared frame is at its block boundary, or its block waits and is discarded with its
completion record; the frame passes to the other declared warp, which is ready. -/
def execFrameShareHandoff (wid : Nat) (s : State) : Out :=
  match s.warp wid with
  | none => .refused (.notEnabled "FRAME_SHARE_HANDOFF")
  | some w => match s.partner wid w with
    | none => .refused (.notEnabled "FRAME_SHARE_HANDOFF")
    | some (p, v) =>
      let idle := w.shareUsed || decide (w.stat ≠ .ready) || !w.fetch.waits.isEmpty
      let boundary := match w.frame with
        | none => idle
        | some f => s.blockWaits wid f
      let s1 := if w.frame.isSome then s.discardTop wid else s
      let pass (s : State) : State := (s.updWarp wid (fun x => { x with shareHold := false, shareUsed := false })).updWarp p (fun x =>
        { x with shareHold := true, shareUsed := false })
      event s "FRAME_SHARE_HANDOFF" (s.sharing wid w && s.holdsFrame wid w && decide (v.stat = .ready) && boundary) (pass s1)

/-- A slot that could fire: a class L slot in some lane, a class U slot once its leader's operands and every predicate are there and it
does not wait already (R79, R81, R329). -/
def Frame.readySlot (f : Frame) : Bool :=
  f.vec.isNone && f.blk.insns.any (fun p =>
    if ((opRow (opOf p.2)).map (·.uni)).getD false then
      !f.waits.any (fun q => q.1 == p.1) && f.predReady p.1 (pmOf p.2) && !f.doneIn p.1 (leaderOf f.mask) &&
        (f.blk.portsOf p).all (fun k => (f.tok k p.1 (leaderOf f.mask)).isSome)
    else (lanesOf f.mask).any (fun l => !hasLane (mgetD f.fired p.1 0) l && decide (f.laneGoP p.1 (f.blk.portsOf p) (pmOf p.2) l ≠ .wait)))

/-- The priority level of a warp: its grid's, or the one it has been raised to (R329). -/
def State.level (s : State) (w : Warp) : Nat := max (((s.gridOf w).map (·.lr.prio)).getD 0) w.raised
/-- FRAME_STARVATION_RAISE: a frame that has held a ready slot and dispatched nothing for 256 core clocks is raised one level. -/
def execFrameStarvationRaise (wid : Nat) (s : State) : Out :=
  match s.warp wid with
  | none => .refused (.notEnabled "FRAME_STARVATION_RAISE")
  | some w =>
    let now := s.level w
    let ready := match w.frame with
      | some f => f.readySlot
      | none => false
    let clocks := (s.time - w.lastDispatch) * mgetD s.islands (s.coreOf w) 800 / 1000
    event s "FRAME_STARVATION_RAISE" (decide (w.stat = .ready) && ready && decide (now < 3) && decide (256 ≤ clocks))
      ({ s with nextId := s.nextId + 1 }.setWarp wid { w with raised := now + 1, raisedAt := s.nextId, lastDispatch := s.time })

/-! ## Records and messages that waited (R335, R356) -/

/-- The oldest waiting record whose context's ring has room (R335). -/
def State.drainable (s : State) : Option FRec :=
  s.frecs.find? (fun r => match mget s.ctxs r.ctx with
    | some c => s.ringRoom c
    | none => false)
/-- The head of an alcove queue is a record to drop, and there is room now for its fault record (R331). -/
def State.alcoveStuck (s : State) : Bool :=
  s.queues.any (fun p => p.2.role == .alcove && (match p.2.items with
    | .rcd r _ _ _ :: _ => alcoveBad r && s.postRoom p.2.ctx
    | _ => false))
/-- FAULT_RECORD_DRAIN: the oldest record whose context's ring has room is written; the record of a stop, and an alcove record, that waited
for room may go. -/
def execFaultRecordDrain (s : State) : Out :=
  let s1 := (match s.drainable with
    | some r => ({ s with frecs := s.frecs.erase r } : State).writeRecord r
    | none => s).postStops
  event s "FAULT_RECORD_DRAIN" (s.drainable.isSome || !s.stopsFit.isEmpty || s.alcoveStuck)
    ((mkeys s1.queues).foldl (fun (s : State) q => s.alcoveMoveAll q) s1)

/-- MSIX_RATE_TIMER: the message of a context that its 2 µs spacing held back is sent. -/
def execMsixRateTimer (ctx : Nat) (s : State) : Out :=
  match mget s.ctxs ctx with
  | none => .refused (.notEnabled "MSIX_RATE_TIMER")
  | some c => event s "MSIX_RATE_TIMER" (c.msixDue && c.msixFree s.time)
      (({ s with ctxs := mset s.ctxs ctx { c with msixDue := false, msixAt := some s.time } } : State).msix ctx)

/-! ## What a save concerns (R338, R339) -/

def hallsOf (v : Word) : List Nat := (List.range 8).filter (fun h => v.getLsbD h)
/-- The placed workgroups of a context on some halls. Neither a slice nor an alcove warp counts for the result of a save (DESIGN CHOICE, log
entry 32). -/
def State.wgsAt (s : State) (ctx : Nat) (halls : List Nat) : NMap Wg :=
  s.wgs.filter (fun p => p.2.ctx == ctx && halls.contains (hallOfCore p.2.core) && !p.2.alcove && (match mget s.grids p.2.gid with
    | some g => (match g.kind with
      | .slice _ => false
      | _ => true)
    | none => false))
/-- The gangs of a context on some halls, in a state. -/
def State.gangsAt (s : State) (ctx : Nat) (halls : List Nat) (st : GangStat) : NMap Gang :=
  s.gangs.filter (fun p => p.2.stat == st && halls.contains p.2.hall && (match mget s.grids p.2.gid with
    | some g => g.ctx == ctx
    | none => false))
/-- The hall stores that a save takes: those of grids with a gang to save on the hall. -/
def State.storesAt (s : State) (gs : NMap Gang) : List (Nat × Nat × HStore) :=
  gs.foldl (fun (l : List (Nat × Nat × HStore)) p =>
    if l.any (fun q => q.1 == p.2.hall && q.2.1 == p.2.gid) then l
    else match mget (s.hall p.2.hall).stores p.2.gid with
      | some h => l ++ [(p.2.hall, p.2.gid, h)]
      | none => l) []
/-- The bytes that a save area must hold, by the hardware warps that still live (DESIGN CHOICE, log entry 32). -/
def State.saveBytes (s : State) (ctx : Nat) (halls : List Nat) : Nat :=
  let wg := (s.wgsAt ctx halls).foldl (fun a p => a + 8192 + 28672 * s.hwWarps p.2 + p.2.size + p.2.size / 128 + 16384 * p.2.tiles) 0
  (s.storesAt (s.gangsAt ctx halls .placed)).foldl (fun a q => a + q.2.2.size) wg

/-- The placed slices of a context on some halls are abandoned: their warps end without effect, RUN returns to 0. Then, for each, where a miss
of work that the save does not take waits, on another hall, in an alcove warp, in a slice that goes on, in a copy of either or in any other
agent, a new slice is queued at once and the miss keeps waiting; the saved warps' instruction fetches miss again after restore (R297). -/
def State.abandonSlices (s : State) (ctx : Nat) (halls : List Nat) : State :=
  let xs := s.slices.filter (fun x => x.ctx == ctx && x.placed && halls.contains x.hall)
  let s0 := xs.foldl (fun (s : State) (x : Slice) => (s.sliceClear x).updRecipe ctx x.idx (fun r => { r with run := false })) s
  let ws := s0.wgsAt ctx halls
  let gone (wg : Nat) : Bool := (mget ws wg).isSome
  xs.foldl (fun (s1 : State) (x : Slice) =>
    let hit (a : Nat) : Bool := match (mget s1.ctxs ctx).bind (fun c => c.recipeAt a) with
      | some q => q.1 == x.idx
      | none => false
    let onTile (w : Warp) : Bool := w.ctx == ctx && w.fetch.waits.any hit
    let onIdx (q : Copy) : Bool := q.ctx == ctx && (match q.wait with
      | some p => p.1 == x.idx
      | none => false)
    let accGone (a : Access) : Bool := match s1.warp a.wid with
      | some w => gone w.wg
      | none => true
    let left := (s1.warps.filter (fun p => onTile p.2 && !gone p.2.wg)).map (fun p => s1.coreOf p.2) ++
      (s1.cores.filter (fun p => p.2.chans.any (fun q => onIdx q.2 && !gone q.2.wg))).map (·.1) ++
      (s1.accs.filter (fun p => p.2.stat == .recipe x.idx && s1.accCtx p.2 == ctx && !accGone p.2)).map (fun p => s1.accCore p.2)
    let s2 : State := { s1 with
      warps := s1.warps.map (fun p => (p.1, if onTile p.2 && gone p.2.wg then { p.2 with fetch := p.2.fetch.wait (p.2.fetch.waits.filter (fun a => !hit a)) p.2.fetch.away } else p.2)),
      cores := s1.cores.map (fun p => (p.1, { p.2 with chans := p.2.chans.map (fun q => (q.1, if onIdx q.2 && gone q.2.wg then { q.2 with wait := none } else q.2)) })) }
    match left with
    | [] => s2
    | core :: _ => s2.spawnSlice ctx x.idx core) s0

/-- Patience and ceiling of the context's pending gangs on a hall stop, or run on (R326). A starved gang whose patience had run out before the save
takes a reservation again at once after the restore (DESIGN CHOICE, log entry 32). -/
def State.flipClocks (s : State) (ctx : Nat) (halls : List Nat) : State :=
  (s.gangsAt ctx halls .pending).foldl (fun (s : State) p => { s.freeResv p.1 with
    gangs := mset s.gangs p.1 { p.2 with since := s.time - p.2.since, resv := [] } }) s

/-- A write of CTXSW_CTL that asks for a save. -/
def State.saveStart (s : State) (v : Word) : State :=
  let ctx := fld v 53 48
  let halls := hallsOf v
  let e (r : Nat) : State := { s with ctxsw := { s.ctxsw with ctl := v, result := r } }
  match mget s.ctxs ctx with
  | none => e 2
  | some c =>
    if (s.wgsAt ctx halls).isEmpty && (s.gangsAt ctx halls .pending).isEmpty then e 2
    else if 4096 * fld s.ctxsw.size 39 12 < s.saveBytes ctx halls then e 1
    else
      let fresh := halls.filter (fun h => !c.savedOn h)
      let s1 := (s.abandonSlices ctx halls).flipClocks ctx fresh
      { s1 with ctxs := mupd s1.ctxs ctx (fun c => { c with savedHalls := fresh.foldl sadd c.savedHalls }),
                ctxsw := { s.ctxsw with ctl := v, busy := true, result := 0, ctx := ctx, halls := halls, since := s.time, saving := true, restoring := [], image := 0 } }

/-- An area holds an image: the bytes there are those that its save wrote, there or elsewhere; one without bytes stands where it was
saved (R338, log entry 12). -/
def State.imageStands (s : State) (area : Nat) (i : Image) : Bool :=
  (i.lines != 0 || i.base == area) && (List.range i.lines).all (fun k => (s.galFetch (area / 128 + k) 0).data == Config.imageLine i.id k)
def State.imageFor (s : State) (ctx : Nat) (halls : List Nat) : Option Image :=
  s.images.find? (fun i => i.ctx == ctx && i.halls == halls && s.imageStands (4096 * fld s.ctxsw.area 56 12) i)
/-- A write of CTXSW_CTL that asks for a restore. -/
def State.restoreStart (s : State) (v : Word) : State :=
  let ctx := fld v 53 48
  let halls := hallsOf v
  let e (r : Nat) : State := { s with ctxsw := { s.ctxsw with ctl := v, result := r } }
  match mget s.ctxs ctx, s.imageFor ctx halls with
  | some c, some i =>
    if !(s.wgsAt ctx halls).isEmpty || (s.gangsAt ctx halls .pending).any (fun p => !c.savedOn p.2.hall) then e 3
    else
      let gs := i.gangs.filter (fun p => (mget s.gangs p.1).isSome)
      { s with gangs := gs.foldl (fun m p => mset m p.1 { p.2 with stat := .pending, restoring := true, since := s.time, resv := [] }) s.gangs,
               ctxsw := { s.ctxsw with ctl := v, busy := true, result := 0, ctx := ctx, halls := halls, since := s.time, saving := false,
                                       restoring := gs.map (·.1), image := i.id } }
  | _, _ => e 3

/-- A write of CTXSW_CTL; ignored while BUSY, and with a reserved OP (R338). -/
def State.ctxswWrite (s : State) (v : Word) : State :=
  if s.ctxsw.busy then s
  else if fld v 55 54 = 0 then s.saveStart v
  else if fld v 55 54 = 1 then s.restoreStart v
  else s

/-- CTXSW_SAVE. -/
def execCtxswSave (v : Word) (s : State) : Out := event s "CTXSW_SAVE" (fld v 55 54 == 0) (s.ctxswWrite v)
/-- CTXSW_RESTORE. -/
def execCtxswRestore (v : Word) (s : State) : Out := event s "CTXSW_RESTORE" (fld v 55 54 == 1) (s.ctxswWrite v)

/-! ## The course of a save (R339) -/

/-- The live warps that a save brings to a boundary. -/
def State.savingWarps (s : State) : NMap Warp :=
  let ws := s.wgsAt s.ctxsw.ctx s.ctxsw.halls
  s.warps.filter (fun p => (mget ws p.2.wg).isSome)

/-- The blocks that step 2 of a save discards: those that wait as R102 lists, and, 20 µs after the write, those whose loads are still
in flight and those that wait for space (a queue that a handler level of another warp holds gets none, R269) or for themselves (R396). -/
def State.saveDrops (s : State) : List Nat :=
  (s.savingWarps.filter (fun p => match p.2.frame with
    | some f => s.blockWaits p.1 f || decide (s.ctxsw.since + 20000 ≤ s.time) && s.blockStuck p.1 f
    | none => false)).map (·.1)
/-- SAVE_BOUNDARY_TIMEOUT: the blocks that step 2 of a save cannot bring to their boundary are discarded with their completion records
(R102, R339). -/
def execSaveBoundaryTimeout (s : State) : Out :=
  event s "SAVE_BOUNDARY_TIMEOUT" (s.ctxsw.busy && s.ctxsw.saving && !s.saveDrops.isEmpty) (s.saveDrops.foldl (fun (s : State) w => s.discardTop w) s)

/-- A warp stands where a save can take it: at a block boundary, or on frozen frames whose accesses are parked or done. -/
def State.saveReady (s : State) (p : Nat × Warp) : Bool :=
  p.2.stq.isEmpty && p.2.levels.all (fun lv => match lv.frame with
    | none => true
    | some f => f.vec.isSome && (s.accsOf p.1 f.fid).all (fun q => q.2.stat.parked))

/-- An alcove warp of the context still runs on a named hall (R332). -/
def State.alcoveRuns (s : State) (ctx : Nat) (halls : List Nat) : Bool :=
  s.cores.any (fun p => halls.contains (hallOfCore p.1) && (match p.2.alcWid with
    | some w => ((s.warp w).map (·.ctx)) == some ctx
    | none => false))

/-- A copy cut at a beat boundary; lines on their way are asked for again (R225). -/
def Copy.cut (q : Copy) : Copy := { q with wait := none, asked := [], got := [], fixed := true }
def Warp.forSave (w : Warp) : Warp :=
  { w with levels := w.levels.map (fun lv => { lv with spilled := false }), stat := if w.stat = .ready then .saved else w.stat, fetch := Fetching.idle, shareHold := false, shareUsed := false, early := [] }

/-- What a save takes from the halls. -/
def State.saveImage (s : State) (ctx : Nat) (halls : List Nat) : Image :=
  let ws := s.wgsAt ctx halls
  let gs := s.gangsAt ctx halls .placed
  let mine (wg : Nat) : Bool := (mget ws wg).isSome
  { id := s.nextId, base := 4096 * fld s.ctxsw.area 56 12, lines := s.saveBytes ctx halls / 128, ctx := ctx, halls := halls, gangs := gs,
    wgs := ws.map (fun p => (p.1, { p.2 with saved := true })),
    warps := s.savingWarps.map (fun p => (p.1, p.2.forSave)),
    accs := s.accs.filter (fun p => (mget s.savingWarps p.2.wid).isSome),
    copies := (s.cores.map (fun p => (p.2.chans.filter (fun q => mine q.2.wg)).map (fun q => (q.2.wg, p.1, q.2.cut)))).flatten,
    mres := (s.cores.map (fun p => (p.2.mres.filter (fun r => mine r.wg)).map (fun r => (r.wg, p.1, r)))).flatten,
    stores := s.storesAt gs }

/-- What a save has taken leaves the halls: slots, scratch, tiles, engine contexts and hall stores are free. -/
def State.takeOff (s : State) (i : Image) : State :=
  let mine (wg : Nat) : Bool := (mget i.wgs wg).isSome
  { s with
    wgs := s.wgs.filter (fun p => !mine p.1),
    warps := s.warps.filter (fun p => (mget i.warps p.1).isNone),
    accs := s.accs.filter (fun p => (mget i.warps p.2.wid).isNone),
    gangs := s.gangs.map (fun p => if (mget i.gangs p.1).isSome then (p.1, { p.2 with stat := .saved }) else p),
    cores := s.cores.map (fun p => (p.1, { p.2 with chans := p.2.chans.filter (fun q => !mine q.2.wg), mres := p.2.mres.filter (fun r => !mine r.wg) })),
    halls := s.halls.map (fun p => (p.1, { p.2 with stores := p.2.stores.filter (fun q => !i.stores.any (fun x => x.1 == p.1 && x.2.1 == q.1)) })),
    grids := s.grids.map (fun p => (p.1, { p.2 with storesAt := p.2.storesAt.filter (fun h => !i.stores.any (fun x => x.1 == h && x.2.1 == p.1)) })) }

/-- The bytes of an image reach the save area (log entry 12). -/
def State.writeImage (s : State) (i : Image) : State :=
  (List.range i.lines).foldl (fun (s : State) k => s.galWrite (i.base / 128 + k) 0 (Config.imageLine i.id k) (BitVec.allOnes 128) none)
    { s with nextId := s.nextId + 1, images := s.images.filter (fun j => j.lines != 0 || j.base != i.base) ++ [i] }

/-- A copy of the context on the halls has written its last byte and its completion has not landed yet: it lands before the save goes on
(R225, R342). -/
def Image.copyLands (i : Image) : Bool := i.copies.any (fun q => decide (q.2.2.beats ≤ q.2.2.beat))
/-- CTXSW_SAVE_DONE: every warp, copy and engine concerned stands at its boundary; the image is written and the halls are free. -/
def execCtxswSaveDone (s : State) : Out :=
  let i := s.saveImage s.ctxsw.ctx s.ctxsw.halls
  let s1 := (s.takeOff i).writeImage i
  event s "CTXSW_SAVE_DONE" (s.ctxsw.busy && s.ctxsw.saving && s.savingWarps.all s.saveReady && !i.copyLands && !s.alcoveRuns s.ctxsw.ctx s.ctxsw.halls)
    { s1 with ctxsw := { s.ctxsw with busy := false, saving := false, result := 0 } }

/-! ## The end of a restore (R340) -/

/-- CTXSW_RESTORE_DONE: every saved gang has been placed and its image loaded; held gangs, queues and watchdogs go on. -/
def execCtxswRestoreDone (s : State) : Out :=
  let ctx := s.ctxsw.ctx
  let halls := s.ctxsw.halls
  let placed := s.ctxsw.restoring.all (fun g => match mget s.gangs g with
    | some x => x.stat != .pending
    | none => true)
  let s0 : State := { s with
                     gangs := s.gangs.map (fun p => if s.ctxsw.restoring.contains p.1 then (p.1, { p.2 with restoring := false }) else p),
                     images := s.images.filter (fun i => i.id != s.ctxsw.image),
                     ctxsw := { s.ctxsw with busy := false, result := 0, restoring := [] } }
  let s1 := s0.flipClocks ctx halls
  let s2 : State := { s1 with
                      ctxs := mupd s1.ctxs ctx (fun c => { c with savedHalls := c.savedHalls.filter (fun h => !halls.contains h),
                                                                  graphs := c.graphs.map (fun g => (g.1, { g.2 with started := s.time })) }) }
  let qs := (s2.queues.filter (fun q => q.2.ctx == ctx)).map (·.1)
  event s "CTXSW_RESTORE_DONE" (s.ctxsw.busy && !s.ctxsw.saving && placed) (qs.foldl (fun (s : State) q => s.batches q) s2)

end Sys2Proof.Machine
end

