-- ==== Sys2Proof/Machine/Ras.lean ====
section
/-!
DEFINITION. Sys2Proof/Machine/Ras.lean: hardware errors: fatal errors of halls and contexts (R183, R362, R363), uncorrected and
corrected errors of storage (R359, R360, R366).
-/
namespace Sys2Proof.Machine

/-! ## Hall fatal (R362) -/

/-- Ends the work of a workgroup's warps without effect. -/
def State.endWg (s : State) (wg : Nat) : State :=
  match mget s.wgs wg with
  | some g => g.warps.foldl (fun (s : State) w => s.warpEnd1 w) s
  | none => s
/-- A module of a hall that has stopped: what the Gallery has accepted is still performed there. -/
def Module.stopped (m : Module) : Module :=
  { m with up := { Chan.idle with accepted := m.up.accepted }, down := Chan.idle, crcTimes := [] }

/-- A hall stops at once: its work ends, the operations of its engines too, every context with a workgroup on it stops, device-scope barriers break, its hall stores
and its transactions in flight are lost. -/
def State.hallFatal (s : State) (h cause : Nat) : State :=
  let ctxs := (mkeys s.ctxs).filter (fun c => s.wgs.any (fun p => p.2.ctx == c && hallOfCore p.2.core == h && !p.2.ended))
  let s1 := (mkeys s.ctxs).foldl (fun (s : State) c => s.abandonSlices c [h]) s
  let s2 := ((s1.wgs.filter (fun p => hallOfCore p.2.core == h && p.2.alcove)).map (·.1)).foldl (fun (s : State) g => s.endWg g) s1
  let s3 := ctxs.foldl (fun (s : State) c => s.contextStop c cContextFatal 0x3F 0 0 h 0) s2
  let s4 := s3.updHall h (fun x => { x with fatal := true, cache := [], ic := [], stores := [], pend := [], reads := [], busy := [], held := [], mods := x.mods.map (fun p => (p.1, p.2.stopped)) })
  let s5 : State := { s4 with invs := s4.invs.filter (fun p => p.1 != h), gal := s4.gal.map (fun p => (p.1, { p.2 with halls := sdel p.2.halls h })),
                              cores := s4.cores.map (fun p => if hallOfCore p.1 = h then (p.1, { p.2 with chans := [], mres := [] }) else p) }
  let s6 := s5.reapAll ((s5.wgs.filter (fun p => p.2.ended && hallOfCore p.2.core == h)).map (·.1))
  ((s6.breakBarriers h).note h 0x0030 none 0 (toWord cause)).msix 66

/-- HALL_FATAL_ERROR: cause 1 its links, 2 uncorrected control state, 3 its island (R366). -/
def execHallFatalError (hall cause : Nat) (s : State) : Out :=
  event s "HALL_FATAL_ERROR" (decide (hall < 8) && !(s.hall hall).fatal && ((cause == 1 && (s.hall hall).allDown) || cause == 2 || cause == 3))
    (s.hallFatal hall cause)

/-- CONTEXT_FATAL_ERROR: an uncorrected error in a warp's state stops its context (R363). -/
def execContextFatalError (ctx wid : Nat) (s : State) : Out :=
  match s.warp wid, mget s.ctxs ctx with
  | some w, some c =>
    event s "CONTEXT_FATAL_ERROR" (w.ctx == ctx && !c.stopped)
      (s.contextStop ctx cMemoryPoison cMemoryPoison (s.recOf w 0 0 0 0).toNat ((w.top.map (·.pc)).getD 0) (s.hallOf w) (coreUnit (s.coreOf w)))
  | _, _ => .refused (.notEnabled "CONTEXT_FATAL_ERROR")

/-! ## Corrected errors (R366) -/

/-- A corrected error of a unit: at most one event in a millisecond; the others are counted into the next. -/
def State.corrected (s : State) (r unit addr : Nat) : State :=
  match s.corr.find? (fun p => p.1 == r && p.2.1 == unit) with
  | some (_, _, n, t) =>
    let rest := s.corr.filter (fun p => !(p.1 == r && p.2.1 == unit))
    if s.time < t + 1000000 then { s with corr := rest ++ [(r, unit, n + 1, t)] }
    else ({ s with corr := rest ++ [(r, unit, 0, s.time)] } : State).note r 0x0001 none unit (toWord (addr % 2 ^ 52 + (n + 1) % 2 ^ 12 * 2 ^ 52))
  | none => ({ s with corr := s.corr ++ [(r, unit, 0, s.time)] } : State).note r 0x0001 none unit (toWord (addr % 2 ^ 52 + 2 ^ 52))

/-- CORRECTED_ERROR: an error that an ECC-protected array corrects. -/
def execCorrectedError (rec unit addr : Nat) (s : State) : Out := event s "CORRECTED_ERROR" (decide (rec < 9)) (s.corrected rec unit addr)

/-! ## Uncorrected errors of storage (R360) -/

/-- UNIT of an event of an HBM sector: its stack, by the interleave of R312. -/
def stackUnit (ln : Nat) : Nat := 128 * ln / 4096 % 12

/-- The storage unit that an error strikes exists and holds data. -/
def State.errHits (s : State) (l : ErrLoc) : Bool :=
  match l with
  | .l1 core ln => (mget (s.core core).l1 ln).isSome
  | .hallLine h ln => (mget (s.hall h).cache ln).isSome
  | .hallStore h gid sec => (match mget (s.hall h).stores gid with
    | some x => decide (32 * sec < x.size)
    | none => false)
  | .gallery ln sec => decide (sec < 4) && ((mget s.gal ln).isSome || (s.tileAt ln).isSome)
  | .hbm ln sec => decide (sec < 4) && decide (128 * ln < localBytes)
  | .scratch wg w => (match mget s.wgs wg with
    | some g => decide (8 * w < g.size)
    | none => false)
  | .tile wg e => (match mget s.wgs wg with
    | some g => decide (4 * e < 16384 * g.tiles)
    | none => false)
  | .staging ctx idx => s.slices.any (fun x => x.ctx == ctx && x.idx == idx && x.placed)

/-- A sector of a present recipe line is poisoned; of a framed one, in the frame too. -/
def State.tileMark (s : State) (ctx i k sec : Nat) : State :=
  s.updRecipe ctx i (fun r => { r with pois := mset r.pois k (mgetD r.pois k 0 ||| BitVec.ofNat 4 (2 ^ sec)) })
/-- What an uncorrected error does: a clean copy is dropped and the error counts as corrected; any other unit is poisoned in
place, a present line of a recipe tile too; a slice whose staging copy is struck fails. -/
def State.strike (s : State) (l : ErrLoc) : State :=
  match l with
  | .l1 core ln => (s.updCore core (fun c => { c with l1 := mdel c.l1 ln })).corrected (hallOfCore core) (coreUnit core) (128 * ln)
  | .hallLine h ln => (s.updHall h (fun x => { x with cache := mdel x.cache ln })).corrected h 0 (128 * ln)
  | .hallStore h gid sec => (s.updStore h gid (fun x => { x with pois := sadd x.pois sec })).note h 0x0002 none 0 (toWord (32 * sec))
  | .gallery ln sec =>
    (match s.tileAt ln with
     | some (ctx, i, k, _) => (s.tileMark ctx i k sec).note 8 0x0002 none (lineUnit ln) (toWord (128 * ln + 32 * sec))
     | none => ({ s with gal := mupd s.gal ln (fun g => { g with pois := g.pois ||| BitVec.ofNat 4 (2 ^ sec) }) } : State).note 8 0x0002 none (lineUnit ln)
         (toWord (128 * ln + 32 * sec)))
  | .hbm ln sec =>
    let x := mgetD s.hlines ln { key := 256, gen := 0, pois := 0 }
    let s1 : State := { s with hlines := mset s.hlines ln { x with pois := x.pois ||| BitVec.ofNat 4 (2 ^ sec) } }
    let s2 := match s.tileAt ln with
      | some (ctx, i, k, _) => if (((mget s.ctxs ctx).bind (fun c => mget c.recipes i)).map Recipe.framed).getD false then s1.tileMark ctx i k sec else s1
      | none => s1
    s2.note 8 0x0002 none (stackUnit ln) (toWord (128 * ln + 32 * sec))
  | .scratch wg w =>
    (match mget s.wgs wg with
     | some g => (s.updMem wg (fun m => { m with wpois := sadd m.wpois w })).noteCore g.core 0x0002 (some g.ctx) (toWord (8 * w))
     | none => s)
  | .tile wg e =>
    (match mget s.wgs wg with
     | some g => (s.updMem wg (fun m => { m with epois := sadd m.epois e })).noteCore g.core 0x0002 (some g.ctx) (toWord (4 * e))
     | none => s)
  | .staging ctx idx =>
    (match s.slices.find? (fun x => x.ctx == ctx && x.idx == idx && x.placed) with
     | some x => s.sliceFail x cRecipeFailed
     | none => s)

/-- UNCORRECTED_ERROR. -/
def execUncorrectedError (loc : ErrLoc) (s : State) : Out := event s "UNCORRECTED_ERROR" (s.errHits loc) (s.strike loc)

end Sys2Proof.Machine
end

