-- ==== Sys2Proof/Machine/HallLink.lean ====
section
/-!
DEFINITION. Sys2Proof/Machine/HallLink.lean: the events of a hall link's modules: flits, acknowledgements, replay, retraining
(R346, R347, R391, R392).
-/
namespace Sys2Proof.Machine

def State.mod (s : State) (hall m : Nat) : Module := (s.hall hall).mod m
def State.setMod (s : State) (hall m : Nat) (x : Module) : State := s.updHall hall (fun h => h.setMod m x)
def State.updChan (s : State) (hall m : Nat) (up : Bool) (f : Chan → Chan) : State :=
  s.setMod hall m ((s.mod hall m).setChan up (f ((s.mod hall m).chan up)))
def State.pumpMod (s : State) (hall m : Nat) (up : Bool) : State := s.setMod hall m ((s.mod hall m).pump up s.time)
/-- A hall whose links work. -/
def State.linkLive (s : State) (hall m : Nat) : Bool := decide (hall < 8) && decide (m < 12) && !(s.hall hall).fatal

/-- The retraining condition: the module retrains, or goes down, and with the last of them the hall (R347, R362). -/
def State.linkFail (s : State) (hall m : Nat) : State :=
  match (s.mod hall m).degrade with
  | .retrain => s.setMod hall m (s.mod hall m).retrain
  | .down =>
    let s1 := ((s.updHall hall (fun h => h.takeDown m s.time)).note hall 0x0012 none m 0).msix 65
    if (s1.hall hall).allDown then s1.hallFatal hall 1 else s1

/-- The CRC failures of the last 100 µs, with one now. -/
def Module.failures (m : Module) (now : Nat) : List Nat := m.crcTimes.filter (fun t => decide (now < t + 100000)) ++ [now]

/-- A good flit is taken: a control flit gives what its header carries; a numbered one does if it is the one expected (R346, R391). -/
def State.takeFlit (s : State) (hall m : Nat) (up : Bool) (f : Flit) : State :=
  let s1 := if f.isControl then s else s.updChan hall m up (fun c => c.accept f s.time)
  if f.isControl || f.seq == ((s.mod hall m).chan up).expect then
    s1.updChan hall m (!up) (fun c => { c with acks := c.acks ++ f.ack.toList, naks := c.naks ++ f.nak.toList })
  else s1

/-- HLINK_FLIT_RECEIVE: a flit of a direction reaches its receiver, with a good CRC or a bad one. -/
def execHlinkFlitReceive (hall m : Nat) (up crcOk : Bool) (s : State) : Out :=
  let x := s.mod hall m
  match (x.chan up).flight with
  | [] => .refused (.notEnabled "HLINK_FLIT_RECEIVE")
  | f :: rest =>
    let s1 := s.updChan hall m up (fun c => { c with flight := rest })
    event s "HLINK_FLIT_RECEIVE" (s.linkLive hall m && x.isUp)
      (if crcOk then s1.takeFlit hall m up f
      else
        let ts := x.failures s.time
        if 8 ≤ ts.length then s1.linkFail hall m
        else (s1.setMod hall m { s1.mod hall m with crcTimes := ts }).updChan hall m up (fun c =>
          { c with nakOwed := some c.expect, ackSince := c.owedSince s.time }))

/-- A replay begins: it is counted and recorded (R392). -/
def State.replayNoted (s : State) (hall m n : Nat) : State :=
  (s.updHall hall (fun h => { h with replays := min (h.replays + 1) (2 ^ 24 - 1) })).note hall 0x0010 none m (toWord n)

/-- HLINK_NAK_RECEIVED: the transmitter resends every flit from the number on. -/
def execHlinkNakReceived (hall m : Nat) (up : Bool) (s : State) : Out :=
  match ((s.mod hall m).chan up).naks with
  | [] => .refused (.notEnabled "HLINK_NAK_RECEIVED")
  | n :: rest =>
    let s1 := s.updChan hall m up (fun c => { c with naks := rest })
    let any := ((s.mod hall m).chan up).replay.any (fun f => decide (seqDiff f.seq n ≤ 512))
    event s "HLINK_NAK_RECEIVED" (s.linkLive hall m && (s.mod hall m).isUp)
      (if any then (s1.setMod hall m ((s1.mod hall m).resend up n s.time)).replayNoted hall m n else s1)

/-- HLINK_ACK_RECEIVED: the flits up to the number leave the replay buffer, and waiting transactions may go. -/
def execHlinkAckReceived (hall m : Nat) (up : Bool) (s : State) : Out :=
  match ((s.mod hall m).chan up).acks with
  | [] => .refused (.notEnabled "HLINK_ACK_RECEIVED")
  | n :: rest =>
    event s "HLINK_ACK_RECEIVED" (s.linkLive hall m && (s.mod hall m).isUp)
      ((s.updChan hall m up (fun c => ({ c with acks := rest } : Chan).ack n s.time)).pumpMod hall m up)

/-- HLINK_ACK_TIMER: what a receiver of a direction has owed for 32 ns goes in a control flit of the other (R391). -/
def execHlinkAckTimer (hall m : Nat) (up : Bool) (s : State) : Out :=
  let c := (s.mod hall m).chan up
  event s "HLINK_ACK_TIMER" (s.linkLive hall m && (s.mod hall m).isUp && (c.ackOwed.isSome || c.nakOwed.isSome) && decide (c.ackSince + 32 ≤ s.time))
    (s.setMod hall m ((s.mod hall m).fly (!up) [{ seq := 0, txns := [], ack := none, nak := none }]))

/-- HLINK_REPLAY_TIMEOUT: the oldest unacknowledged flit has had no acknowledgement for 1 µs. -/
def execHlinkReplayTimeout (hall m : Nat) (up : Bool) (s : State) : Out :=
  match ((s.mod hall m).chan up).replay with
  | [] => .refused (.notEnabled "HLINK_REPLAY_TIMEOUT")
  | f :: _ =>
    event s "HLINK_REPLAY_TIMEOUT" (s.linkLive hall m && (s.mod hall m).isUp && decide (((s.mod hall m).chan up).since + 1000 ≤ s.time))
      ((s.setMod hall m ((s.mod hall m).resend up f.seq s.time)).replayNoted hall m f.seq)

/-- HLINK_LANE_FAILURE: a lane of a module fails its monitoring. -/
def execHlinkLaneFailure (hall m : Nat) (s : State) : Out :=
  event s "HLINK_LANE_FAILURE" (s.linkLive hall m && (s.mod hall m).isUp) (s.linkFail hall m)

/-- HLINK_RETRAIN_DONE: the module is up at ×32. -/
def execHlinkRetrainDone (hall m : Nat) (s : State) : Out :=
  event s "HLINK_RETRAIN_DONE" (s.linkLive hall m && (s.mod hall m).width == 3)
    ((((s.setMod hall m ((s.mod hall m).retrained s.time)).updHall hall (fun h => { h with retrains := min (h.retrains + 1) 255 })).note hall 0x0011 none m 1).msix 65)

end Sys2Proof.Machine
end

