-- ==== Sys2Proof/Machine/Hsl.lean ====
section
/-!
DEFINITION. Sys2Proof/Machine/Hsl.lean: answers of host memory and of other packages (R350, R358), the HSL ports (R357), requests of
other packages, and the completion timeout (R358).
-/
namespace Sys2Proof.Machine

/-! ## Answers to requests that left the package -/

/-- The copy that asked under a tag: core and channel. -/
def State.askingCopy (s : State) (tag : Nat) : Option (Nat × Nat × Copy) :=
  (s.cores.filterMap (fun p => (p.2.chans.find? (fun q => q.2.asked.any (fun x => x.1 == tag))).map (fun q => (p.1, q.1, q.2)))).head?
/-- A line from outside the package reaches the copy that asked for it. -/
def State.copyGot (s : State) (tag : Nat) (data : Line) (pois : BitVec 4) : State :=
  match s.askingCopy tag with
  | none => s
  | some (core, ch, q) => match q.asked.find? (fun x => x.1 == tag) with
    | none => s
    | some x => s.setChan core ch { q with asked := q.asked.filter (fun y => y.1 != tag), got := q.got.filter (fun g => g.1 != x.2) ++ [(x.2, data, pois)] }

/-- The write of a hall that an answer names is performed. -/
def State.writeDone (s : State) (hall tag : Nat) : State := s.updHall hall (fun h => { h with pend := h.pend.filter (fun p => p.tag != tag) })

/-- What a request for a line outside the package brings, under the hall's own writes to it that are still on their way (R256, R305): its bytes and
the marks of the sectors asked for. -/
def State.arrivedOut (s : State) (r : ExtReq) (data : Line) (pois : Bool) : Line × BitVec 4 :=
  let sect := sectTouched r.msg.mask
  (overlay (s.hall r.hall).pend (r.phys / 128) data, overlayPois (s.hall r.hall).pend (r.phys / 128) (if pois then sect else 0) &&& sect)
/-- A load's answer: the line in its place, or an atomic's old value at byte 0 (R304, R358). -/
def State.accReply (s : State) (r : ExtReq) (tag aid : Nat) (data : Line) (pois : Bool) : State :=
  match mget s.accs aid with
  | none => s
  | some a =>
    if a.stat ≠ .outside tag then s
    else if a.kind.isAtomic then s.capture aid a data pois 0
    else
      let l := s.arrivedOut r data pois
      (s.updCore (s.accCore a) (fun c => c.l1Fill (Config.victim s.tick) r.msg.ctx (r.phys / 128) l.1 (sectTouched r.msg.mask) l.2 s.stamp)).capture
        aid a l.1 (l.2 != 0) 0

/-- A request is over: its end-to-end tag and its port's tracker are free (R313, R358). -/
def State.closeReq (s : State) (tag : Nat) (r : ExtReq) : State :=
  let s1 := { s with ext := mdel s.ext tag }
  if r.host then s1 else s1.portFree r.port
/-- The answer to a request: it is given once. -/
def State.reply (s : State) (tag : Nat) (data : Line) (pois : Bool) : State :=
  match mget s.ext tag with
  | none => s
  | some r =>
    let s1 := s.closeReq tag r
    if r.hall = 9 then (if r.msg.kind = .load then s1.hostLineCome r.wtag r.msg.ctx r.msg.key data pois else s1)
    else match r.msg.kind with
    | .store | .disc | .clean => if r.hall < 8 then s1.writeDone r.hall r.wtag else s1
    | _ => match r.aid with
      | some aid => s1.accReply r tag aid data pois
      | none =>
        if r.isCode then s1.updCluster r.wtag (fun c => { c with fills := c.fills.map (fun f => if f.line = r.phys / 128 ∧ f.sent = true then
          { f with got := some { ctx := r.msg.ctx, data := data, valid := 15, pois := if pois then 15 else 0, stamp := 0 } } else f) })
        else
          let l := s1.arrivedOut r data pois
          match r.pref with
          | some core => s1.updCore core (fun c => c.l1Fill (Config.victim s.tick) r.msg.ctx (r.phys / 128) l.1 15 l.2 s.stamp)
          | none => s1.copyGot tag l.1 l.2

/-! ## Ports (R346, R357) -/

/-- A control flit: it carries an acknowledgement or a NAK and no message, and is never replayed. -/
def ctlFlit (ack nak : Option Nat) : HFlit := { seq := 0, msgs := [], ack := ack, nak := nak }
def isAnswer (m : HMsg) : Bool := m.kind == .loadDone || m.kind == .storeDone || m.kind == .atomicDone
/-- The requests that wait on a port, or have left it and are not acknowledged. -/
def Port.unsent (p : Port) : List Nat := ((p.held ++ p.waiting ++ (p.replay.map (·.msgs)).flatten).filter (fun m => !isAnswer m)).map (·.tag)

/-- The flits up to an acknowledged one are delivered: the timers of their requests start (R358). -/
def State.portAck (s : State) (port n : Nat) : State :=
  let p := s.port port
  let left (g : HFlit) : Bool := decide (1 ≤ seqDiff g.seq n ∧ seqDiff g.seq n ≤ 512)
  let r := p.replay.filter left
  let tags := (((p.replay.filter (fun g => !left g)).map (·.msgs)).flatten.filter (fun m => !isAnswer m)).map (·.tag)
  { s with ext := tags.foldl (fun e t => mupd e t (fun q => { q with since := s.time })) s.ext }.setPort port
    { p with replay := r, since := if r.length = p.replay.length then p.since else s.time }
/-- The transmitter takes an acknowledgement, then a NAK. -/
def State.portHeader (s : State) (port : Nat) (f : HFlit) : State :=
  let s1 := match f.ack with
    | some n => s.portAck port n
    | none => s
  match f.nak with
  | some n => s1.setPort port ((s1.port port).resend n s.time)
  | none => s1
/-- The receiver takes a flit: messages of the expected one, in order, stamped with the order in which the package takes them; a
duplicate is acknowledged again. -/
def Port.accept (p : Port) (f : HFlit) (order : Nat) : Port :=
  if f.msgs.isEmpty then p
  else if f.seq = p.expect then { p with expect := (p.expect + 1) % 1024, ackOwed := some f.seq, accepted := p.accepted ++ f.msgs.map (fun m => (order, m)) }
  else if seqDiff p.expect f.seq ≤ 64 then { p with ackOwed := some ((p.expect + 1023) % 1024) }
  else p
/-- What the receiver owes goes with the next flit, or at once where none waits. -/
def Port.answer (p : Port) (now : Nat) : Port :=
  let p1 := p.pump now
  match p1.ackOwed with
  | some n => { p1 with sent := p1.sent ++ [ctlFlit (some n) none], ackOwed := none }
  | none => p1

/-- Answers of other packages take effect as they are accepted; their requests wait for REMOTE_REQUEST. -/
def State.takeAnswers (s : State) (port : Nat) : State :=
  let ms := (s.port port).accepted
  (ms.filter (fun m => isAnswer m.2)).foldl (fun (s : State) m => s.reply m.2.tag m.2.data m.2.poisoned)
    (s.setPort port { s.port port with accepted := ms.filter (fun m => !isAnswer m.2) })

/-- HSL_FLIT_RECEIVE: a flit arrives on a port with a good CRC or a bad one. -/
def execHslFlitReceive (port : Nat) (flit : HFlit) (crcOk : Bool) (s : State) : Out :=
  let p := s.port port
  event s "HSL_FLIT_RECEIVE" (decide (port < 64) && p.lanes != 0 && !p.training)
    (if crcOk then
      let s1 := { s with nextId := s.nextId + 1 }.portHeader port flit
      (s1.setPort port (((s1.port port).accept flit s.nextId).answer s.time)).takeAnswers port
     else s.setPort port { p with sent := p.sent ++ [ctlFlit none (some p.expect)] })

/-- The oldest flit of a port has had no acknowledgement for 1 µs: the port resends from it, as a hall link does (R346, R391). -/
def State.portResend (s : State) (port : Nat) : State :=
  let p := s.port port
  match p.replay with
  | f :: _ => if p.lanes ≠ 0 ∧ p.training = false ∧ p.since + 1000 ≤ s.time then s.setPort port (p.resend f.seq s.time) else s
  | [] => s

/-- A port that is down: its traffic moves to other ports, what is not acknowledged first. -/
def State.portDown (s : State) (port : Nat) : State :=
  let p := s.port port
  let ms := (p.replay.map (·.msgs)).flatten ++ p.waiting ++ p.held
  let s1 := s.setPort port { p with lanes := 0, training := false, busy := 0, held := [], waiting := [], replay := [] }
  let s2 := ms.foldl (fun (s : State) m => if isAnswer m then s.sendMsg m else s.sendReq m) s1
  (s2.note 8 0x0012 none port 0).msix 65
/-- HSL_PORT_DEGRADE: the lanes of a port fail and it trains; then it runs at 2 lanes, then at 1, and is then down. -/
def execHslPortDegrade (port : Nat) (s : State) : Out :=
  let p := s.port port
  event s "HSL_PORT_DEGRADE" (decide (port < 64) && p.lanes != 0)
    (if !p.training then s.setPort port { p with training := true }
     else if p.lanes = 1 then s.portDown port
     else ((s.setPort port (({ p with lanes := p.lanes / 2, training := false, sent := p.sent ++ p.replay, since := s.time } : Port).pump s.time)).note 8 0x0011 none port
       (if p.lanes = 4 then 2 else 1)).msix 65)

/-! ## Requests of other packages (R357) -/

/-- A request is performed at the Gallery, under its key ID, and answered. -/
def State.performRemote (s : State) (m : HMsg) : State :=
  let me := fld s.domain 9 0
  let ln := m.pa / 128
  let ans (k : HKind) (d : Line) (p : Bool) : HMsg := { m with kind := k, src := me, dst := m.src, data := d, poisoned := p }
  match m.kind with
  | .load =>
    let r := s.galRead (some m.ctx) ln m.key none
    r.1.sendMsg (ans .loadDone r.2.data (r.2.pois &&& sectTouched m.mask != 0))
  | .store => (s.galWriteP (some m.ctx) ln m.key m.data m.mask (if m.poisoned then sectTouched m.mask else 0) none).sendMsg (ans .storeDone 0 false)
  | .clean => (s.cleanHome ln).sendMsg (ans .storeDone 0 false)
  | .disc => (s.zeroLine (some m.ctx) ln m.key none).sendMsg (ans .storeDone 0 false)
  | .atomic =>
    let r := s.galBytes m.pa m.size m.key
    if r.2 then s.sendMsg (ans .atomicDone 0 true)
    else
      let v := atomApply m.aop (m.size == 8) m.acas m.af32 r.1 (lineBytes m.data 0 8) (lineBytes m.data 8 8)
      (s.galWriteP (some m.ctx) ln m.key (placeAt v (m.pa % 128)) (byteMask (m.pa % 128) m.size) 0 none).sendMsg (ans .atomicDone (placeAt r.1 0) false)
  | _ => s
/-- No older request of the same package to the same line waits on another port (R357). -/
def State.remoteFirst (s : State) (order : Nat) (m : HMsg) : Bool :=
  s.ports.all (fun p => p.2.accepted.all (fun q => !(decide (q.1 < order) && q.2.src == m.src && q.2.pa / 128 == m.pa / 128)))
/-- REMOTE_REQUEST: the oldest request accepted on a port. -/
def execRemoteRequest (port : Nat) (s : State) : Out :=
  match (s.port port).accepted with
  | [] => .refused (.notEnabled "REMOTE_REQUEST")
  | (o, m) :: l =>
    event s "REMOTE_REQUEST" (decide (m.pa < localBytes) && s.remoteFirst o m) ((s.setPort port { s.port port with accepted := l }).performRemote m)

/-! ## The completion timeout (R358) -/

/-- The record of a lost store. -/
def lostRecord (p : PendW) : FRec :=
  { ctx := p.ctx, w0 := recWord0 5 cMemoryPoison.toNat p.ctx p.level p.mode p.slot p.lane p.seq, info := toWord p.va, block := p.blk, handle := 0 }
/-- What becomes of a request whose timer expires. -/
def State.expire (s : State) (tag : Nat) (r : ExtReq) : State :=
  let s1 := s.closeReq tag r
  match r.msg.kind with
  | .clean => s1.writeDone r.hall r.wtag
  | .store | .disc =>
    if r.hall < 8 then (match (s.hall r.hall).pend.find? (fun p => p.tag == r.wtag) with
      | some p => (s1.writeDone r.hall r.wtag).post (lostRecord p)
      | none => s1)
    else s1.post { ctx := r.msg.ctx, w0 := recWord0 5 cMemoryPoison.toNat r.msg.ctx 0 0 0 0 (lineBytes r.msg.data (r.msg.pa % 128) 8), info := toWord r.wtag, block := 0, handle := 0 }
  | _ => match r.aid with
    | some aid => (match mget s.accs aid with
      | some a => if a.stat = .outside tag then s1.accFail aid cMemoryPoison (toWord a.va) else s1
      | none => s1)
    | none => s.reply tag 0 true
/-- REMOTE_COMPLETION_TIMEOUT: no answer of another package within the completion timeout; a request that its port still has to deliver, or
whose port trains, does not time out (R358). -/
def execRemoteCompletionTimeout (tag : Nat) (s : State) : Out :=
  match mget s.ext tag with
  | none => .refused (.notEnabled "REMOTE_COMPLETION_TIMEOUT")
  | some r => event s "REMOTE_COMPLETION_TIMEOUT" (!r.host && decide (r.since + s.timeout ≤ s.time) && !(s.port r.port).training
      && s.ports.all (fun p => !p.2.unsent.contains tag) && s.postRoom r.msg.ctx) (s.expire tag r)

end Sys2Proof.Machine
end

