-- ==== Sys2Proof/Machine/Shake.lean ====
section
/-!
DEFINITION. Sys2Proof/Machine/Shake.lean: SHAKE256 (FIPS 202), with which the part makes its digests (R368, R370).
-/
namespace Sys2Proof.Machine

def keccakRot : List Nat := [0, 1, 62, 28, 27, 36, 44, 6, 55, 20, 3, 10, 43, 25, 39, 41, 45, 15, 21, 8, 18, 2, 61, 56, 14]
def keccakRC : List Word :=
  [0x0000000000000001, 0x0000000000008082, 0x800000000000808A, 0x8000000080008000, 0x000000000000808B, 0x0000000080000001,
   0x8000000080008081, 0x8000000000008009, 0x000000000000008A, 0x0000000000000088, 0x0000000080008009, 0x000000008000000A] ++
  [0x000000008000808B, 0x800000000000008B, 0x8000000000008089, 0x8000000000008003, 0x8000000000008002, 0x8000000000000080,
   0x000000000000800A, 0x800000008000000A, 0x8000000080008081, 0x8000000000008080, 0x0000000080000001, 0x8000000080008008]

/-- One round; lane (x, y) stands at x + 5y. -/
def keccakRound (a : List Word) (rc : Word) : List Word :=
  let g (l : List Word) (i : Nat) : Word := l.getD i 0
  let c := (List.range 5).map (fun x => g a x ^^^ g a (x + 5) ^^^ g a (x + 10) ^^^ g a (x + 15) ^^^ g a (x + 20))
  let d := (List.range 5).map (fun x => g c ((x + 4) % 5) ^^^ (g c ((x + 1) % 5)).rotateLeft 1)
  let t := (List.range 25).map (fun i => (g a i ^^^ g d (i % 5)).rotateLeft (keccakRot.getD i 0))
  let b := (List.range 25).map (fun i => let x := i % 5; let y := i / 5; g t ((x + 3 * y) % 5 + 5 * x))
  let r := (List.range 25).map (fun i => let x := i % 5; let y := i / 5; g b i ^^^ (~~~(g b ((x + 1) % 5 + 5 * y)) &&& g b ((x + 2) % 5 + 5 * y)))
  match r with
  | x :: l => (x ^^^ rc) :: l
  | [] => []
def keccakF (a : List Word) : List Word := keccakRC.foldl keccakRound a

/-- Eight bytes as a word, little-endian. -/
def bytesWord (l : List (BitVec 8)) : Word := BitVec.ofNat 64 (l.foldr (fun b a => b.toNat + 256 * a) 0)
def wordBytes (w : Word) : List (BitVec 8) := (List.range 8).map (fun i => w.extractLsb' (8 * i) 8)
/-- A block of 136 bytes is absorbed. -/
def absorb (a : List Word) (l : List (BitVec 8)) : List Word :=
  keccakF ((List.range 25).map (fun i => a.getD i 0 ^^^ (if i < 17 then bytesWord ((l.drop (8 * i)).take 8) else 0)))
/-- The padding of a message to whole blocks. -/
def shakePad (n : Nat) : List (BitVec 8) :=
  let k := 136 - n % 136
  if k = 1 then [0x9F] else 0x1F :: (List.replicate (k - 2) 0 ++ [0x80])
/-- The first 32 bytes of SHAKE256 of a message. -/
def shake256 (m : List (BitVec 8)) : List (BitVec 8) :=
  let p := m ++ shakePad m.length
  (((List.range (p.length / 136)).foldl (fun a i => absorb a ((p.drop (136 * i)).take 136)) (List.replicate 25 0)).map wordBytes).flatten.take 32

end Sys2Proof.Machine
end

