-- ==== Sys2Proof/Machine/HostPort.lean ====
section
/-!
DEFINITION. Sys2Proof/Machine/HostPort.lean: the host port's control page and BAR 4 (R350 to R354), the MSI-X table (R352, R356), and
translation invalidation (R317, R397).
-/
namespace Sys2Proof.Machine

/-! ## Translation invalidation (R317) -/

/-- What an invalidation covers: a context's page at an address, its pages in a range, or all of them. -/
structure XlinvRange where
  ctx : Nat
  kind : Nat
  lo : Nat
  n : Nat
  deriving DecidableEq, Repr
def xlinvRange (addr v : Word) : XlinvRange :=
  { ctx := fld v 53 48, kind := fld v 33 32, lo := 65536 * fld addr 56 16, n := 65536 * fld v 31 0 }
/-- The range touches `n` bytes at `a` of its context; of a page that is gone, the 1 GiB around it counts. -/
def XlinvRange.touches (r : XlinvRange) (ctx a n : Nat) : Bool :=
  r.ctx == ctx && (if r.kind = 0 then decide (a ≤ r.lo) && decide (r.lo < a + n) else r.kind == 2 || overlaps a n r.lo r.n)
def XlinvRange.covers (r : XlinvRange) (x : Xlat) : Bool := r.touches x.ctx x.va x.size
/-- A write whose translation the range may cover is still on its way. -/
def XlinvRange.pending (r : XlinvRange) (s : State) : Bool :=
  s.halls.any (fun h => h.2.pend.any (fun p => r.touches p.ctx (if r.kind = 0 then p.va / 2 ^ 30 * 2 ^ 30 else p.va) (if r.kind = 0 then 2 ^ 30 else 128)))

/-- Buffered sinks of a warp that the range covers are marked (R397). -/
def XlinvRange.markWarp (r : XlinvRange) (w : Warp) : Warp :=
  let m (x : Sink) : Sink := if x.xl.any r.covers then { x with stale := true } else x
  { w with levels := w.levels.map (fun lv => { lv with frame := lv.frame.map (fun f => { f with sinks := f.sinks.map m }) }),
           stq := w.stq.map (fun g => { g with sinks := g.sinks.map m }) }

/-- The translations of the range leave every cache; buffered sinks, accesses and copies that hold one are noted, and accesses that
are parked translate again. -/
def State.xlinvDrop (s : State) (r : XlinvRange) : State :=
  let keep (t : List Xlat) : List Xlat := t.filter (fun x => !r.covers x)
  let held (a : Access) : Bool := a.xl.any r.covers
  let s1 : State := { s with
    cores := s.cores.map (fun p => (p.1, { p.2 with tlb := keep p.2.tlb })),
    clusters := s.clusters.map (fun p => (p.1, { p.2 with tlb := keep p.2.tlb, fills := [] })),
    halls := s.halls.map (fun p => (p.1, { p.2 with tlb := keep p.2.tlb })),
    walkCache := s.walkCache.filter (fun e => !r.touches e.1 (e.2.2.1 * 2 ^ lvlShift e.2.1) (2 ^ lvlShift e.2.1)),
    warps := s.warps.map (fun p => (p.1, r.markWarp p.2)),
    images := s.images.map (fun i => { i with warps := i.warps.map (fun p => (p.1, r.markWarp p.2)) }),
    xlinv := { s.xlinv with
      accs := (s.accs.filter (fun p => held p.2 && !p.2.stat.parked)).map (·.1),
      copies := (s.cores.map (fun p => (p.2.chans.filter (fun q => q.2.srcX.any r.covers || q.2.dstX.any r.covers)).map (fun q => q.2.id))).flatten } }
  (s1.accs.filter (fun p => held p.2 && p.2.stat.parked)).foldl (fun (s : State) p => s.accStep p.1 { p.2 with xl := [] }) s1

/-- A write of XLINV_CTL: ignored while BUSY, and with KIND 11. -/
def State.xlinvWrite (s : State) (v : Word) : State :=
  if s.xlinv.busy || fld v 33 32 == 3 then s
  else ({ s with xlinv := { s.xlinv with ctl := v, base := s.xlinv.addr, busy := true } } : State).xlinvDrop (xlinvRange s.xlinv.addr v)
/-- XLINV_PAGE: KIND 00. -/
def execXlinvPage (v : Word) (s : State) : Out := event s "XLINV_PAGE" (fld v 33 32 == 0) (s.xlinvWrite v)
/-- XLINV_RANGE: KIND 01. -/
def execXlinvRange (v : Word) (s : State) : Out := event s "XLINV_RANGE" (fld v 33 32 == 1) (s.xlinvWrite v)
/-- XLINV_CONTEXT: KIND 10. -/
def execXlinvContext (v : Word) (s : State) : Out := event s "XLINV_CONTEXT" (fld v 33 32 == 2) (s.xlinvWrite v)

/-- The running blocks with a buffered sink that an invalidation covered, and whether each waits as R102 lists. -/
def State.staleBlocks (s : State) : List (Nat × Bool) :=
  s.warps.filterMap (fun p => match p.2.frame with
    | some f => if f.vec.isNone && f.sinks.any (·.stale) then some (p.1, s.blockWaits p.1 f) else none
    | none => none)
/-- XLINV_DONE: accesses, writes and copies under removed translations are done, and buffered ones resolved: blocks that wait are
discarded. -/
def execXlinvDone (s : State) : Out :=
  event s "XLINV_DONE"
    (s.xlinv.busy && s.xlinv.accs.all (fun a => (mget s.accs a).isNone)
      && s.xlinv.copies.all (fun i => s.cores.all (fun p => p.2.chans.all (fun q => q.2.id != i)))
      && s.warps.all (fun p => p.2.stq.all (fun g => g.sinks.all (fun x => !x.stale)))
      && !(xlinvRange s.xlinv.base s.xlinv.ctl).pending s && s.staleBlocks.all (·.2))
    (s.staleBlocks.foldl (fun (s : State) p => s.discardTop p.1) { s with xlinv := { s.xlinv with busy := false, accs := [], copies := [] } })

/-! ## The MSI-X table (R352, R356) -/

/-- A doubleword of the table is written; an unmasked vector that was pending is sent, a context's within its spacing (R356). -/
def State.msixWrite (s : State) (i : Nat) (v : BitVec 32) : State :=
  let s1 := { s with msixTable := mset s.msixTable i v }
  let n := i / 4
  if i % 4 = 3 ∧ v.getLsbD 0 = false ∧ s.msixPend.contains n = true then
    (let s2 := { s1 with msixPend := sdel s1.msixPend n }
     if n < 64 ∧ (mget s2.ctxs n).isSome = true then s2.msixCtx n else s2.msix n)
  else s1
def State.msixDword (s : State) (i : Nat) : Nat := (mgetD s.msixTable i (if i % 4 = 3 then 1 else 0)).toNat

/-! ## The control page (R352 to R355) -/

/-- A write of MB_CTL starts a command. -/
def State.mailboxStart (s : State) (v : Word) : State :=
  if s.mb.busy then s else { s with mb := { s.mb with busy := true, performed := false, result := 0, len := fld v 43 32, cmd := fld v 15 0 } }

/-- Every cached translation goes: what a page of the load-store domain is depends on the domain register (R349). -/
def State.dropXlats (s : State) : State :=
  { s with cores := s.cores.map (fun p => (p.1, { p.2 with tlb := [] })), clusters := s.clusters.map (fun p => (p.1, { p.2 with tlb := [] })),
           halls := s.halls.map (fun p => (p.1, { p.2 with tlb := [] })), walkCache := [] }
/-- An 8-byte write to the control page; of a register with RES0 fields, the others (R7). -/
def State.regWrite (s : State) (off : Nat) (v : Word) : State :=
  if off = 0x10 then { s with xlinv := { s.xlinv with addr := toWord (65536 * fld v 56 16) } }
  else if off = 0x18 then s.xlinvWrite v
  else if off = 0x20 then (if s.ctxsw.busy then s else { s with ctxsw := { s.ctxsw with area := toWord (4096 * fld v 56 12) } })
  else if off = 0x28 then s.ctxswWrite v
  else if off = 0x30 then ({ s with domain := toWord (2 ^ 63 * fld v 63 63 + 2 ^ 16 * fld v 25 16 + fld v 9 0) } : State).dropXlats
  else if off = 0x38 then (if s.ctxsw.busy then s else { s with ctxsw := { s.ctxsw with size := toWord (4096 * fld v 39 12) } })
  else if off = 0x400 then s.mailboxStart v
  else if 0x800 ≤ off ∧ off < 0x1000 ∧ s.mb.busy = false then
    { s with mb := { s.mb with data := (List.range (min 8 (0x1000 - off))).foldl (fun m i => msetD m (off - 0x800 + i) (v.extractLsb' (8 * i) 8) 0) s.mb.data } }
  else if 0x2000 ≤ off ∧ off < 0x2530 ∧ off % 4 = 0 then
    (let s1 := s.msixWrite ((off - 0x2000) / 4) (v.extractLsb' 0 32)
     if off + 4 < 0x2530 then s1.msixWrite ((off - 0x2000) / 4 + 1) (v.extractLsb' 32 32) else s1)
  else s

/-- REGISTER_WRITE: a host write of 8 bytes to the control page; an offset that names no register ignores it. -/
def execRegisterWrite (off : Nat) (v : Word) (s : State) : Out := ran s (s.regWrite off v)

/-- The lane codes of a port in HSLSTAT. -/
def Port.statCode (p : Port) : Nat := (if p.lanes = 4 then 3 else p.lanes) + bitN p.training 2
def countCores (p : Nat → Bool) : Nat := ((List.range Config.cores).filter p).length
/-- CAPS (R353). -/
def Fuses.caps (f : Fuses) : Nat :=
  countCores (fun c => !f.noMezz.contains c) * 2 ^ 20 + countCores (fun c => !f.noPair.contains c) * 2 ^ 10 + bitN f.mmani4 0
/-- A read of 8 bytes of the control page. -/
def State.regRead (s : State) (off : Nat) : Word :=
  if off = 0 then toWord (0x0576 * 2 ^ 48 + 0x0200 * 2 ^ 32 + s.fuses.stepping % 2 ^ 16)
  else if off = 8 then toWord s.fuses.caps
  else if off = 0x10 then s.xlinv.addr
  else if off = 0x18 then toWord (bitN s.xlinv.busy 63 + fld s.xlinv.ctl 53 48 * 2 ^ 48 + fld s.xlinv.ctl 33 0)
  else if off = 0x20 then s.ctxsw.area
  else if off = 0x28 then toWord (bitN s.ctxsw.busy 63 + s.ctxsw.result * 2 ^ 60 + fld s.ctxsw.ctl 55 48 * 2 ^ 48 + fld s.ctxsw.ctl 7 0)
  else if off = 0x30 then s.domain
  else if off = 0x38 then s.ctxsw.size
  else if 0x100 ≤ off ∧ off < 0x140 ∧ off % 8 = 0 then (s.hall ((off - 0x100) / 8)).hlink
  else if 0x200 ≤ off ∧ off < 0x220 ∧ off % 8 = 0 then
    toWord ((List.range 16).foldl (fun a i => a + (s.port ((off - 0x200) / 8 * 16 + i)).statCode * 2 ^ (4 * i)) 0)
  else if off = 0x400 then toWord (bitN s.mb.busy 63 + s.mb.result * 2 ^ 60 + s.mb.len * 2 ^ 32 + s.mb.cmd)
  else if 0x800 ≤ off ∧ off < 0x1000 then bytesWord ((List.range 8).map (fun i => mgetD s.mb.data (off - 0x800 + i) 0))
  else if 0x2000 ≤ off ∧ off < 0x2530 ∧ off % 4 = 0 then toWord (s.msixDword ((off - 0x2000) / 4) + s.msixDword ((off - 0x2000) / 4 + 1) * 2 ^ 32)
  else if 0x3000 ≤ off ∧ off < 0x3010 ∧ off % 8 = 0 then
    toWord ((s.msixPend.filter (fun v => v / 64 == (off - 0x3000) / 8)).foldl (fun a v => a + 2 ^ (v % 64)) 0)
  else 0

/-! ## Put windows and BAR 4 (R323, R331, R351) -/

/-- A read of a put window. -/
def State.windowRead (s : State) (q off : Nat) : Word :=
  match mget s.queues q with
  | some x => if x.role = .stage then 0
    else if off = 0x100 then qstatWord (some x)
    else if off = 0x108 then toWord x.drops
    else 0
  | none => 0

/-- `n` bytes of local HBM from `a`, at the Gallery under key ID 0. -/
def State.barRead (s : State) (a n : Nat) : Nat :=
  (List.range n).foldl (fun v i => v + (s.galBytes (a + i) 1 0).1 * 2 ^ (8 * i)) 0
def State.barWrite (s : State) (a n : Nat) (v : Nat) : State :=
  (List.range ((a % 128 + n + 127) / 128)).foldl (fun (s : State) i =>
    let lo := max a (128 * (a / 128 + i))
    let k := min (a + n) (128 * (a / 128 + i + 1)) - lo
    s.galPut none lo k 0 (v / 2 ^ (8 * (lo - a)) % 2 ^ (8 * k))) s

/-- HOST_BAR4_ACCESS: a host access of any length, line by line; without good firmware the BAR is not exposed (R368). -/
def execHostBar4Access (write : Bool) (addr size data : Nat) (s : State) : Out :=
  ran s
    (if !s.fw.ok ∨ localBytes < addr + size then { s with out := s.out ++ [.unsupported] }
     else if write then s.barWrite addr size data
     else { s with out := s.out ++ [.readDone (s.barRead addr size)] })

/-- CXL_MEM_REQUEST: the host reads or writes a line of local HBM, coherently (R350). -/
def execCxlMemRequest (write : Bool) (addr : Nat) (data : Line) (s : State) : Out :=
  event s "CXL_MEM_REQUEST" (s.cxl && s.fw.ok && decide (addr + 128 ≤ localBytes) && addr % 128 == 0)
    (if write then
      let s1 := ({ s with hostHeld := sdel s.hostHeld (addr / 128) } : State).galWrite (addr / 128) 0 data (BitVec.allOnes 128) none
      { s1 with out := s1.out ++ [.writeDone] }
     else
      let r := s.galRead none (addr / 128) 0 none
      { r.1 with out := r.1.out ++ [.lineRead r.2.data], hostHeld := sadd r.1.hostHeld (addr / 128) })

end Sys2Proof.Machine
end

