-- ==== Sys2Proof/Machine/Mailbox.lean ====
section
/-!
DEFINITION. Sys2Proof/Machine/Mailbox.lean: the management mailbox and its commands (R355, R367, R369 to R373).
-/
namespace Sys2Proof.Machine

/-- The bytes of MB_DATA from an offset. -/
def Mailbox.bytes (m : Mailbox) (o n : Nat) : List (BitVec 8) := (List.range n).map (fun i => mgetD m.data (o + i) 0)
def Mailbox.arg (m : Mailbox) (o : Nat) : Word := bytesWord (m.bytes o 8)
/-- A command has been performed with a result code and result bytes. -/
def State.mbResult (s : State) (code : Nat) (l : List (BitVec 8)) : State :=
  { s with mb := { s.mb with performed := true, result := code, len := l.length,
                             data := ((List.range l.length).zip l).foldl (fun m p => msetD m p.1 p.2 0) s.mb.data } }
def State.mbFail (s : State) (code : Nat) : State := s.mbResult code []

/-- A mailbox command runs once, while BUSY; without good firmware every command answers 011 (R368). -/
def mbCommand (s : State) (name : String) (code : Nat) (t : State) : Out :=
  event s name (s.mb.busy && !s.mb.performed && s.mb.cmd == code) (if s.fw.ok then t else s.mbFail 3)

def mbCodes : List Nat := [0x0101, 0x0201, 0x0202, 0x0301, 0x0302, 0x0303, 0x0401, 0x0402]
/-- MB_UNKNOWN_COMMAND: a code of no command. -/
def execMbUnknownCommand (s : State) : Out :=
  event s "MB_UNKNOWN_COMMAND" (s.mb.busy && !s.mb.performed && !mbCodes.contains s.mb.cmd) (s.mbFail (if s.fw.ok then 1 else 3))

/-! ## The recorders (R367) -/

def bytesOf256 (v : BitVec 256) : List (BitVec 8) := (List.range 32).map (fun i => v.extractLsb' (8 * i) 8)
/-- REC_READ: at most 64 events from a sequence number on, oldest first. -/
def execRecRead (s : State) : Out :=
  let a := s.mb.arg 0
  let r := fld a 3 0
  let es := (((mgetD s.recorders r Recorder.empty).events.filter (fun e => decide (fld a 63 8 ≤ e.seq))).reverse).take 64
  mbCommand s "REC_READ" 0x0101 (if 8 < r then s.mbFail 2 else s.mbResult 0 ((es.map (fun e => bytesOf256 e.bytes)).flatten))

/-! ## Keys (R371, R372) -/

/-- A line that a key ID tags, at the Gallery or in HBM. -/
def State.keyLine (s : State) (k ln : Nat) : Bool :=
  (match mget s.gal ln with
   | some g => g.key == k
   | none => false) || (match mget s.hlines ln with
   | some h => h.key == k
   | none => false)
/-- The present lines of recipe tiles whose leaf names a key ID are dropped. -/
def State.dropKeyTiles (s : State) (k : Nat) : State :=
  { s with ctxs := s.ctxs.map (fun c => (c.1, { c.2 with recipes := c.2.recipes.map (fun r =>
      let lose (i : Nat) : Bool := match s.walk c.1 (r.2.tile + 128 * i) with
        | .ok x _ => x.key == k
        | .bad _ => false
      (r.1, { r.2 with present := r.2.present.filter (fun i => !lose i), bytes := r.2.bytes.filter (fun b => !lose b.1),
                         pois := r.2.pois.filter (fun b => !lose b.1), used := r.2.used.filter (fun b => !lose b.1) })) })) }
/-- Every copy above the Gallery of a line under a key ID is dropped; of the decoded blocks, which name no key ID, every one. -/
def State.dropKeyed (s : State) (k : Nat) : State :=
  let keep (m : NMap CLine) : NMap CLine := m.filter (fun p => !s.keyLine k p.1)
  State.forgetEarly (gone := s.keyLine k) { s with
    cores := s.cores.map (fun p => (p.1, { p.2 with l1 := keep p.2.l1, l0 := [] })),
    warps := s.warps.map (fun p => (p.1, { p.2 with fetch := { p.2.fetch with tiles := [], got := p.2.fetch.got.filter (fun g => !s.keyLine k g.1) } })),
    clusters := s.clusters.map (fun p => (p.1, { p.2 with ic := keep p.2.ic, fills := p.2.fills.filter (fun f => f.sent && f.key != k) })),
    halls := s.halls.map (fun p => (p.1, { p.2 with cache := keep p.2.cache, ic := keep p.2.ic })),
    galIc := keep s.galIc }
/-- Lines under a key ID are written back and every copy of them is dropped; accesses that hold a translation (one on a recipe slice too),
requests of other packages, copies, reads and writes in flight are noted. -/
def State.keyFlush (s : State) (k : Nat) : State :=
  let under (l : List Xlat) : Bool := l.any (fun x => x.key == k)
  let s0 := s.dropKeyed k
  let s1 : State := { s0 with
    mb := { s.mb with key := some k,
                      accs := (s.accs.filter (fun p => under p.2.xl && !p.2.stat.walking)).map (·.1),
                      remote := (s.ports.map (fun q => (q.2.accepted.filter (fun m => m.2.key == k)).map (·.1))).flatten,
                      copies := (s.cores.map (fun c => (c.2.chans.filter (fun q => under q.2.srcX || under q.2.dstX)).map (fun q => q.2.id))).flatten,
                      pends := (s.halls.map (fun h => h.2.pend.map (fun p => (h.1, p.tag)))).flatten,
                      reads := (s.halls.map (fun h => h.2.reads.map (fun r => (h.1, r.tag)))).flatten } }
  ((s1.gal.filter (fun p => p.2.key == k)).foldl (fun (s : State) p => s.galEvict p.1) s1).dropKeyTiles k
/-- The argument of a key command: a key ID from 1 to 255. -/
def State.keyArg (s : State) : Option Nat :=
  let k := (s.mb.arg 0).toNat
  if 1 ≤ k ∧ k ≤ 255 then some k else none
/-- KEY_GEN: a fresh key for a key ID. -/
def execKeyGen (s : State) : Out :=
  mbCommand s "KEY_GEN" 0x0201 (match s.keyArg with
    | none => s.mbFail 2
    | some k =>
      let s1 := s.keyFlush k
      (({ s1 with keys := mset s1.keys k s1.nextKeyGen, nextKeyGen := s1.nextKeyGen + 1 } : State).note 8 0x0041 none 0 (toWord k)).mbResult 0 [])
/-- KEY_CLEAR: the key ID holds no key. -/
def execKeyClear (s : State) : Out :=
  mbCommand s "KEY_CLEAR" 0x0202 (match s.keyArg with
    | none => s.mbFail 2
    | some k =>
      let s1 := s.keyFlush k
      (({ s1 with keys := mdel s1.keys k } : State).note 8 0x0041 none 0 (toWord (2 ^ 63 + k))).mbResult 0 [])

/-- Nothing that a key command waits for is left: accesses, requests of other packages, copies, reads and writes in flight at it, and stores under the key that
committed and are not performed (R372). -/
def State.keyDone (s : State) : Bool :=
  s.mb.accs.all (fun a => (mget s.accs a).isNone) && s.mb.copies.all (fun i => s.cores.all (fun c => c.2.chans.all (fun q => q.2.id != i)))
    && s.mb.pends.all (fun p => (s.hall p.1).pend.all (fun q => q.tag != p.2)) && s.mb.reads.all (fun p => (s.hall p.1).reads.all (fun r => r.tag != p.2))
    && s.ports.all (fun q => q.2.accepted.all (fun m => !s.mb.remote.contains m.1))
    && s.warps.all (fun w => w.2.stq.all (fun g => g.sinks.all (fun x => x.xl.all (fun t => some t.key != s.mb.key))))
/-- MB_COMMAND_DONE: the command ends; a key command once what was in flight at it is performed, and with the copies that this brought
dropped (R372). -/
def execMbCommandDone (s : State) : Out :=
  let s1 := match s.mb.key with
    | some k => s.dropKeyed k
    | none => s
  event s "MB_COMMAND_DONE" (s.mb.busy && s.mb.performed && s.keyDone)
    (({ s1 with mb := { s.mb with busy := false, performed := false, accs := [], pends := [], copies := [], reads := [], remote := [], key := none } } : State).msix 64)

/-! ## Attestation and identity (R369, R370) -/

/-- An absent handler entry, as it is hashed. -/
def entryWord (e : Option Nat) : Word := toWord (e.getD 0)
/-- A context's configuration, as CTXHASH takes it. -/
def Ctx.hashed (c : Ctx) : List (BitVec 8) :=
  wordBytes (toWord c.cfg.root) ++
    (List.range 32).map (fun i => BitVec.ofNat 8 ((List.range 8).foldl (fun a b => a + bitN (c.keys.contains (8 * i + b)) b) 0)) ++
    wordBytes (entryWord c.cfg.emu) ++ wordBytes (entryWord c.cfg.trap) ++ wordBytes (toWord c.cfg.recipeBase) ++ wordBytes (toWord c.cfg.recipeCount) ++
    wordBytes (toWord c.cfg.faultBase) ++ wordBytes (wbool c.cfg.supervisor)
def Fuses.hash (f : Fuses) (secMin : Nat) : List (BitVec 8) :=
  shake256 (Config.fuseBytes f.stepping f.secState secMin f.noMezz f.noPair f.mmani4)
/-- Bytes 0 to 143 of the report. -/
def State.reportHead (s : State) (nonce : List (BitVec 8)) (ctx : Option (Nat × Ctx)) : List (BitVec 8) :=
  wordBytes (toWord (2 ^ 48 + (match ctx with
    | some p => 2 ^ 8 + p.1 % 64
    | none => 0))) ++ wordBytes (toWord s.time) ++ nonce ++ bytesOf256 s.fw.hash ++ s.fuses.hash s.fw.secMin ++
    (match ctx with
     | some p => shake256 p.2.hashed
     | none => List.replicate 32 0)
/-- The signature field: 3,309 bytes (R370). -/
def sigField (l : List (BitVec 8)) : List (BitVec 8) := (List.range 3309).map (fun i => l.getD i 0)
/-- ATTEST_MAKE. -/
def execAttestMake (s : State) : Out :=
  let nonce := s.mb.bytes 0 32
  let a := s.mb.arg 32
  let go (c : Option (Nat × Ctx)) : State :=
    let head := s.reportHead nonce c
    ({ s with fw := { s.fw with report := head ++ sigField (Config.mldsaSign s.fuses.seed head) } } : State).mbResult 0 []
  mbCommand s "ATTEST_MAKE" 0x0301 (if a.getLsbD 8 then (match mget s.ctxs (fld a 5 0) with
    | some c => go (some (fld a 5 0, c))
    | none => s.mbFail 2) else go none)
/-- ATTEST_READ. -/
def execAttestRead (s : State) : Out :=
  let o := (s.mb.arg 0).toNat
  mbCommand s "ATTEST_READ" 0x0302 (if 3452 < o then s.mbFail 2 else s.mbResult 0 ((s.fw.report.drop o).take 2048))
/-- The identity: the public key of 1,952 bytes, then the certificate chain that binds it (R369). -/
def Fuses.identity (f : Fuses) : List (BitVec 8) :=
  let k := Config.mldsaPublic f.seed
  (List.range 1952).map (fun i => k.getD i 0) ++ Config.identChain f.seed
/-- IDENT_READ. -/
def execIdentRead (s : State) : Out :=
  let o := (s.mb.arg 0).toNat
  let chain := s.fuses.identity
  mbCommand s "IDENT_READ" 0x0303 (if chain.length ≤ o then s.mbFail 2 else s.mbResult 0 ((chain.drop o).take 2048))

/-! ## Power (R367, R373) -/

/-- POWER_LIMIT. -/
def execPowerLimit (s : State) : Out :=
  let w := (s.mb.arg 0).toNat
  mbCommand s "POWER_LIMIT" 0x0401 (if w < 400 ∨ 2800 < w then s.mbFail 2 else { s with powerLimit := w }.mbResult 0 [])
/-- POWER_READ: the module's power, and the highest die temperature. -/
def execPowerRead (s : State) : Out :=
  let mdeg := (mvals s.sensors).foldl (fun a p => max a p.1) 0
  mbCommand s "POWER_READ" 0x0402 (s.mbResult 0 (wordBytes (toWord ((mvals s.sensors).foldl (fun a p => a + p.2) 0)) ++ wordBytes (toWord mdeg)))

end Sys2Proof.Machine
end

