-- ==== Sys2Proof/Machine/HostDriver.lean ====
section
/-!
DEFINITION. Sys2Proof/Machine/HostDriver.lean: contexts come and go (R32, R337, R381), and the host driver's other acts (R32, R292,
R323, R331 to R333, R335, R337, R350, R358).
-/
namespace Sys2Proof.Machine

/-! ## Contexts -/

def ctxNew (cfg : CtxConfig) : Ctx :=
  { cfg := cfg, keys := [], drophint := 0, nextSeq := 1, recipes := [], pins := [], graphs := [], stopped := false, msixAt := none, msixDue := false,
    savedHalls := [], alcCbase := 0, alcBanks := 0, spillUsed := 0, rr := 0, stopRec := none }
/-- CONTEXT_CREATE: dropped hints 0, `grid.seq` from 1, no key ID permitted. -/
def execContextCreate (ctx : Nat) (cfg : CtxConfig) (s : State) : Out :=
  event s "CONTEXT_CREATE" (decide (ctx < 64) && (mget s.ctxs ctx).isNone) { s with ctxs := mset s.ctxs ctx (ctxNew cfg) }

/-- A context's translations and decoded blocks leave every cache. -/
def State.forgetCtx (s : State) (ctx : Nat) : State :=
  let keep (t : List Xlat) : List Xlat := t.filter (fun x => x.ctx != ctx)
  { s with
    cores := s.cores.map (fun p => (p.1, { p.2 with tlb := keep p.2.tlb, l0 := p.2.l0.filter (fun e => e.ctx != ctx) })),
    clusters := s.clusters.map (fun p => (p.1, { p.2 with tlb := keep p.2.tlb })),
    halls := s.halls.map (fun p => (p.1, { p.2 with tlb := keep p.2.tlb })),
    walkCache := s.walkCache.filter (fun e => e.1 != ctx) }
/-- CONTEXT_DESTROY: everything of the context ends: its work, grids, queues, images and resume handles. -/
def execContextDestroy (ctx : Nat) (s : State) : Out :=
  let gone := (s.grids.filter (fun p => p.2.ctx == ctx)).map (·.1)
  let s1 := gone.foldl (fun (s : State) g => s.gridGone g) (s.endContextWork ctx)
  let s2 := s1.forgetCtx ctx
  event s "CONTEXT_DESTROY" (mget s.ctxs ctx).isSome
    { s2 with ctxs := mdel s2.ctxs ctx, queues := s2.queues.filter (fun p => p.2.ctx != ctx), images := s2.images.filter (fun i => i.ctx != ctx),
              frecs := s2.frecs.filter (fun r => r.ctx != ctx), alcCtx := s2.alcCtx.filter (· != ctx) }

/-! ## The other acts of the host driver -/

def State.updCtx (s : State) (ctx : Nat) (f : Ctx → Ctx) : State := { s with ctxs := mupd s.ctxs ctx f }

/-- One act of the host driver, or of host memory, links and sensors beyond the table's rows. -/
def State.hostAct (s : State) (a : HostAct) : State :=
  match a with
  | .permitKey ctx k => s.updCtx ctx (fun c => { c with keys := if k < 256 then sadd c.keys k else c.keys })
  | .removeKey ctx k => s.updCtx ctx (fun c => { c with keys := sdel c.keys k })
  | .setHandlers ctx emu trap => s.updCtx ctx (fun c => { c with cfg := { c.cfg with emu := emu, trap := trap } })
  | .setRoot ctx root => s.updCtx ctx (fun c => { c with cfg := { c.cfg with root := root } })
  | .setFaultQueue ctx base log2 ctl => s.updCtx ctx (fun c => { c with cfg := { c.cfg with faultBase := base, faultLog2 := log2, faultCtl := ctl } })
  | .setServicer ctx sup => s.updCtx ctx (fun c => { c with cfg := { c.cfg with servicer := sup } })
  | .setPatience ctx p k => s.updCtx ctx (fun c => { c with cfg := { c.cfg with patience := p, ceiling := k } })
  | .setGraph ctx g interval report => s.updCtx ctx (fun c =>
      let x := (mget c.graphs g).getD (graphDefault s.time)
      { c with graphs := mset c.graphs g { x with interval := interval, report := report } })
  | .setReserve cluster n => if n ≤ 8 then s.updHall (cluster / 13) (fun h => { h with reserve := mset h.reserve cluster n }) else s
  | .assignAlcove ctx => { s with alcCtx := ctx }
  | .setAlcoveBanks ctx cbase banks => s.updCtx ctx (fun c => { c with alcCbase := cbase, alcBanks := banks })
  | .fresume h => s.resumeWarp (fun _ => true) h
  | .readRegister off => { s with out := s.out ++ [.readDone (s.regRead off).toNat] }
  | .readPutWindow q off => { s with out := s.out ++ [if s.fw.ok then .readDone (s.windowRead q off).toNat else .unsupported] }
  | .setTimeout ns => if 1000000 ≤ ns ∧ ns ≤ 1000000000 then { s with timeout := ns } else s
  | .hostReply tag data pois => if ((mget s.ext tag).map (·.host)).getD false then s.reply tag data pois else s
  | .trainCxl on => s.trainPort on
  | .cxlSnoop ln inv => if s.cxl then s.hostSnoop ln inv else s
  | .setRoute pkg ports => { s with routes := mset s.routes pkg (ports.filter (· < 64)) }
  | .writeTable i v => if i < 332 then s.msixWrite i v else s
  | .setSensor die mdeg mw => { s with sensors := mset s.sensors die (mdeg, mw) }

end Sys2Proof.Machine
end

