-- ==== Sys2Proof/Machine/Integer.lean ====
section
/-!
DEFINITION. Sys2Proof/Machine/Integer.lean: the instructions of group G1 (R122, R131 to R142).
-/
namespace Sys2Proof.Machine

/-! ## Results -/

def iAdd (md : BitVec 3) (a b : Word) : Word := wrapW md ((uVal md a : Int) + uVal md b)
def iSub (md : BitVec 3) (a b : Word) : Word := wrapW md ((uVal md a : Int) - uVal md b)
def iMul (md : BitVec 3) (a b : Word) : Word := wrapW md ((uVal md a : Int) * uVal md b)
def iMad (md : BitVec 3) (a b c : Word) : Word := wrapW md ((uVal md a : Int) * uVal md b + uVal md c)
/-- The upper N bits of the exact product, rounded towards −∞ (R131). -/
def iMulh (md : BitVec 3) (a b : Word) : Word := wrapW md ((sVal md a * sVal md b).fdiv (2 ^ widthOf md))
/-- Division truncated towards zero; by zero, all ones (R132). -/
def iDiv (md : BitVec 3) (a b : Word) : Word := if sVal md b = 0 then wrapW md (-1) else wrapW md ((sVal md a).tdiv (sVal md b))
/-- The remainder has the sign of the dividend; by zero, the dividend (R132). -/
def iRem (md : BitVec 3) (a b : Word) : Word := if sVal md b = 0 then zx a (widthOf md) else wrapW md ((sVal md a).tmod (sVal md b))

/-- Shifts of the low `n` bits by `k`, below `n` (R135). -/
def shlN (n : Nat) (a : Word) (k : Nat) : Word := zx (a <<< k) n
def shrN (n : Nat) (a : Word) (k : Nat) : Word := zx a n >>> k
def sarN (n : Nat) (a : Word) (k : Nat) : Word := zx ((sx a n).sshiftRight k) n
def rotlN (n : Nat) (a : Word) (k : Nat) : Word := zx (zx a n <<< k ||| zx a n >>> (n - k)) n

/-- The field that a control token names: its position and its length within N bits; empty as length 0 (R137). -/
def bfField (n : Nat) (ctl : Word) : Nat × Nat :=
  if n ≤ fld ctl 7 0 then (0, 0) else (fld ctl 7 0, min (fld ctl 15 8) (n - fld ctl 7 0))
def bfx (md : BitVec 3) (a b : Word) : Word :=
  let p := bfField (widthOf md) b
  let f := toWord (uVal md a / 2 ^ p.1 % 2 ^ p.2)
  zx (if md.getLsbD 1 ∧ 0 < p.2 then sx f p.2 else f) (widthOf md)
def bfi (md : BitVec 3) (a b c : Word) : Word :=
  let p := bfField (widthOf md) c
  let m := toWord ((2 ^ p.2 - 1) * 2 ^ p.1)
  zx ((a &&& ~~~m) ||| ((b <<< p.1) &&& m)) (widthOf md)

/-- The bits of the low `n` bits that are 1, lowest first. -/
def onesOf (n : Nat) (a : Word) : List Nat := (List.range n).filter (fun i => a.getLsbD i)
def popcN (n : Nat) (a : Word) : Word := toWord (onesOf n a).length
def ctzN (n : Nat) (a : Word) : Word := toWord ((onesOf n a).headD n)
def clzN (n : Nat) (a : Word) : Word := toWord (match (onesOf n a).getLast? with
  | some i => n - 1 - i
  | none => n)
def brevN (n : Nat) (a : Word) : Word := ((a.setWidth n).reverse).setWidth 64

/-- Byte i of the result is the byte of a and b that nibble i of c selects (R142). -/
def byteperm (a b c : Word) : Word :=
  toWord ((List.range 8).foldl (fun r i =>
    let k := fld c (4 * i + 3) (4 * i)
    r + 2 ^ (8 * i) * (if k < 8 then fld a (8 * k + 7) (8 * k) else fld b (8 * (k - 8) + 7) (8 * (k - 8)))) 0)

/-! ## Meanings -/

/-- `ADD` (R131). -/
def execAdd (pm : BitVec 2) (md : BitVec 3) (tb ta : BitVec 9) (s : State) : Out :=
  alu s pm (resW md) 2 tb ta (fun a b _ => iAdd md a b)

/-- `SUB` (R131). -/
def execSub (pm : BitVec 2) (md : BitVec 3) (tb ta : BitVec 9) (s : State) : Out :=
  alu s pm (resW md) 2 tb ta (fun a b _ => iSub md a b)

/-- `ADDI` (R131). -/
def execAddi (pm : BitVec 2) (imm : BitVec 12) (t : BitVec 9) (s : State) : Out :=
  aluT s pm false 1 t (fun a _ _ => a + imm64 imm)

/-- `MUL` (R131). -/
def execMul (pm : BitVec 2) (md : BitVec 3) (tb ta : BitVec 9) (s : State) : Out :=
  alu s pm (resW md) 2 tb ta (fun a b _ => iMul md a b)

/-- `MULH` (R131). -/
def execMulh (pm : BitVec 2) (md : BitVec 3) (tb ta : BitVec 9) (s : State) : Out :=
  alu s pm (resWU md) 2 tb ta (fun a b _ => iMulh md a b)

/-- `MAD` (R131). -/
def execMad (pm : BitVec 2) (md : BitVec 3) (tb ta : BitVec 9) (s : State) : Out :=
  alu s pm (resW md) 3 tb ta (fun a b c => iMad md a b c)

/-- `DIV` (R132). -/
def execDiv (pm : BitVec 2) (md : BitVec 3) (tb ta : BitVec 9) (s : State) : Out :=
  alu s pm (resWU md) 2 tb ta (fun a b _ => iDiv md a b)

/-- `REM` (R132). -/
def execRem (pm : BitVec 2) (md : BitVec 3) (tb ta : BitVec 9) (s : State) : Out :=
  alu s pm (resWU md) 2 tb ta (fun a b _ => iRem md a b)

/-- `MIN` (R133). -/
def execMin (pm : BitVec 2) (md : BitVec 3) (tb ta : BitVec 9) (s : State) : Out :=
  alu s pm (resWU md) 2 tb ta (fun a b _ => wrapW md (min (sVal md a) (sVal md b)))

/-- `MAX` (R133). -/
def execMax (pm : BitVec 2) (md : BitVec 3) (tb ta : BitVec 9) (s : State) : Out :=
  alu s pm (resWU md) 2 tb ta (fun a b _ => wrapW md (max (sVal md a) (sVal md b)))

/-- `ABS` (R133). -/
def execAbs (pm : BitVec 2) (md : BitVec 3) (tb ta : BitVec 9) (s : State) : Out :=
  alu s pm (resW md) 1 tb ta (fun a _ _ => wrapW md (sint a (widthOf md)).natAbs)

/-- `NEG` (R133). -/
def execNeg (pm : BitVec 2) (md : BitVec 3) (tb ta : BitVec 9) (s : State) : Out :=
  alu s pm (resW md) 1 tb ta (fun a _ _ => wrapW md (-(uVal md a : Int)))

/-- `AND` (R134). -/
def execAnd (pm : BitVec 2) (md : BitVec 3) (tb ta : BitVec 9) (s : State) : Out :=
  alu s pm (resW md) 2 tb ta (fun a b _ => zx (a &&& b) (widthOf md))

/-- `OR` (R134). -/
def execOr (pm : BitVec 2) (md : BitVec 3) (tb ta : BitVec 9) (s : State) : Out :=
  alu s pm (resW md) 2 tb ta (fun a b _ => zx (a ||| b) (widthOf md))

/-- `XOR` (R134). -/
def execXor (pm : BitVec 2) (md : BitVec 3) (tb ta : BitVec 9) (s : State) : Out :=
  alu s pm (resW md) 2 tb ta (fun a b _ => zx (a ^^^ b) (widthOf md))

/-- `ANDN` (R134). -/
def execAndn (pm : BitVec 2) (md : BitVec 3) (tb ta : BitVec 9) (s : State) : Out :=
  alu s pm (resW md) 2 tb ta (fun a b _ => zx (a &&& ~~~b) (widthOf md))

/-- `NOT` (R134). -/
def execNot (pm : BitVec 2) (md : BitVec 3) (tb ta : BitVec 9) (s : State) : Out :=
  alu s pm (resW md) 1 tb ta (fun a _ _ => zx (~~~a) (widthOf md))

/-- `SHL` (R135). -/
def execShl (pm : BitVec 2) (md : BitVec 3) (tb ta : BitVec 9) (s : State) : Out :=
  alu s pm (resW md) 2 tb ta (fun a b _ => shlN (widthOf md) a (b.toNat % widthOf md))

/-- `SHR` (R135). -/
def execShr (pm : BitVec 2) (md : BitVec 3) (tb ta : BitVec 9) (s : State) : Out :=
  alu s pm (resW md) 2 tb ta (fun a b _ => shrN (widthOf md) a (b.toNat % widthOf md))

/-- `SAR` (R135). -/
def execSar (pm : BitVec 2) (md : BitVec 3) (tb ta : BitVec 9) (s : State) : Out :=
  alu s pm (resW md) 2 tb ta (fun a b _ => sarN (widthOf md) a (b.toNat % widthOf md))

/-- `ROTL` (R135). -/
def execRotl (pm : BitVec 2) (md : BitVec 3) (tb ta : BitVec 9) (s : State) : Out :=
  alu s pm (resW md) 2 tb ta (fun a b _ => rotlN (widthOf md) a (b.toNat % widthOf md))

/-- `SHLI` (R136). -/
def execShli (pm : BitVec 2) (w64 : BitVec 1) (cnt : BitVec 6) (t : BitVec 9) (s : State) : Out :=
  aluT s pm (w64 == 0#1 && cnt.getLsbD 5) 1 t (fun a _ _ => shlN (if w64 = 1#1 then 64 else 32) a cnt.toNat)

/-- `SHRI` (R136). -/
def execShri (pm : BitVec 2) (w64 : BitVec 1) (cnt : BitVec 6) (t : BitVec 9) (s : State) : Out :=
  aluT s pm (w64 == 0#1 && cnt.getLsbD 5) 1 t (fun a _ _ => shrN (if w64 = 1#1 then 64 else 32) a cnt.toNat)

/-- `SARI` (R136). -/
def execSari (pm : BitVec 2) (w64 : BitVec 1) (cnt : BitVec 6) (t : BitVec 9) (s : State) : Out :=
  aluT s pm (w64 == 0#1 && cnt.getLsbD 5) 1 t (fun a _ _ => sarN (if w64 = 1#1 then 64 else 32) a cnt.toNat)

/-- `BFX` (R137). -/
def execBfx (pm : BitVec 2) (md : BitVec 3) (tb ta : BitVec 9) (s : State) : Out :=
  alu s pm (resWU md) 2 tb ta (fun a b _ => bfx md a b)

/-- `BFI` (R137). -/
def execBfi (pm : BitVec 2) (md : BitVec 3) (tb ta : BitVec 9) (s : State) : Out :=
  alu s pm (resW md) 3 tb ta (fun a b c => bfi md a b c)

/-- `POPC` (R138). -/
def execPopc (pm : BitVec 2) (md : BitVec 3) (tb ta : BitVec 9) (s : State) : Out :=
  alu s pm (resW md) 1 tb ta (fun a _ _ => popcN (widthOf md) a)

/-- `CLZ` (R138). -/
def execClz (pm : BitVec 2) (md : BitVec 3) (tb ta : BitVec 9) (s : State) : Out :=
  alu s pm (resW md) 1 tb ta (fun a _ _ => clzN (widthOf md) a)

/-- `CTZ` (R138). -/
def execCtz (pm : BitVec 2) (md : BitVec 3) (tb ta : BitVec 9) (s : State) : Out :=
  alu s pm (resW md) 1 tb ta (fun a _ _ => ctzN (widthOf md) a)

/-- `BREV` (R138). -/
def execBrev (pm : BitVec 2) (md : BitVec 3) (tb ta : BitVec 9) (s : State) : Out :=
  alu s pm (resW md) 1 tb ta (fun a _ _ => brevN (widthOf md) a)

/-- `SEL` (R139). -/
def execSel (pm : BitVec 2) (tb ta : BitVec 9) (s : State) : Out :=
  alu s pm false 3 tb ta (fun a b c => if c.getLsbD 0 then a else b)

/-- `CMPEQ` (R140). -/
def execCmpeq (pm : BitVec 2) (md : BitVec 3) (tb ta : BitVec 9) (s : State) : Out :=
  alu s pm (resW md) 2 tb ta (fun a b _ => boolTok (uVal md a == uVal md b))

/-- `CMPNE` (R140). -/
def execCmpne (pm : BitVec 2) (md : BitVec 3) (tb ta : BitVec 9) (s : State) : Out :=
  alu s pm (resW md) 2 tb ta (fun a b _ => boolTok (uVal md a != uVal md b))

/-- `CMPLT` (R140). -/
def execCmplt (pm : BitVec 2) (md : BitVec 3) (tb ta : BitVec 9) (s : State) : Out :=
  alu s pm (resWU md) 2 tb ta (fun a b _ => boolTok (decide (sVal md a < sVal md b)))

/-- `CMPLE` (R140). -/
def execCmple (pm : BitVec 2) (md : BitVec 3) (tb ta : BitVec 9) (s : State) : Out :=
  alu s pm (resWU md) 2 tb ta (fun a b _ => boolTok (decide (sVal md a ≤ sVal md b)))

/-- `CMPEQI` (R140). -/
def execCmpeqi (pm : BitVec 2) (imm : BitVec 12) (t : BitVec 9) (s : State) : Out :=
  aluT s pm false 1 t (fun a _ _ => boolTok (a == imm64 imm))

/-- `CMPLTI` (R140). -/
def execCmplti (pm : BitVec 2) (imm : BitVec 12) (t : BitVec 9) (s : State) : Out :=
  aluT s pm false 1 t (fun a _ _ => boolTok (a.slt (imm64 imm)))

/-- `LEA` (R141). -/
def execLea (pm : BitVec 2) (md : BitVec 3) (tb ta : BitVec 9) (s : State) : Out :=
  alu s pm false 2 tb ta (fun a b _ => a + (b <<< md.toNat))

/-- `ANDI` (R134). -/
def execAndi (pm : BitVec 2) (imm : BitVec 12) (t : BitVec 9) (s : State) : Out :=
  aluT s pm false 1 t (fun a _ _ => a &&& imm64 imm)

/-- `ORI` (R134). -/
def execOri (pm : BitVec 2) (imm : BitVec 12) (t : BitVec 9) (s : State) : Out :=
  aluT s pm false 1 t (fun a _ _ => a ||| imm64 imm)

/-- `XORI` (R134). -/
def execXori (pm : BitVec 2) (imm : BitVec 12) (t : BitVec 9) (s : State) : Out :=
  aluT s pm false 1 t (fun a _ _ => a ^^^ imm64 imm)

/-- `SEXT` (R141). -/
def execSext (pm : BitVec 2) (md : BitVec 3) (tb ta : BitVec 9) (s : State) : Out :=
  alu s pm (decide (3 ≤ md.toNat)) 1 tb ta (fun a _ _ => sx a (8 * 2 ^ md.toNat))

/-- `ZEXT` (R141). -/
def execZext (pm : BitVec 2) (md : BitVec 3) (tb ta : BitVec 9) (s : State) : Out :=
  alu s pm (decide (3 ≤ md.toNat)) 1 tb ta (fun a _ _ => zx a (8 * 2 ^ md.toNat))

/-- `BYTEPERM` (R142). -/
def execByteperm (pm : BitVec 2) (tb ta : BitVec 9) (s : State) : Out :=
  alu s pm false 3 tb ta (fun a b c => byteperm a b c)

end Sys2Proof.Machine
end

