-- ==== Sys2Proof/Machine/Power.lean ====
section
/-!
DEFINITION. Sys2Proof/Machine/Power.lean: islands and their clocks (R19, R373), heat (R374), package reset (R343, R347, R365) and
power-on (R368, R371).
-/
namespace Sys2Proof.Machine

/-- The recorder and unit of an island: cores, then Gallery slices, then the halls' uncore, then HBM and link islands (log entry 34). -/
def islandRec (i : Nat) : Nat × Nat :=
  if i < 832 then (hallOfCore i, coreUnit i) else if 960 ≤ i ∧ i < 968 then (i - 960, 0) else (8, i - 832)
/-- An island runs at another clock from now on: its core's `clock` goes on from where it is (R19, R366). -/
def State.setIsland (s : State) (island mhz : Nat) : State :=
  let s1 := if island < 832 then s.updCore island (fun c => { c with clkBase := (s.clock island).toNat, clkSince := s.time }) else s
  ({ s1 with islands := mset s1.islands island mhz } : State).note (islandRec island).1 0x0020 none (islandRec island).2 (toWord mhz)
/-- The module's power in mW, as its sensors last reported. -/
def State.power (s : State) : Nat := (mvals s.sensors).foldl (fun a p => a + p.2) 0
/-- The die of an island: 0 to 7 a hall's, 8 the Gallery's (log entry 34). -/
def dieOf (island : Nat) : Nat := if island < 832 then hallOfCore island else if 960 ≤ island ∧ island < 968 then island - 960 else 8
/-- The islands of a die. -/
def dieIslands (die : Nat) : List Nat := (List.range 1024).filter (fun i => dieOf i == die)
/-- Firmware may raise an island: its die is not throttled, and the module is within the limit set (R373, R374). -/
def State.mayRaise (s : State) (island : Nat) : Bool := !s.throttled.contains (dieOf island) && decide (s.power ≤ 1000 * s.powerLimit)
/-- ISLAND_CLOCK_CHANGE: firmware sets an island's clock, a core island's between 400 and 1,050 MHz in steps of 25. -/
def execIslandClockChange (island mhz : Nat) (s : State) : Out :=
  event s "ISLAND_CLOCK_CHANGE" (decide (island < 1024) && (decide (832 ≤ island) || (decide (400 ≤ mhz) && decide (mhz ≤ 1050) && mhz % 25 == 0))
      && (decide (mhz ≤ mgetD s.islands island 800) || s.mayRaise island))
    (s.setIsland island mhz)
/-- Firmware lowers the islands of a throttled die by a step towards 400 MHz (R374). -/
def State.coolDie (s : State) (die : Nat) : State :=
  (dieIslands die).foldl (fun (s : State) i =>
    let f := mgetD s.islands i 800
    if 400 < f then s.setIsland i (max 400 (f - 25)) else s) s

/-- The recorder of a die: halls 0 to 7, else the Gallery's. -/
def dieRec (die : Nat) : Nat := if die < 8 then die else 8
/-- A die's temperature in m°C, as its sensor last reported. -/
def State.dieTemp (s : State) (die : Nat) : Nat := (mgetD s.sensors die (0, 0)).1
/-- THERMAL_THROTTLE_ENTER: a die sensor reaches 100 °C; the die's islands go down, and go on down as time passes (log entry 34). -/
def execThermalThrottleEnter (die : Nat) (s : State) : Out :=
  event s "THERMAL_THROTTLE_ENTER" (!s.throttled.contains die && decide (100000 ≤ s.dieTemp die))
    ((({ s with throttled := sadd s.throttled die } : State).note (dieRec die) 0x0021 none 0 1).coolDie die)
/-- THERMAL_THROTTLE_EXIT: its sensor reads 95 °C. -/
def execThermalThrottleExit (die : Nat) (s : State) : Out :=
  event s "THERMAL_THROTTLE_EXIT" (s.throttled.contains die && decide (s.dieTemp die ≤ 95000))
    (({ s with throttled := sdel s.throttled die } : State).note (dieRec die) 0x0021 none 0 0)

/-- The part after a reset: what a package reset leaves is the fuse map, firmware, keys and their generations, HBM, the recorders,
the sensors, the training of the host port, and the model's own counters and inputs. -/
def State.afterReset (s : State) : State :=
  { State.reset with
    time := s.time, fuses := s.fuses, mem := s.mem, hbmq := s.hbmq, hlines := s.hlines, inbox := s.inbox, tick := s.tick, nextId := s.nextId, stamp := s.stamp,
    fw := { s.fw with report := [] }, recorders := s.recorders, keys := s.keys, nextKeyGen := s.nextKeyGen, sensors := s.sensors, cxl := s.cxl,
    out := s.out, powered := s.powered, resetAt := s.time }
/-- THERMAL_POWER_OFF: a sensor reaches 110 °C: the module powers off, and every context is lost. -/
def execThermalPowerOff (s : State) : Out :=
  event s "THERMAL_POWER_OFF" ((mvals s.sensors).any (fun p => decide (110000 ≤ p.1))) { s.afterReset with powered := false, keys := [] }
/-- PACKAGE_RESET: modules return to ×64 and halls to work; time and recorders go on. -/
def execPackageReset (s : State) : Out := ran s s.afterReset

/-- The boot ROM lets an image run: its signature is good under the key whose digest is fused, and its security version is not below the fused
minimum (R368). -/
def State.bootOk (s : State) (image : List (BitVec 8)) : Bool :=
  Config.imageSigned image && Config.imageKeyDigest image == s.fuses.keyDigest && decide (s.fw.secMin ≤ (Config.imageSecver image).toNat)
/-- What the boot leaves of an image: FWHASH and the versions of one that runs, nothing of one that does not (R368). -/
def State.booted (s : State) (image : List (BitVec 8)) : Firmware :=
  if s.bootOk image then
    { ok := true, secMin := max s.fw.secMin ((Config.imageRaise image).getD 0).toNat,
      hash := BitVec.ofNat 256 ((shake256 image).foldr (fun b a => b.toNat + 256 * a) 0), secver := (Config.imageSecver image).toNat, report := [] }
  else { ok := false, secMin := s.fw.secMin, hash := 0, secver := 0, report := [] }
/-- What the boot ROM reads in an image: its security version, whether its signature is good, and the version it asks the fuse to be raised to
(R368). One image has one reading, so no image both passes and fails. -/
def imageReads (image : List (BitVec 8)) (secver : BitVec 32) (sigOk : Bool) (raise : Option (BitVec 32)) : Bool :=
  secver == Config.imageSecver image && sigOk == Config.imageSigned image && raise == Config.imageRaise image
/-- The part after the boot ROM has read `image` (R368): key ID 0 gets a key (R366, R371), and device time starts at 0. -/
def State.boot (s : State) (image : List (BitVec 8)) : State :=
  let fw := s.booted image
  let s1 := close s { s.afterReset with powered := true, fw := fw, keys := [(0, s.nextKeyGen)], nextKeyGen := s.nextKeyGen + 1 }
  let s2 := ({ s1 with time := 0, resetAt := 0 } : State).note 8 0x0041 none 0 0
  { s2 with recorders := if fw.ok then (s2.note 8 0x0040 none 0 (toWord fw.secver)).recorders else s2.recorders }
/-- POWER_ON: the boot ROM reads the firmware image, and the operands beside it are what it reads there (R368, log entry 34). -/
def execPowerOn (image : List (BitVec 8)) (secver : BitVec 32) (sigOk : Bool) (raise : Option (BitVec 32)) (s : State) : Out :=
  if s.powered || !imageReads image secver sigOk raise then .refused (.notEnabled "POWER_ON") else .next (s.boot image)
theorem imageReads_own (image : List (BitVec 8)) :
    imageReads image (Config.imageSecver image) (Config.imageSigned image) (Config.imageRaise image) = true := by
  simp [imageReads]
/-- A part without power boots any image with its own reading. -/
theorem execPowerOn_own (s : State) (image : List (BitVec 8)) (h : s.powered = false) :
    execPowerOn image (Config.imageSecver image) (Config.imageSigned image) (Config.imageRaise image) s = .next (s.boot image) := by
  simp [execPowerOn, h, imageReads_own]

end Sys2Proof.Machine
end

