-- ==== Sys2Proof/Machine/Dispatch.lean ====
section
/-!
DEFINITION. Sys2Proof/Machine/Dispatch.lean: one arm for each row of the opcode table.
-/
namespace Sys2Proof.Machine

def exec (i : Instr) (s : State) : Host.Outcome State Fault Refusal :=
  match i with
  | .mov pm tb ta => Sys2Proof.Machine.execMov pm tb ta s
  | .void pm tb ta => Sys2Proof.Machine.execVoid pm tb ta s
  | .pick pm tb ta => Sys2Proof.Machine.execPick pm tb ta s
  | .genk pm bank wd t => Sys2Proof.Machine.execGenk pm bank wd t s
  | .genl pm md tb ta lit0 lit1 => Sys2Proof.Machine.execGenl pm md tb ta lit0 lit1 s
  | .sreg pm imm t => Sys2Proof.Machine.execSreg pm imm t s
  | .swreg pm imm => Sys2Proof.Machine.execSwreg pm imm s
  | .shfl pm md tb ta => Sys2Proof.Machine.execShfl pm md tb ta s
  | .vote pm md tb ta => Sys2Proof.Machine.execVote pm md tb ta s
  | .redx pm md tb ta => Sys2Proof.Machine.execRedx pm md tb ta s
  | .scanx pm md tb ta => Sys2Proof.Machine.execScanx pm md tb ta s
  | .elect pm tb ta => Sys2Proof.Machine.execElect pm tb ta s
  | .emret pm => Sys2Proof.Machine.execEmret pm s
  | .yield pm => Sys2Proof.Machine.execYield pm s
  | .trap pm imm => Sys2Proof.Machine.execTrap pm imm s
  | .fresume pm => Sys2Proof.Machine.execFresume pm s
  | .gen imm t => Sys2Proof.Machine.execGen imm t s
  | .genf imm t => Sys2Proof.Machine.execGenf imm t s
  | .add pm md tb ta => Sys2Proof.Machine.execAdd pm md tb ta s
  | .sub pm md tb ta => Sys2Proof.Machine.execSub pm md tb ta s
  | .addi pm imm t => Sys2Proof.Machine.execAddi pm imm t s
  | .mul pm md tb ta => Sys2Proof.Machine.execMul pm md tb ta s
  | .mulh pm md tb ta => Sys2Proof.Machine.execMulh pm md tb ta s
  | .mad pm md tb ta => Sys2Proof.Machine.execMad pm md tb ta s
  | .div pm md tb ta => Sys2Proof.Machine.execDiv pm md tb ta s
  | .rem pm md tb ta => Sys2Proof.Machine.execRem pm md tb ta s
  | .min pm md tb ta => Sys2Proof.Machine.execMin pm md tb ta s
  | .max pm md tb ta => Sys2Proof.Machine.execMax pm md tb ta s
  | .abs pm md tb ta => Sys2Proof.Machine.execAbs pm md tb ta s
  | .neg pm md tb ta => Sys2Proof.Machine.execNeg pm md tb ta s
  | .and pm md tb ta => Sys2Proof.Machine.execAnd pm md tb ta s
  | .or pm md tb ta => Sys2Proof.Machine.execOr pm md tb ta s
  | .xor pm md tb ta => Sys2Proof.Machine.execXor pm md tb ta s
  | .andn pm md tb ta => Sys2Proof.Machine.execAndn pm md tb ta s
  | .not pm md tb ta => Sys2Proof.Machine.execNot pm md tb ta s
  | .shl pm md tb ta => Sys2Proof.Machine.execShl pm md tb ta s
  | .shr pm md tb ta => Sys2Proof.Machine.execShr pm md tb ta s
  | .sar pm md tb ta => Sys2Proof.Machine.execSar pm md tb ta s
  | .rotl pm md tb ta => Sys2Proof.Machine.execRotl pm md tb ta s
  | .shli pm w64 cnt t => Sys2Proof.Machine.execShli pm w64 cnt t s
  | .shri pm w64 cnt t => Sys2Proof.Machine.execShri pm w64 cnt t s
  | .sari pm w64 cnt t => Sys2Proof.Machine.execSari pm w64 cnt t s
  | .bfx pm md tb ta => Sys2Proof.Machine.execBfx pm md tb ta s
  | .bfi pm md tb ta => Sys2Proof.Machine.execBfi pm md tb ta s
  | .popc pm md tb ta => Sys2Proof.Machine.execPopc pm md tb ta s
  | .clz pm md tb ta => Sys2Proof.Machine.execClz pm md tb ta s
  | .ctz pm md tb ta => Sys2Proof.Machine.execCtz pm md tb ta s
  | .brev pm md tb ta => Sys2Proof.Machine.execBrev pm md tb ta s
  | .sel pm tb ta => Sys2Proof.Machine.execSel pm tb ta s
  | .cmpeq pm md tb ta => Sys2Proof.Machine.execCmpeq pm md tb ta s
  | .cmpne pm md tb ta => Sys2Proof.Machine.execCmpne pm md tb ta s
  | .cmplt pm md tb ta => Sys2Proof.Machine.execCmplt pm md tb ta s
  | .cmple pm md tb ta => Sys2Proof.Machine.execCmple pm md tb ta s
  | .cmpeqi pm imm t => Sys2Proof.Machine.execCmpeqi pm imm t s
  | .cmplti pm imm t => Sys2Proof.Machine.execCmplti pm imm t s
  | .lea pm md tb ta => Sys2Proof.Machine.execLea pm md tb ta s
  | .andi pm imm t => Sys2Proof.Machine.execAndi pm imm t s
  | .ori pm imm t => Sys2Proof.Machine.execOri pm imm t s
  | .xori pm imm t => Sys2Proof.Machine.execXori pm imm t s
  | .sext pm md tb ta => Sys2Proof.Machine.execSext pm md tb ta s
  | .zext pm md tb ta => Sys2Proof.Machine.execZext pm md tb ta s
  | .byteperm pm tb ta => Sys2Proof.Machine.execByteperm pm tb ta s
  | .fadd pm md tb ta => Sys2Proof.Machine.execFadd pm md tb ta s
  | .fsub pm md tb ta => Sys2Proof.Machine.execFsub pm md tb ta s
  | .fmul pm md tb ta => Sys2Proof.Machine.execFmul pm md tb ta s
  | .ffma pm md tb ta => Sys2Proof.Machine.execFfma pm md tb ta s
  | .fdiv pm md tb ta => Sys2Proof.Machine.execFdiv pm md tb ta s
  | .fsqrt pm md tb ta => Sys2Proof.Machine.execFsqrt pm md tb ta s
  | .fmin pm md tb ta => Sys2Proof.Machine.execFmin pm md tb ta s
  | .fmax pm md tb ta => Sys2Proof.Machine.execFmax pm md tb ta s
  | .fabs pm tb ta => Sys2Proof.Machine.execFabs pm tb ta s
  | .fneg pm tb ta => Sys2Proof.Machine.execFneg pm tb ta s
  | .fcmp pm md tb ta => Sys2Proof.Machine.execFcmp pm md tb ta s
  | .fclass pm tb ta => Sys2Proof.Machine.execFclass pm tb ta s
  | .frnd pm md tb ta => Sys2Proof.Machine.execFrnd pm md tb ta s
  | .fscale pm md tb ta => Sys2Proof.Machine.execFscale pm md tb ta s
  | .dadd pm md tb ta => Sys2Proof.Machine.execDadd pm md tb ta s
  | .dsub pm md tb ta => Sys2Proof.Machine.execDsub pm md tb ta s
  | .dmul pm md tb ta => Sys2Proof.Machine.execDmul pm md tb ta s
  | .dfma pm md tb ta => Sys2Proof.Machine.execDfma pm md tb ta s
  | .ddiv pm md tb ta => Sys2Proof.Machine.execDdiv pm md tb ta s
  | .dsqrt pm md tb ta => Sys2Proof.Machine.execDsqrt pm md tb ta s
  | .dcmp pm md tb ta => Sys2Proof.Machine.execDcmp pm md tb ta s
  | .dminmax pm md tb ta => Sys2Proof.Machine.execDminmax pm md tb ta s
  | .faddX2 pm md tb ta => Sys2Proof.Machine.execFaddX2 pm md tb ta s
  | .fsubX2 pm md tb ta => Sys2Proof.Machine.execFsubX2 pm md tb ta s
  | .fmulX2 pm md tb ta => Sys2Proof.Machine.execFmulX2 pm md tb ta s
  | .ffmaX2 pm md tb ta => Sys2Proof.Machine.execFfmaX2 pm md tb ta s
  | .fdotX2 pm md tb ta => Sys2Proof.Machine.execFdotX2 pm md tb ta s
  | .haddX4 pm md tb ta => Sys2Proof.Machine.execHaddX4 pm md tb ta s
  | .hmulX4 pm md tb ta => Sys2Proof.Machine.execHmulX4 pm md tb ta s
  | .hfmaX4 pm md tb ta => Sys2Proof.Machine.execHfmaX4 pm md tb ta s
  | .baddX4 pm md tb ta => Sys2Proof.Machine.execBaddX4 pm md tb ta s
  | .bmulX4 pm md tb ta => Sys2Proof.Machine.execBmulX4 pm md tb ta s
  | .bfmaX4 pm md tb ta => Sys2Proof.Machine.execBfmaX4 pm md tb ta s
  | .cvtF2i pm md tb ta => Sys2Proof.Machine.execCvtF2i pm md tb ta s
  | .cvtI2f pm md tb ta => Sys2Proof.Machine.execCvtI2f pm md tb ta s
  | .cvtF2f pm md tb ta => Sys2Proof.Machine.execCvtF2f pm md tb ta s
  | .cvtI2i pm md tb ta => Sys2Proof.Machine.execCvtI2i pm md tb ta s
  | .cvtH2f pm md tb ta => Sys2Proof.Machine.execCvtH2f pm md tb ta s
  | .cvtF2d pm tb ta => Sys2Proof.Machine.execCvtF2d pm tb ta s
  | .cvtD2f pm md tb ta => Sys2Proof.Machine.execCvtD2f pm md tb ta s
  | .ncvtH pm md tb ta => Sys2Proof.Machine.execNcvtH pm md tb ta s
  | .ncvtB pm md tb ta => Sys2Proof.Machine.execNcvtB pm md tb ta s
  | .ncvtE4 pm md tb ta => Sys2Proof.Machine.execNcvtE4 pm md tb ta s
  | .ncvtE5 pm md tb ta => Sys2Proof.Machine.execNcvtE5 pm md tb ta s
  | .ncvtF4 pm md tb ta => Sys2Proof.Machine.execNcvtF4 pm md tb ta s
  | .ncvtSc pm md tb ta => Sys2Proof.Machine.execNcvtSc pm md tb ta s
  | .ncvtI8 pm md tb ta => Sys2Proof.Machine.execNcvtI8 pm md tb ta s
  | .ncvtI4 pm md tb ta => Sys2Proof.Machine.execNcvtI4 pm md tb ta s
  | .rcp pm md tb ta => Sys2Proof.Machine.execRcp pm md tb ta s
  | .rsq pm md tb ta => Sys2Proof.Machine.execRsq pm md tb ta s
  | .exp2 pm md tb ta => Sys2Proof.Machine.execExp2 pm md tb ta s
  | .log2 pm md tb ta => Sys2Proof.Machine.execLog2 pm md tb ta s
  | .sin pm md tb ta => Sys2Proof.Machine.execSin pm md tb ta s
  | .cos pm md tb ta => Sys2Proof.Machine.execCos pm md tb ta s
  | .tanh pm md tb ta => Sys2Proof.Machine.execTanh pm md tb ta s
  | .pack pm md tb ta => Sys2Proof.Machine.execPack pm md tb ta s
  | .unpack pm md tb ta => Sys2Proof.Machine.execUnpack pm md tb ta s
  | .mres pm md tb ta => Sys2Proof.Machine.execMres pm md tb ta s
  | .mrel pm => Sys2Proof.Machine.execMrel pm s
  | .mma pm md tb ta => Sys2Proof.Machine.execMma pm md tb ta s
  | .mman pm md tb ta => Sys2Proof.Machine.execMman pm md tb ta s
  | .mmanp pm md tb ta => Sys2Proof.Machine.execMmanp pm md tb ta s
  | .mzero pm tb ta => Sys2Proof.Machine.execMzero pm tb ta s
  | .mcom pm tb ta => Sys2Proof.Machine.execMcom pm tb ta s
  | .mwait pm tb ta => Sys2Proof.Machine.execMwait pm tb ta s
  | .mprog pm tb ta => Sys2Proof.Machine.execMprog pm tb ta s
  | .mstat pm tb ta => Sys2Proof.Machine.execMstat pm tb ta s
  | .recdef pm md tb ta => Sys2Proof.Machine.execRecdef pm md tb ta s
  | .recpin pm tb ta => Sys2Proof.Machine.execRecpin pm tb ta s
  | .recunpin pm tb ta => Sys2Proof.Machine.execRecunpin pm tb ta s
  | .recdrop pm tb ta => Sys2Proof.Machine.execRecdrop pm tb ta s
  | .recdone pm => Sys2Proof.Machine.execRecdone pm s
  | .recmat pm tb ta => Sys2Proof.Machine.execRecmat pm tb ta s
  | .bri pm off => Sys2Proof.Machine.execBri pm off s
  | .br pm => Sys2Proof.Machine.execBr pm s
  | .calli pm imm t => Sys2Proof.Machine.execCalli pm imm t s
  | .call pm tb ta => Sys2Proof.Machine.execCall pm tb ta s
  | .ret pm => Sys2Proof.Machine.execRet pm s
  | .exit pm => Sys2Proof.Machine.execExit pm s
  | .binit pm md => Sys2Proof.Machine.execBinit pm md s
  | .barv pm md tb ta => Sys2Proof.Machine.execBarv pm md tb ta s
  | .bard pm md => Sys2Proof.Machine.execBard pm md s
  | .bwait pm md tb ta => Sys2Proof.Machine.execBwait pm md tb ta s
  | .bar pm md tb ta => Sys2Proof.Machine.execBar pm md tb ta s
  | .bexpect pm md => Sys2Proof.Machine.execBexpect pm md s
  | .launch pm md tb ta => Sys2Proof.Machine.execLaunch pm md tb ta s
  | .trig pm => Sys2Proof.Machine.execTrig pm s
  | .depwait pm tb ta => Sys2Proof.Machine.execDepwait pm tb ta s
  | .qput pm md tb ta => Sys2Proof.Machine.execQput pm md tb ta s
  | .qtake pm md tb ta => Sys2Proof.Machine.execQtake pm md tb ta s
  | .qclose pm => Sys2Proof.Machine.execQclose pm s
  | .qstat pm tb ta => Sys2Proof.Machine.execQstat pm tb ta s
  | .qbind pm => Sys2Proof.Machine.execQbind pm s
  | .ld pm mos md off t => Sys2Proof.Machine.execLd pm mos md off t s
  | .ldO pm mos md off t => Sys2Proof.Machine.execLdO pm mos md off t s
  | .lda32 pm mos md off t => Sys2Proof.Machine.execLda32 pm mos md off t s
  | .lda64 pm mos md off t => Sys2Proof.Machine.execLda64 pm mos md off t s
  | .lds pm mos md off t => Sys2Proof.Machine.execLds pm mos md off t s
  | .ldsFe pm mos md off t => Sys2Proof.Machine.execLdsFe pm mos md off t s
  | .ldc pm mos md off t => Sys2Proof.Machine.execLdc pm mos md off t s
  | .ldt pm mos md off t => Sys2Proof.Machine.execLdt pm mos md off t s
  | .ldk pm mos off t => Sys2Proof.Machine.execLdk pm mos off t s
  | .st pm mos md off => Sys2Proof.Machine.execSt pm mos md off s
  | .sts pm mos md off => Sys2Proof.Machine.execSts pm mos md off s
  | .stsFe pm mos off => Sys2Proof.Machine.execStsFe pm mos off s
  | .stc pm mos md off => Sys2Proof.Machine.execStc pm mos md off s
  | .stt pm mos md off => Sys2Proof.Machine.execStt pm mos md off s
  | .strel32 pm mos md off => Sys2Proof.Machine.execStrel32 pm mos md off s
  | .strel64 pm mos md off => Sys2Proof.Machine.execStrel64 pm mos md off s
  | .atom32 pm mos md off t => Sys2Proof.Machine.execAtom32 pm mos md off t s
  | .atom64 pm mos md off t => Sys2Proof.Machine.execAtom64 pm mos md off t s
  | .atomf pm mos off t => Sys2Proof.Machine.execAtomf pm mos off t s
  | .cas32 pm mos off t => Sys2Proof.Machine.execCas32 pm mos off t s
  | .cas64 pm mos off t => Sys2Proof.Machine.execCas64 pm mos off t s
  | .atoms pm mos md off t => Sys2Proof.Machine.execAtoms pm mos md off t s
  | .red32 pm mos md off => Sys2Proof.Machine.execRed32 pm mos md off s
  | .fenceAcq pm mos md => Sys2Proof.Machine.execFenceAcq pm mos md s
  | .fenceRel pm mos md => Sys2Proof.Machine.execFenceRel pm mos md s
  | .fenceAr pm mos md => Sys2Proof.Machine.execFenceAr pm mos md s
  | .pref pm mos md off => Sys2Proof.Machine.execPref pm mos md off s
  | .resid pm mos off => Sys2Proof.Machine.execResid pm mos off s
  | .disc pm mos off => Sys2Proof.Machine.execDisc pm mos off s
  | .clean pm mos off => Sys2Proof.Machine.execClean pm mos off s
  | .ipref pm mos off => Sys2Proof.Machine.execIpref pm mos off s
  | .iinv pm tb ta => Sys2Proof.Machine.execIinv pm tb ta s
  | .cpy pm md => Sys2Proof.Machine.execCpy pm md s
  | .feset pm mos off => Sys2Proof.Machine.execFeset pm mos off s
  | .feclr pm mos off => Sys2Proof.Machine.execFeclr pm mos off s
  | .emuVector wid slot => Sys2Proof.Machine.execEmuVector wid slot s
  | .emuMatrixDrainDone wid => Sys2Proof.Machine.execEmuMatrixDrainDone wid s
  | .blockDecode wid => Sys2Proof.Machine.execBlockDecode wid s
  | .icacheFillArrive cluster line => Sys2Proof.Machine.execIcacheFillArrive cluster line s
  | .blockCommit wid => Sys2Proof.Machine.execBlockCommit wid s
  | .faultRecordDrain => Sys2Proof.Machine.execFaultRecordDrain s
  | .msixRateTimer ctx => Sys2Proof.Machine.execMsixRateTimer ctx s
  | .frameShareHandoff wid => Sys2Proof.Machine.execFrameShareHandoff wid s
  | .frameStarvationRaise wid => Sys2Proof.Machine.execFrameStarvationRaise wid s
  | .translationWalkDone ctx page => Sys2Proof.Machine.execTranslationWalkDone ctx page s
  | .accessResponse aid => Sys2Proof.Machine.execAccessResponse aid s
  | .engineQueueSpace wid slot => Sys2Proof.Machine.execEngineQueueSpace wid slot s
  | .barrierWaitEnd wid slot => Sys2Proof.Machine.execBarrierWaitEnd wid slot s
  | .feWaitSatisfied wid slot lane => Sys2Proof.Machine.execFeWaitSatisfied wid slot lane s
  | .mwaitEnd wid slot => Sys2Proof.Machine.execMwaitEnd wid slot s
  | .qtakeWaitEnd wid slot => Sys2Proof.Machine.execQtakeWaitEnd wid slot s
  | .depwaitEnd wid slot => Sys2Proof.Machine.execDepwaitEnd wid slot s
  | .iinvComplete wid slot => Sys2Proof.Machine.execIinvComplete wid slot s
  | .copyComplete core ch => Sys2Proof.Machine.execCopyComplete core ch s
  | .matrixOpRetire core => Sys2Proof.Machine.execMatrixOpRetire core s
  | .recipeSlicePlace ctx idx => Sys2Proof.Machine.execRecipeSlicePlace ctx idx s
  | .galleryEvict line => Sys2Proof.Machine.execGalleryEvict line s
  | .entryQueueAccept q => Sys2Proof.Machine.execEntryQueueAccept q s
  | .gridEligible gid => Sys2Proof.Machine.execGridEligible gid s
  | .gangPlace gang => Sys2Proof.Machine.execGangPlace gang s
  | .gangPatienceExpired gang => Sys2Proof.Machine.execGangPatienceExpired gang s
  | .gangPlacementTimeout gang => Sys2Proof.Machine.execGangPlacementTimeout gang s
  | .gridComplete gid => Sys2Proof.Machine.execGridComplete gid s
  | .stageLingerExpired q => Sys2Proof.Machine.execStageLingerExpired q s
  | .qbindMarkerHead q => Sys2Proof.Machine.execQbindMarkerHead q s
  | .stageWatchdog ctx graph => Sys2Proof.Machine.execStageWatchdog ctx graph s
  | .alcoveRecordArrive core => Sys2Proof.Machine.execAlcoveRecordArrive core s
  | .putWindowWrite q off size data => Sys2Proof.Machine.execPutWindowWrite q off size data s
  | .alcovePutWindowWrite q off size data => Sys2Proof.Machine.execAlcovePutWindowWrite q off size data s
  | .hostBar4Access write addr size data => Sys2Proof.Machine.execHostBar4Access write addr size data s
  | .xlinvPage v => Sys2Proof.Machine.execXlinvPage v s
  | .xlinvRange v => Sys2Proof.Machine.execXlinvRange v s
  | .xlinvContext v => Sys2Proof.Machine.execXlinvContext v s
  | .xlinvDone => Sys2Proof.Machine.execXlinvDone s
  | .ctxswSave v => Sys2Proof.Machine.execCtxswSave v s
  | .saveBoundaryTimeout => Sys2Proof.Machine.execSaveBoundaryTimeout s
  | .ctxswSaveDone => Sys2Proof.Machine.execCtxswSaveDone s
  | .ctxswRestore v => Sys2Proof.Machine.execCtxswRestore v s
  | .ctxswRestoreDone => Sys2Proof.Machine.execCtxswRestoreDone s
  | .registerWrite off v => Sys2Proof.Machine.execRegisterWrite off v s
  | .mbUnknownCommand => Sys2Proof.Machine.execMbUnknownCommand s
  | .recRead => Sys2Proof.Machine.execRecRead s
  | .keyGen => Sys2Proof.Machine.execKeyGen s
  | .keyClear => Sys2Proof.Machine.execKeyClear s
  | .attestMake => Sys2Proof.Machine.execAttestMake s
  | .attestRead => Sys2Proof.Machine.execAttestRead s
  | .identRead => Sys2Proof.Machine.execIdentRead s
  | .powerLimit => Sys2Proof.Machine.execPowerLimit s
  | .powerRead => Sys2Proof.Machine.execPowerRead s
  | .mbCommandDone => Sys2Proof.Machine.execMbCommandDone s
  | .hlRead hall m => Sys2Proof.Machine.execHlRead hall m s
  | .hlWrite hall m => Sys2Proof.Machine.execHlWrite hall m s
  | .hlAtomic hall m => Sys2Proof.Machine.execHlAtomic hall m s
  | .hlReadData hall m => Sys2Proof.Machine.execHlReadData hall m s
  | .hlWriteAck hall m => Sys2Proof.Machine.execHlWriteAck hall m s
  | .hlAtomicResult hall m => Sys2Proof.Machine.execHlAtomicResult hall m s
  | .hlInvalidate hall m => Sys2Proof.Machine.execHlInvalidate hall m s
  | .hlInvalidateAck hall m => Sys2Proof.Machine.execHlInvalidateAck hall m s
  | .hlinkFlitReceive hall m up crcOk => Sys2Proof.Machine.execHlinkFlitReceive hall m up crcOk s
  | .hlinkNakReceived hall m up => Sys2Proof.Machine.execHlinkNakReceived hall m up s
  | .hlinkAckReceived hall m up => Sys2Proof.Machine.execHlinkAckReceived hall m up s
  | .hlinkAckTimer hall m up => Sys2Proof.Machine.execHlinkAckTimer hall m up s
  | .hlinkReplayTimeout hall m up => Sys2Proof.Machine.execHlinkReplayTimeout hall m up s
  | .hlinkLaneFailure hall m => Sys2Proof.Machine.execHlinkLaneFailure hall m s
  | .hlinkRetrainDone hall m => Sys2Proof.Machine.execHlinkRetrainDone hall m s
  | .hslFlitReceive port flit crcOk => Sys2Proof.Machine.execHslFlitReceive port flit crcOk s
  | .hslPortDegrade port => Sys2Proof.Machine.execHslPortDegrade port s
  | .remoteRequest port => Sys2Proof.Machine.execRemoteRequest port s
  | .remoteCompletionTimeout tag => Sys2Proof.Machine.execRemoteCompletionTimeout tag s
  | .hallFatalError hall cause => Sys2Proof.Machine.execHallFatalError hall cause s
  | .contextFatalError ctx wid => Sys2Proof.Machine.execContextFatalError ctx wid s
  | .uncorrectedError loc => Sys2Proof.Machine.execUncorrectedError loc s
  | .correctedError rec unit addr => Sys2Proof.Machine.execCorrectedError rec unit addr s
  | .islandClockChange island mhz => Sys2Proof.Machine.execIslandClockChange island mhz s
  | .thermalThrottleEnter die => Sys2Proof.Machine.execThermalThrottleEnter die s
  | .thermalThrottleExit die => Sys2Proof.Machine.execThermalThrottleExit die s
  | .thermalPowerOff => Sys2Proof.Machine.execThermalPowerOff s
  | .powerOn image secver sigOk raise => Sys2Proof.Machine.execPowerOn image secver sigOk raise s
  | .packageReset => Sys2Proof.Machine.execPackageReset s
  | .contextCreate ctx cfg => Sys2Proof.Machine.execContextCreate ctx cfg s
  | .contextDestroy ctx => Sys2Proof.Machine.execContextDestroy ctx s
  | .queueAllocate q ctx role cap graph => Sys2Proof.Machine.execQueueAllocate q ctx role cap graph s
  | .matrixKstepDone core => Sys2Proof.Machine.execMatrixKstepDone core s
  | .copyBeat core ch => Sys2Proof.Machine.execCopyBeat core ch s
  | .cxlMemRequest write addr data => Sys2Proof.Machine.execCxlMemRequest write addr data s

end Sys2Proof.Machine
end

