-- ==== Sys2Proof/Machine/Turn.lean ====
section
/-!
DEFINITION. Sys2Proof/Machine/Turn.lean: what a step may do: fire a slot, let an event happen, take an input, drop a cached copy, or let
time pass (log entries 1, 2 and 10).
-/
namespace Sys2Proof.Machine

/-! ## The slot under the cursor -/

/-- The instruction of a slot of a frame: its word with the two words behind it, which `GENL` takes as literals (R49). -/
def Frame.instr (f : Frame) (slot : Nat) : Option Instr :=
  if f.blk.litSlots.contains slot then none
  else match decodeWord (f.word slot) (f.word (slot + 1)) (f.word (slot + 2)) with
    | .ok i => some i
    | .error _ => none

/-- The slot that the cursor names fires: its instruction, or the vector of a word that is none (R75); a cursor that names no slot of
a running frame is dropped. -/
def runSlot (c : Cursor) (s : State) : Out :=
  match s.env? with
  | none => ran s s
  | some e =>
    if e.f.blk.litSlots.contains c.slot then ran s s
    else match e.f.instr c.slot with
      | some i => exec i s
      | none => exec (.emuVector c.wid c.slot) s

/-! ## What may happen -/

/-- The slots of running frames that have not resolved in every lane. -/
def State.fires (s : State) : List Act :=
  (s.warps.map (fun p => match p.2.frame with
    | some f => if f.vec.isNone && decide (p.2.stat = .ready) then
        (f.blk.insns.filter (fun q => !f.allDone q.1)).map (fun q => Act.fire p.1 q.1) else []
    | none => [])).flatten

/-- The events of a warp. -/
def warpEvents (wid : Nat) (w : Warp) : List Instr :=
  [.blockDecode wid, .blockCommit wid, .emuMatrixDrainDone wid, .frameShareHandoff wid, .frameStarvationRaise wid] ++
    (w.levels.map (fun lv => match lv.frame with
      | some f => f.waits.filterMap (fun q => match q.2 with
        | .fe l _ _ _ _ => some (Instr.feWaitSatisfied wid q.1 l)
        | .feDone l _ _ _ _ => some (Instr.feWaitSatisfied wid q.1 l)
        | .bar _ _ _ _ _ => some (.barrierWaitEnd wid q.1)
        | .mwait _ _ _ _ => some (.mwaitEnd wid q.1)
        | .qtake _ _ _ _ _ => some (.qtakeWaitEnd wid q.1)
        | .dep => some (.depwaitEnd wid q.1)
        | .iinv _ _ => some (.iinvComplete wid q.1)
        | .space => some (.engineQueueSpace wid q.1)
        | .record => none)
      | none => [])).flatten
/-- The events of a core. -/
def coreEvents (core : Nat) (c : Core) : List Instr :=
  [.alcoveRecordArrive core, .matrixKstepDone core, .matrixOpRetire core] ++
    (c.chans.map (fun q => [Instr.copyBeat core q.1, .copyComplete core q.1])).flatten
/-- The events of a hall's modules. -/
def hallEvents (hall : Nat) (h : Hall) : List Instr :=
  (h.mods.map (fun q =>
    let m := q.1
    [Instr.hlRead hall m, .hlWrite hall m, .hlAtomic hall m, .hlReadData hall m, .hlWriteAck hall m, .hlAtomicResult hall m, .hlInvalidate hall m,
     .hlInvalidateAck hall m, .hlinkRetrainDone hall m] ++
    ([true, false].map (fun up => [Instr.hlinkFlitReceive hall m up true, .hlinkNakReceived hall m up, .hlinkAckReceived hall m up, .hlinkAckTimer hall m up,
       .hlinkReplayTimeout hall m up])).flatten)).flatten
/-- The physical lines of the present lines of a context's recipe tiles. -/
def State.tileLines (s : State) (ctx : Nat) (c : Ctx) : List Nat :=
  (c.recipes.map (fun r => r.2.present.filterMap (fun k => match s.walk ctx (r.2.tile + 128 * k) with
    | .ok x _ => (match s.physKind (x.phys (r.2.tile + 128 * k)) with
      | .dev p => some (p / 128)
      | _ => none)
    | .bad _ => none))).flatten
/-- Events of which there is one for the whole module. -/
def loneEvents : List Instr :=
  [.faultRecordDrain, .xlinvDone, .saveBoundaryTimeout, .ctxswSaveDone, .ctxswRestoreDone, .mbUnknownCommand, .recRead, .keyGen, .keyClear, .attestMake] ++
  [.attestRead, .identRead, .powerLimit, .powerRead, .mbCommandDone, .thermalPowerOff]

/-- The events of the part that the state names; those that outside agents or hardware errors cause come through the inbox. -/
def State.events (s : State) : List Instr :=
  loneEvents ++
    (s.warps.map (fun p => warpEvents p.1 p.2)).flatten ++ (s.cores.map (fun p => coreEvents p.1 p.2)).flatten ++
    (s.halls.map (fun p => hallEvents p.1 p.2)).flatten ++
    (s.clusters.map (fun p => p.2.fills.map (fun f => Instr.icacheFillArrive p.1 f.line))).flatten ++
    (s.ctxs.map (fun p => [Instr.msixRateTimer p.1] ++ p.2.graphs.map (fun g => .stageWatchdog p.1 g.1) ++ (s.tileLines p.1 p.2).map .galleryEvict)).flatten ++
    s.walks.map (fun w => .translationWalkDone w.ctx w.page) ++ s.accs.map (fun p => .accessResponse p.1) ++
    s.slices.map (fun x => .recipeSlicePlace x.ctx x.idx) ++ s.gal.map (fun p => .galleryEvict p.1) ++
    (s.queues.map (fun p => [Instr.entryQueueAccept p.1, .stageLingerExpired p.1, .qbindMarkerHead p.1])).flatten ++
    (s.grids.map (fun p => [Instr.gridEligible p.1, .gridComplete p.1])).flatten ++
    (s.gangs.map (fun p => [Instr.gangPlace p.1, .gangPatienceExpired p.1, .gangPlacementTimeout p.1])).flatten ++
    (s.ports.map (fun p => Instr.remoteRequest p.1 :: (if p.2.training then [.hslPortDegrade p.1] else []))).flatten ++
    s.ext.map (fun p => .remoteCompletionTimeout p.1) ++
    (s.sensors.map (fun p => [Instr.thermalThrottleEnter p.1, .thermalThrottleExit p.1])).flatten

/-- The cached copies that may go. -/
def State.drops (s : State) : List Drop :=
  (s.cores.map (fun p => p.2.l1.map (fun l => Drop.l1 p.1 l.1) ++ (List.range p.2.l0.length).map (Drop.l0 p.1) ++
    (List.range p.2.tlb.length).map (Drop.coreTlb p.1))).flatten ++
  (s.clusters.map (fun p => p.2.ic.map (fun l => Drop.clusterIc p.1 l.1) ++ (List.range p.2.tlb.length).map (Drop.clusterTlb p.1))).flatten ++
  (s.halls.map (fun p => p.2.cache.map (fun l => Drop.hallLine p.1 l.1) ++ p.2.ic.map (fun l => Drop.hallIc p.1 l.1) ++
    (List.range p.2.tlb.length).map (Drop.hallTlb p.1))).flatten ++
  s.galIc.map (fun l => Drop.galIc l.1) ++ (List.range s.walkCache.length).map Drop.walk ++
  (s.warps.map (fun p => (List.range p.2.early.length).map (Drop.early p.1))).flatten

def State.doDrop (s : State) (d : Drop) : State :=
  match d with
  | .l1 c ln => s.updCore c (fun x => { x with l1 := mdel x.l1 ln })
  | .hallLine h ln => s.updHall h (fun x => { x with cache := mdel x.cache ln })
  | .clusterIc c ln => s.updCluster c (fun x => { x with ic := mdel x.ic ln })
  | .hallIc h ln => s.updHall h (fun x => { x with ic := mdel x.ic ln })
  | .galIc ln => { s with galIc := mdel s.galIc ln }
  | .l0 c n => s.updCore c (fun x => { x with l0 := x.l0.eraseIdx n })
  | .coreTlb c n => s.updCore c (fun x => { x with tlb := x.tlb.eraseIdx n })
  | .clusterTlb c n => s.updCluster c (fun x => { x with tlb := x.tlb.eraseIdx n })
  | .hallTlb h n => s.updHall h (fun x => { x with tlb := x.tlb.eraseIdx n })
  | .walk n => { s with walkCache := s.walkCache.eraseIdx n }
  | .early wid n => s.updWarp wid (fun w => { w with early := w.early.eraseIdx n })

/-- The lines that a core may bring ahead of the loads that read them: those of the pages its translations name, for the contexts whose
warps it runs (R96, R263, log entry 10). -/
def State.aheads (s : State) : List Act :=
  (s.cores.map (fun p => (List.range p.2.tlb.length).map (fun n => Act.ahead p.1 n (Config.ahead s.tick)))).flatten
/-- A core brings a line as a speculative load of it would: one that a load could read, in no recipe tile. -/
def State.bringAhead (s : State) (core n line : Nat) : State :=
  match (s.core core).tlb[n]? with
  | none => s
  | some x =>
    let va := x.va + 128 * (line % (x.size / 128))
    match s.physKind (x.phys va) with
    | .dev p =>
      if s.pageOk x .rd va && s.warps.any (fun q => q.2.ctx == x.ctx && s.coreOf q.2 == core) && ((mget s.ctxs x.ctx).bind (·.recipeAt va)).isNone &&
        s.coreNext core then prefLine 0 core x.ctx s p x.key
      else s
    | _ => s

/-- The warps that may read a line ahead. -/
def State.earlies (s : State) : List Act := (s.warps.filter (fun p => decide (p.2.stat = .ready))).map (fun p => .early p.1 (Config.ahead s.tick))
/-- The sectors of a line in which `bad` finds no poison. -/
def cleanSects (bad : Nat → Bool) : BitVec 4 := BitVec.ofNat 4 ((List.range 4).foldl (fun a k => if bad k then a else a + 2 ^ k) 0)
/-- A warp has read a line ahead: it stands before those that it read earlier. -/
def Warp.reads (w : Warp) (x : Early) : Warp := { w with early := x :: w.early }
/-- A line of scratch, of a tile or of the hall store that a warp reads ahead; what it derives from later is newer. -/
def State.readSpace (s : State) (wid : Nat) (w : Warp) (sp : Space) (line : Nat) : State :=
  { s.updWarp wid (fun w => w.reads { space := sp, line := line, data := BitVec.ofNat 1024 (s.spaceRead w sp (128 * line) 128).1,
                                      valid := cleanSects (fun k => (s.spaceRead w sp (128 * line + 32 * k) 32).2), stamp := s.stamp }) with stamp := s.stamp + 1 }
/-- One of the lines that a warp has read ahead stands before the others from now on: no edge of R256 orders two reads of one location. -/
def Warp.recall (w : Warp) (m : Nat) : Warp :=
  { w with early := (w.early[m % w.early.length]?).toList ++ w.early.eraseIdx (m % w.early.length) }
/-- A warp reads a line ahead, or turns to one that it has read: by `n`, one that its core's L1 holds, of the scratch of a workgroup of its gang, of its
tiles, or of its hall store. Loads of a later block may be performed before loads of an earlier one (R256, log entry 38). -/
def State.snapshot (s : State) (wid n : Nat) : State :=
  match s.warp wid with
  | none => s
  | some w =>
    let m := n / 5
    if n % 5 = 4 then s.updWarp wid (fun w => w.recall m)
    else if n % 5 = 0 then
      let l1 := (s.core (s.coreOf w)).l1
      (match l1[m % l1.length]? with
       | some (ln, c) => s.updWarp wid (fun w => w.reads { space := .global, line := ln, data := c.data, valid := c.valid &&& ~~~c.pois, stamp := c.stamp })
       | none => s)
    else if n % 5 = 1 then
      let l := s.gangWgs (((s.wgOf w).map (·.gang)).getD 0)
      (match l[m % l.length]? with
       | some t => s.readSpace wid w (.scratch t) (m / l.length)
       | none => s)
    else s.readSpace wid w (if n % 5 = 2 then .tile w.wg else .hallStore) m

def isNext (o : Out) : Bool :=
  match o with
  | .next _ => true
  | _ => false

/-- The ports whose oldest flit has had no acknowledgement for 1 µs (R346, R357). -/
def State.resends (s : State) : List Act :=
  (s.ports.filter (fun p => p.2.lanes != 0 && !p.2.training && !p.2.replay.isEmpty && decide (p.2.since + 1000 ≤ s.time))).map (fun p => .resend p.1)
/-- Everything that may happen now; time may always pass. -/
def State.acts (s : State) : List Act :=
  s.fires ++ ((s.events.filter (fun i => isNext (exec i s))).map .event) ++ (if s.inbox.isEmpty then [] else [.input]) ++ s.drops.map .drop ++ s.aheads ++ s.earlies ++ s.resends ++
    [.lapse]

/-! ## One turn -/

/-- An input that cannot happen is without effect. -/
def orSkip (s : State) (o : Out) : Out :=
  match o with
  | .next t => .next t
  | _ => ran s s
/-- The oldest input is taken. -/
def State.takeInput (s : State) : Out :=
  match s.inbox with
  | [] => ran s s
  | .event i :: l => let t := { s with inbox := l }; orSkip t (exec i t)
  | .host a :: l => let t := { s with inbox := l }; ran t (t.hostAct a)

/-- Some time passes: at least a nanosecond. Islands of throttled dies go on down (R374). A frame that holds no ready slot begins its count
of R329 anew. -/
def State.lapse (s0 : State) : State :=
  let s := s0.throttled.foldl (fun (s : State) d => s.coolDie d) s0
  let t := s.time + 1 + Config.elapsed s.tick
  { s with time := t, warps := s.warps.map (fun p => (p.1, match p.2.frame with
      | some f => if f.readySlot then p.2 else { p.2 with lastDispatch := t }
      | none => p.2)) }

/-- The warp's frame has frozen, or gone: a slot of it has vectored. -/
def vectored (wid fid : Nat) (o : Out) : Bool :=
  match o with
  | .next t => (match t.fidFrame wid fid with
    | some f => f.vec.isSome
    | none => true)
  | _ => false
/-- A slot of a running frame fires; where it would vector, the lowest slot of the frame that would vector now goes first (R76). -/
def State.fireSlot (s : State) (wid slot : Nat) : Out :=
  let go (q : Nat) : Out := runSlot ⟨wid, q⟩ { s with cur := some ⟨wid, q⟩ }
  match (s.warp wid).bind (·.frame) with
  | none => go slot
  | some f =>
    if f.vec.isNone && vectored wid f.fid (go slot) then (match (List.range slot).find? (fun q => vectored wid f.fid (go q)) with
      | some q => go q
      | none => go slot)
    else go slot

def State.perform1 (s : State) (a : Act) : Out :=
  match a with
  | .fire wid slot => s.fireSlot wid slot
  | .event i => exec i s
  | .input => s.takeInput
  | .drop d => ran s (s.doDrop d)
  | .lapse => ran s.lapse s.lapse
  | .resend p => ran s (s.portResend p)
  | .ahead c n l => ran s (s.bringAhead c n l)
  | .early wid n => ran s (s.snapshot wid n)

/-- Without power only POWER_ON has an effect; other inputs are lost (R374). -/
def State.turnOff (s : State) : Out :=
  match s.inbox with
  | [] => .fault .moduleOff
  | .event (.powerOn image secver sigOk raise) :: l => exec (.powerOn image secver sigOk raise) { s with inbox := l }
  | _ :: l => .next { s with inbox := l }

/-! ## Rounds (R265, R329, R330) -/

/-- Where a warp stands among those that are served: the alcove's first, then the higher level, then by `k`. -/
def State.rank (s : State) (w : Warp) (k : Nat × Nat) : Nat × Nat × Nat :=
  (if (s.wgOf w).any (·.alcove) then 0 else 4 - s.level w, k)
/-- The order in which the firing selector takes frames: within a level the raised ones in the order of their raising, then the oldest age
stamp (R329). -/
def State.fireRank (s : State) (wid : Nat) : Nat × Nat × Nat :=
  match s.warp wid with
  | some w => s.rank w (if w.raised ≠ 0 then (0, w.raisedAt) else (1, w.stamp))
  | none => (5, 0, 0)
/-- The order in which the fetch unit serves warps: within a level round robin, a warp that has just yielded last (R330). -/
def State.fetchRank (s : State) (wid : Nat) : Nat × Nat × Nat :=
  match s.warp wid with
  | some w => s.rank w (0, w.served)
  | none => (5, 0, 0)
def rankLt (a b : Nat × Nat × Nat) : Bool :=
  decide (a.1 < b.1) || (a.1 == b.1 && (decide (a.2.1 < b.2.1) || (a.2.1 == b.2.1 && decide (a.2.2 < b.2.2))))
/-- Puts an act before the first that it precedes. -/
def insAct (rank : Act → Nat × Nat × Nat) (a : Act) : List Act → List Act
  | [] => [a]
  | b :: r => if rankLt (rank a) (rank b) then a :: b :: r else b :: insAct rank a r
def Act.warp : Act → Option Nat
  | .fire wid _ => some wid
  | .event (.blockDecode wid) => some wid
  | _ => none
/-- A round: every act that may happen now but for the dropping and the bringing of copies, the firing of slots in the order of R329, block fetches in that
of R330. -/
def State.round (s : State) : List Act :=
  let evs := (s.events.filter (fun i => isNext (exec i s))).map Act.event
  let fetches := evs.filter (fun a => a.warp.isSome)
  let others := evs.filter (fun a => a.warp.isNone)
  let fireR (a : Act) := s.fireRank (a.warp.getD 0)
  let fetchR (a : Act) := s.fetchRank (a.warp.getD 0)
  s.fires.foldl (fun l a => insAct fireR a l) [] ++ fetches.foldl (fun l a => insAct fetchR a l) [] ++ others ++
    s.resends ++ (if s.inbox.isEmpty then [] else [.input]) ++ [.lapse]

/-- An act of a round is performed if it may still happen. -/
def State.performDue (s : State) (a : Act) : Out :=
  match a with
  | .event i => if isNext (exec i s) then exec i s else ran s s
  | a => s.perform1 a

/-- What happens next: the slot under the cursor; or one of the acts that may happen; or, after finitely many of these, the next act of the
round, so that no act that may go on happening waits for ever (R265). A new round begins where the last is over. -/
def State.turn (s : State) : Out :=
  if !s.powered then s.turnOff
  else match s.cur with
    | some c => runSlot c s
    | none =>
      let t : State := { s with tick := s.tick + 1 }
      match s.slack, s.due with
      | n + 1, _ => let l := s.acts
                    ({ t with slack := n } : State).perform1 (l.getD (Config.pick s.tick % l.length) .lapse)
      | 0, a :: r => ({ t with due := r, slack := Config.slack s.tick } : State).performDue a
      | 0, [] => ran s { t with due := s.round, slack := Config.slack s.tick }

/-! ## Placing one instruction -/

/-- A frame whose slot 0 holds an instruction's words, with every operand and the predicate delivered in lane 0: values 0, and a
predicate that lets the slot fire. -/
def oneFrame (fid nbits w : Nat) : Frame :=
  let v := w % 2 ^ nbits
  let word : Insn := BitVec.ofNat 32 v
  let uni := ((opRow (fOp word).toNat).map (·.uni)).getD false
  let p : Word := if fPm word = (if uni then 3#2 else 2#2) then 0 else 1
  { fid := fid,
    blk := { addr := 0, nread := 0, nslot := 3, landing := false, acq := false, specok := false, relscope := 0, nsink := 0, pfBase := 0, pfLen := 0,
             wregs := [], reads := [], slots := [word, BitVec.ofNat 32 (v >>> 32), BitVec.ofNat 32 (v >>> 64)] },
    mask := 1, toks := [(tokKey 0 0 0, .value 0), (tokKey 1 0 0, .value 0), (tokKey 2 0 0, .value 0), (tokKey 3 0 0, .value p)], deps := [], done := [],
    fired := [], sinks := [], bouts := [], swr := [], spois := [], fres := [], yielded := false, waits := [], vec := none,
    start := { core := 0, drophint := 0, hregs := [] }, samples := [] }

def oneLr : LaunchRec := alcoveLr 0 0 0
def oneCfg : CtxConfig :=
  { root := 0, emu := some 4096, trap := some 8192, faultBase := 0, faultLog2 := 6, faultCtl := 2048, recipeBase := 0, recipeCount := 1, patience := 65536,
    ceiling := 10000000, supervisor := true, servicer := none, spillPool := 0 }
/-- A state with one supervisor warp on core 0 that stands in such a frame, and the cursor on its slot: the warp is the newest
identifier. -/
def State.withOne (s : State) (nbits w : Nat) : State :=
  let id := s.nextId
  let g := { gridNew 0 1 .plain oneLr 0 with eligible := true, halls := [0], handed := 1, placedGangs := 1 }
  let gg := { gangOf id 0 0 0 s.time [] 0 0 with stat := .placed, wgs := [id + 2] }
  let wg : Wg := { gang := id + 1, gid := id, ctx := 0, num := 0, rank := 0, core := 0, base := 0x10000, size := 65536, tiles := 0, tile0 := 0, slots := 1,
                   warps := [id + 3], mem := WgMem.start, triggered := false, ended := false, saved := false, alcove := false }
  let wp := warpStart 0 (id + 2) 0 32 .supervisor 0 0 s.time []
  { s with nextId := id + 5, cur := some ⟨id + 3, 0⟩,
           ctxs := if (mget s.ctxs 0).isSome then s.ctxs else mset s.ctxs 0 { ctxNew oneCfg with nextSeq := 2 },
           grids := mset s.grids id g, gangs := mset s.gangs (id + 1) gg, wgs := mset s.wgs (id + 2) wg,
           warps := mset s.warps (id + 3) (wp.setFrame (oneFrame (id + 4) nbits w)) }

end Sys2Proof.Machine
end

