-- ==== Sys2Proof/Machine/Step.lean ====
section
/-!
DEFINITION. Sys2Proof/Machine/Step.lean: one step of the module, and how one instruction is placed to be the next.
-/
namespace Sys2Proof.Machine

/-- One step: the slot under the cursor fires; where there is none, one of the acts that may happen does (log entry 2). -/
def step (s : State) : Host.Outcome State Fault Refusal := s.turn

/-- The state in which the next step runs an instruction given by its words (log entry 1). -/
def State.withFetchWord (s : State) (nbits w : Nat) : State := s.withOne nbits w

end Sys2Proof.Machine
end

