-- ==== Sys2Proof/Safety.lean ====
section
/-!
DEFINITION. Sys2Proof/Safety.lean: what counts as a safe state and a safe run, and the terms in which the statements about slots are made:
when a slot is under the cursor, what R79 to R81 let it do in a lane, and what is left of it in the next state.
-/
namespace Sys2Proof.Machine

/-! ## Safe states -/

/-- Between steps: HBM holds its canonical form and no line still has to reach it (R312). -/
def State.Safe (s : State) : Prop := Memory.wf s.mem = true ∧ s.hbmq = []

/-- A step keeps what no step may change while the module has power: the fuse map (R6), and time that never runs back (R19). -/
def Keeps (s t : State) : Prop := t.fuses = s.fuses ∧ s.time ≤ t.time

/-! ## The slot under the cursor -/

/-- The module has power, and the cursor names slot `e.slot` of the running frame `e.f` of warp `e.wid`. -/
def At (s : State) (e : Env) : Prop := s.powered = true ∧ s.env? = some e

/-- The same, and the slot holds the word of the instruction. -/
def AtInstr (s : State) (e : Env) (i : Instr) : Prop := At s e ∧ (encode i).head? = some (e.f.word e.slot)

/-- The frame in which the warp of the slot stands. -/
def State.frameAfter (t : State) (e : Env) : Option Frame := (t.warp e.wid).bind Warp.frame

/-- R79 and R80 for one active lane of a class L slot: nothing while the lane waits; null or the predicate's poison where the predicate keeps
the slot from firing; else the first poison of the operands, else null if one is null, else what the instruction makes of the values. -/
def Env.due (e : Env) (pm : BitVec 2) (nops l : Nat) (v : Word → Word → Word → LaneOut) : Option LaneOut :=
  let ops := (List.range nops).map (fun p => e.f.tok p e.slot l)
  let fire : Option LaneOut :=
    if ops.all Option.isSome then
      some (match (ops.filterMap id).find? Tok.isPoison with
        | some k => .out k
        | none => if ops.contains (some .null) then .out .null else v (e.f.opVal 0 e.slot l) (e.f.opVal 1 e.slot l) (e.f.opVal 2 e.slot l))
    else none
  if pm = 0#2 then fire
  else match e.f.tok 3 e.slot l with
    | none => none
    | some .null => some (.out .null)
    | some (.poison a b c) => some (.out (.poison a b c))
    | some (.value p) => if (if pm = 1#2 then p.getLsbD 0 else !p.getLsbD 0) then fire else some (.out .null)

/-- Every operand of the slot, and its predicate where it takes one, has come to the lane, whatever their kinds (R143). -/
def Env.Whole (e : Env) (pm : BitVec 2) (nops l : Nat) : Prop :=
  (∀ p < nops, (e.f.tok p e.slot l).isSome = true) ∧ (pm = 0#2 ∨ (e.f.tok 3 e.slot l).isSome = true)

/-- Every target holds the token in lane `l`. -/
def Frame.Holds (f : Frame) (ts : List (BitVec 9)) (l : Nat) (k : Tok) : Prop :=
  ∀ tg ∈ ts, ∀ q, tgtPort tg = some q → f.tok q.1 q.2 l = some k

/-- What is left in a frame of what a slot made in lane `l`: its token at every target, and its branch output,
special-register write, resume, or sample kept for later lanes; poison has poisoned a sink (R83, R84). -/
def Frame.Did (f : Frame) (slot : Nat) (ts : List (BitVec 9)) (snk : Bool) (l : Nat) : LaneOut → Prop
  | .out k => f.Holds ts l k ∧ (snk = true → k.isPoison = true → (slot, l, k) ∈ f.spois)
  | .branch b link => f.Holds ts l link ∧ (slot, l, b) ∈ f.bouts
  | .swreg n v => (slot, l, n, v) ∈ f.swr
  | .resume h => (l, h) ∈ f.fres
  | .sample v => f.Holds ts l (.value v) ∧ (mget f.samples slot).isSome = true
  | .fail t => (slot, l, t) ∈ f.spois

/-- What a slot leaves alone in its frame: the block, the path, its waits, the buffered stores, every token that it does not send, and how every
other slot stands. -/
def Frame.Apart (f g : Frame) (slot : Nat) (ts : List (BitVec 9)) : Prop :=
  g.fid = f.fid ∧ g.blk = f.blk ∧ g.mask = f.mask ∧ g.waits = f.waits ∧ g.vec = f.vec ∧ g.yielded = f.yielded ∧ g.sinks = f.sinks ∧ g.start = f.start ∧
    (∀ k, k ≠ slot → mgetD g.done k 0 = mgetD f.done k 0 ∧ mgetD g.fired k 0 = mgetD f.fired k 0 ∧ mget g.samples k = mget f.samples k) ∧
    ∀ k, (∀ tg ∈ ts, ∀ q, tgtPort tg = some q → ∀ l < 64, k ≠ tokKey q.1 q.2 l) → mget g.toks k = mget f.toks k
/-- The frame has recorded these branch outputs, special-register writes, resumes and poisoned sinks besides what it held. -/
def Frame.Gains (f g : Frame) (bouts : List (Nat × Nat × BOut)) (swr : List (Nat × Nat × Nat × Word)) (fres : List (Nat × Word)) (spois : List (Nat × Nat × Tok)) : Prop :=
  g.bouts = f.bouts ++ bouts ∧ g.swr = f.swr ++ swr ∧ g.fres = f.fres ++ fres ∧ g.spois = f.spois ++ spois

/-- The branch output, the special-register write, the resume and the poisoned sink in what a slot made in a lane. -/
def LaneOut.bout (slot l : Nat) : LaneOut → List (Nat × Nat × BOut)
  | .branch b _ => [(slot, l, b)]
  | _ => []
def LaneOut.write (slot l : Nat) : LaneOut → List (Nat × Nat × Nat × Word)
  | .swreg n v => [(slot, l, n, v)]
  | _ => []
def LaneOut.wake (l : Nat) : LaneOut → List (Nat × Word)
  | .resume h => [(l, h)]
  | _ => []
def LaneOut.spoiled (slot : Nat) (snk : Bool) (l : Nat) : LaneOut → List (Nat × Nat × Tok)
  | .out k => if snk && k.isPoison then [(slot, l, k)] else []
  | .fail t => [(slot, l, t)]
  | _ => []

/-- One row of a table of class L slots: predicate mode, operands, targets, whether the slot counts as a sink, when the encoding is
reserved, and what the slot makes of values in a lane. -/
structure LRow where
  pm : BitVec 2
  nops : Nat
  ts : List (BitVec 9)
  snk : Bool
  bad : Env → Bool
  out : State → Env → Nat → Word → Word → Word → LaneOut

/-- What a table of class L slots says: each of its instructions, under the cursor of a powered module, with a valid PM and MOD, takes a
step in which nothing but the frame of its warp changes; and in every active lane not yet resolved it does what R79 and R80 say, with
the table's result where it fires on values, or, while the lane waits, nothing. -/
def RowHolds (row : Instr → Option LRow) : Prop :=
  ∀ i r s e, row i = some r → At s e → r.pm ≠ 3#2 → r.bad e = false →
    let made := (lanesOf e.f.mask).filterMap (fun l => if e.f.doneIn e.slot l then none else (e.due r.pm r.nops l (r.out s e l)).map (fun o => (l, o)))
    ∃ f, exec i s = .next (close s (s.dispatch e f)) ∧ e.f.Apart f e.slot r.ts ∧
      e.f.Gains f (made.map (fun p => p.2.bout e.slot p.1)).flatten (made.map (fun p => p.2.write e.slot p.1)).flatten (made.map (fun p => p.2.wake p.1)).flatten
        (made.map (fun p => p.2.spoiled e.slot r.snk p.1)).flatten ∧
      ∀ l ∈ lanesOf e.f.mask, e.f.doneIn e.slot l = false →
        match e.due r.pm r.nops l (r.out s e l) with
        | none => f.doneIn e.slot l = false ∧ ∀ p sl, f.tok p sl l = e.f.tok p sl l
        | some o => f.doneIn e.slot l = true ∧ f.Did e.slot r.ts r.snk l o

/-- A reserved MOD or PM 11: the slot vectors with a cause (R75, R268). -/
def RowVectors (row : Instr → Option LRow) : Prop :=
  ∀ i r s e, row i = some r → At s e → r.pm = 3#2 ∨ r.bad e = true →
    exec i s = .next (close s (s.vectorL e r.pm r.nops r.ts r.snk cEmuReserved))

/-! ## Numbers by their units (R104 to R119)

What the statements about results are measured against, apart from the model's own arithmetic: a code is a sign and a count of units, the
unit of a format being its smallest subnormal, and a result is right if it is the code that R110 chooses for the exact value. -/

/-- What a code stands for: NaN, an infinity, or a sign and a count of units. -/
inductive Num where
  | nan
  | inf (neg : Bool)
  | of (neg : Bool) (n : Nat)
  deriving DecidableEq, Repr

/-- The magnitude of a code without its sign bit, in units; it goes on past the largest finite code as if the format did (R104). -/
def FF.units (f : FF) (c : Nat) : Nat := if c < 2 ^ f.fb then c else (2 ^ f.fb + c % 2 ^ f.fb) * 2 ^ (c / 2 ^ f.fb - 1)
/-- The code of infinity (R105). -/
def FF.top (f : FF) : Nat := (2 ^ f.eb - 1) * 2 ^ f.fb
/-- The number 1 in units: 2^(bias + fb - 1). -/
def FF.one (f : FF) : Nat := 2 ^ (2 ^ (f.eb - 1) + f.fb - 2)
/-- A magnitude code with its sign bit. -/
def FF.coded (f : FF) (neg : Bool) (c : Nat) : Nat := if neg then 2 ^ (f.eb + f.fb) + c else c
/-- The number that a code stands for (R104, R105), a subnormal read as zero under flush (R113). -/
def FF.num (f : FF) (flush : Bool) (v : Nat) : Num :=
  let c := v % 2 ^ (f.eb + f.fb)
  if f.top < c then .nan
  else if c = f.top then .inf (v.testBit (f.eb + f.fb))
  else .of (v.testBit (f.eb + f.fb)) (if flush && decide (c < 2 ^ f.fb) then 0 else f.units c)

def Num.flip : Num → Num
  | .nan => .nan
  | .inf s => .inf (!s)
  | .of s n => .of (!s) n
/-- A product; its units are the products of units. -/
def Num.times : Num → Num → Num
  | .of s a, .of t b => .of (s != t) (a * b)
  | .inf s, .inf t => .inf (s != t)
  | .inf s, .of t n => if n = 0 then .nan else .inf (s != t)
  | .of s n, .inf t => if n = 0 then .nan else .inf (s != t)
  | _, _ => .nan
/-- The same number in units `k` times as small. -/
def Num.finer (k : Nat) : Num → Num
  | .of s n => .of s (n * k)
  | x => x
def Num.int : Num → Int
  | .of s n => if s then -(n : Int) else n
  | _ => 0

/-- The order of numbers; -0 and +0 are equal. -/
def Num.Less : Num → Num → Prop
  | .inf s, .inf t => s = true ∧ t = false
  | .inf s, .of _ _ => s = true
  | .of _ _, .inf t => t = false
  | x@(.of _ _), y@(.of _ _) => x.int < y.int
  | _, _ => False

/-- An exact result. `real` is a magnitude x that is not zero, with x^p = n/d in units of the destination. -/
inductive Exact where
  | nan
  | inf (neg : Bool)
  | zero (neg : Bool)
  | real (neg : Bool) (p n d : Nat)
  deriving DecidableEq, Repr

/-- The exact sum of terms whose units are a `d`-th of the destination's (R110, R111, R116, R118); `down` says that the rounding is towards -∞. -/
def Num.sum (down : Bool) (d : Nat) (ts : List Num) : Exact :=
  if .nan ∈ ts ∨ (.inf true ∈ ts ∧ .inf false ∈ ts) then .nan
  else if .inf true ∈ ts then .inf true
  else if .inf false ∈ ts then .inf false
  else
    let x := (ts.map Num.int).sum
    if x = 0 then .zero (decide (∀ t ∈ ts, t = .of true 0) || (down && !decide (∀ t ∈ ts, t = .of false 0)))
    else .real (decide (x < 0)) 1 x.natAbs d

/-- The exact results of R150, rounding mode `m` deciding only the sign of a zero sum. -/
def exactOf (f : FF) (m : BitVec 2) (o : FOp) (a b c : Num) : Exact :=
  match o with
  | .add => Num.sum (m == 3#2) 1 [a, b]
  | .sub => Num.sum (m == 3#2) 1 [a, b.flip]
  | .mul => Num.sum (m == 3#2) f.one [a.times b]
  | .fma => Num.sum (m == 3#2) f.one [a.times b, c.finer f.one]
  | .div => match a, b with
    | .of s x, .of t y => if y = 0 then (if x = 0 then .nan else .inf (s != t)) else if x = 0 then .zero (s != t) else .real (s != t) 1 (x * f.one) y
    | .inf s, .of t _ => .inf (s != t)
    | .of s _, .inf t => .zero (s != t)
    | _, _ => .nan
  | .sqrt => match a with
    | .of s x => if x = 0 then .zero s else if s then .nan else .real false 2 (x * f.one) 1
    | .inf false => .inf false
    | _ => .nan

/-- How a magnitude stands to q quarters of a unit. -/
abbrev Stands := Nat → Ordering
/-- x^p = n/d. -/
def standsAt (p n d : Nat) : Stands := fun q => compare (4 ^ p * n) (q ^ p * d)

/-- Code `c` of the grid `u` is the one next to the magnitude, ties going to the even code (R110). -/
def Nearest (u : Nat → Nat) (x : Stands) (c : Nat) : Prop :=
  (x (2 * u c + 2 * u (c + 1)) = .lt ∨ (x (2 * u c + 2 * u (c + 1)) = .eq ∧ c % 2 = 0)) ∧
    (c = 0 ∨ x (2 * u (c - 1) + 2 * u c) = .gt ∨ (x (2 * u (c - 1) + 2 * u c) = .eq ∧ c % 2 = 0))
/-- The last code not above the magnitude. -/
def Below (u : Nat → Nat) (x : Stands) (c : Nat) : Prop := x (4 * u c) ≠ .lt ∧ x (4 * u (c + 1)) = .lt
/-- The first code not below the magnitude. -/
def Above (u : Nat → Nat) (x : Stands) (c : Nat) : Prop := x (4 * u c) ≠ .gt ∧ (c = 0 ∨ x (4 * u (c - 1)) = .gt)
/-- Mode `m` (R109) rounds a magnitude of sign `neg` towards zero. -/
def Inward (m : BitVec 2) (neg : Bool) : Prop := m = 1#2 ∨ (m = 2#2 ∧ neg = true) ∨ (m = 3#2 ∧ neg = false)
/-- Code `c` is what mode `m` makes of the magnitude on the grid `u`. -/
def RoundsAt (u : Nat → Nat) (m : BitVec 2) (neg : Bool) (x : Stands) (c : Nat) : Prop :=
  (m = 0#2 → Nearest u x c) ∧ (m ≠ 0#2 → Inward m neg → Below u x c) ∧ (m ≠ 0#2 → ¬Inward m neg → Above u x c)
/-- The magnitude, rounded with the exponent unbounded, lies below the smallest normal number, under which the grid is half as wide as the
unit (R110, R113). -/
def Tiny (f : FF) (m : BitVec 2) (neg : Bool) (x : Stands) : Prop :=
  (m = 0#2 ∧ x (4 * 2 ^ f.fb - 1) = .lt) ∨ (m ≠ 0#2 ∧ Inward m neg ∧ x (4 * 2 ^ f.fb) = .lt) ∨ (m ≠ 0#2 ∧ ¬Inward m neg ∧ x (4 * 2 ^ f.fb - 2) ≠ .gt)
/-- `r` is rnd of R110, for an exact result. -/
def RoundsTo (f : FF) (m : BitVec 2) (ftz : Bool) (r : Nat) : Exact → Prop
  | .nan => r = f.top + 2 ^ (f.fb - 1)
  | .inf neg => r = f.coded neg f.top
  | .zero neg => r = f.coded neg 0
  | .real neg p n d =>
    (ftz = true ∧ Tiny f m neg (standsAt p n d) → r = f.coded neg 0) ∧
      (¬(ftz = true ∧ Tiny f m neg (standsAt p n d)) → ∃ c, RoundsAt f.units m neg (standsAt p n d) c ∧
        (c < f.top → r = f.coded neg c) ∧
        (f.top ≤ c → (m = 0#2 ∨ ¬Inward m neg → r = f.coded neg f.top) ∧ (m ≠ 0#2 → Inward m neg → r = f.coded neg (f.top - 1))))
/-- `r` is the code in `g` of the number that `x` counts in `one`-ths: exactly, as NaN, or as an infinity (R114). -/
def Widens (g : FF) (one : Nat) (r : Nat) : Num → Prop
  | .nan => r = g.top + 2 ^ (g.fb - 1)
  | .inf s => r = g.coded s g.top
  | .of s n => ∃ k, g.num false r = .of s k ∧ k * one = n * g.one

/-- What R115 gives where a narrow conversion overflows. -/
def onOverflow (md : BitVec 3) (sat inf nan : Nat) : Option Nat :=
  match md.extractLsb' 0 2 with
  | 0#2 => some sat
  | 1#2 => some inf
  | 2#2 => some nan
  | _ => none
/-- R114 and R115 for a floating destination of a largest finite code, an infinity and a NaN. -/
def NarrowsTo (f : FF) (largest inf nan : Nat) (md : BitVec 3) (r : Option Nat) : Num → Prop
  | .nan => r = if md.extractLsb' 0 2 = 3#2 then none else some nan
  | .inf s => r = onOverflow md (f.coded s largest) (f.coded s inf) nan
  | .of s n => ∃ c, RoundsAt f.units (if md.getLsbD 2 then 1#2 else 0#2) s (standsAt 1 (n * f.one) fp32.one) c ∧
      r = if c ≤ largest then some (f.coded s c) else onOverflow md (f.coded s largest) (f.coded s inf) nan
/-- The same for an integer of `bits` bits. -/
def NarrowsToInt (bits : Nat) (md : BitVec 3) (r : Option Nat) : Num → Prop
  | .nan => r = if md.extractLsb' 0 2 = 3#2 then none else some 0
  | .inf s => r = onOverflow md (if s then 2 ^ (bits - 1) else 2 ^ (bits - 1) - 1) 0 0
  | .of s n => ∃ c, RoundsAt id (if md.getLsbD 2 then 1#2 else 0#2) s (standsAt 1 n fp32.one) c ∧
      r = if s then (if c ≤ 2 ^ (bits - 1) then some ((2 ^ bits - c) % 2 ^ bits) else onOverflow md (2 ^ (bits - 1)) 0 0)
          else (if c < 2 ^ (bits - 1) then some c else onOverflow md (2 ^ (bits - 1) - 1) 0 0)
/-- The format of sc8 without its sign, whose codes 1 to 3 no conversion makes: 1 is 2^33 of its units. -/
def sc8 : FF := ⟨6, 2⟩
/-- The same for sc8. -/
def NarrowsToScale (md : BitVec 3) (r : Option Nat) : Num → Prop
  | .nan => r = if md.extractLsb' 0 2 = 3#2 then none else some 0
  | .inf s => r = onOverflow md (if s then 0 else 0xFF) 0 0
  | .of true _ => r = onOverflow md 0 0 0
  | .of false n =>
    let x := standsAt 1 (n * 2 ^ 33) fp32.one
    (x 16 = .lt → r = some (if md.getLsbD 2 = false ∧ x 8 = .gt then 4 else 0)) ∧
      (x 16 ≠ .lt → ∃ c, RoundsAt sc8.units (if md.getLsbD 2 then 1#2 else 0#2) false x c ∧ r = if c ≤ 0xFF then some c else onOverflow md 0xFF 0 0)

/-- A two's-complement integer of `bits` bits (R106). -/
def intNum (bits c : Nat) : Num := if 2 ^ (bits - 1) ≤ c then .of true (2 ^ bits - c) else .of false c
/-- The number of an element code, by the formats of R70, and 1 in its units. -/
def elemNum (md : BitVec 3) (c : Nat) : Num × Nat :=
  match md with
  | 0#3 => (fp16.num false c, fp16.one)
  | 1#3 => (bf16.num false c, bf16.one)
  | 2#3 => (if c % 128 = 127 then .nan else .of (c.testBit 7) (FF.units ⟨4, 3⟩ (c % 128)), FF.one ⟨4, 3⟩)
  | 3#3 => (f8e5.num false c, f8e5.one)
  | 4#3 => (.of (c.testBit 3) (FF.units ⟨2, 1⟩ (c % 8)), FF.one ⟨2, 1⟩)
  | 5#3 => (intNum 8 c, 1)
  | 6#3 => (intNum 4 c, 1)
  | _ => (.of false (if c < 4 then 0 else sc8.units c), 2 ^ 33)

/-! ## Slots that act on memory -/

/-- Lane `l` is the only active lane in which the slot is ready, and it fires there on the values a, b and c. -/
abbrev Env.Only (e : Env) (pm : BitVec 2) (nops l : Nat) (a b c : Word) : Prop :=
  pm ≠ 3#2 ∧ l ∈ lanesOf e.f.mask ∧ e.f.laneGo e.slot nops pm l = .fire ∧ hasLane (mgetD e.f.fired e.slot 0) l = false ∧
    (∀ j ∈ lanesOf e.f.mask, j ≠ l → e.f.laneGo e.slot nops pm j = .wait) ∧
    (0 < nops → e.f.tok 0 e.slot l = some (.value a)) ∧ (1 < nops → e.f.tok 1 e.slot l = some (.value b)) ∧
    (2 < nops → e.f.tok 2 e.slot l = some (.value c))

/-- The state in which the slot has fired in lane `l` and its effect begins. -/
def State.firedIn (s : State) (e : Env) (l : Nat) : State :=
  (s.putFrame e e.f).updFid e.wid e.f.fid (fun f => f.markFired e.slot l)

/-! ## Class U commands -/

/-- The command is performed (R81): the slot is neither resolved nor waiting, the leader's operands have come and are values, every lane's
predicate has come, none is poison, and the quantifier holds; nothing is recorded of it (R87). -/
abbrev Env.Performs (e : Env) (pm : BitVec 2) (nops : Nat) (a b c : Word) : Prop :=
  e.uBusy = false ∧ e.f.predReady e.slot pm = true ∧ e.f.predPoison e.slot pm = none ∧ e.f.quant e.slot pm = true ∧
    (0 < nops → e.f.tok 0 e.slot (leaderOf e.f.mask) = some (.value a)) ∧ (1 < nops → e.f.tok 1 e.slot (leaderOf e.f.mask) = some (.value b)) ∧
    (2 < nops → e.f.tok 2 e.slot (leaderOf e.f.mask) = some (.value c)) ∧ e.lv.recorded e.slot 64 = none

/-- The state in which a performed command begins: the warp has dispatched (R329). -/
def State.dispatched (s : State) (e : Env) : State := s.putFrame e e.f

end Sys2Proof.Machine
end

