-- ==== Sys2Proof/Certificates/Slice0/Obligations.lean ====
section
/-!
DEFINITION. Sys2Proof/Certificates/Slice0/Obligations.lean: the statements about the module that are to be proved, and the tables they read.
-/
namespace Sys2Proof.Claims
open Sys2Proof.Machine

/-! ## Tables of class L slots -/

/-- A slot that makes one value. -/
def valRow (pm : BitVec 2) (nops : Nat) (ts : List (BitVec 9)) (bad : Bool) (f : Word → Word → Word → Word) : Option LRow :=
  some { pm := pm, nops := nops, ts := ts, snk := false, bad := fun _ => bad, out := fun _ _ _ a b c => .out (.value (f a b c)) }

/-- An operation on N-bit operands, N = 64 where `w64`, else 32; a 32-bit result has bits 63:32 zero (R122). -/
def atN (w64 : Bool) (f : (n : Nat) → BitVec n → BitVec n → BitVec n → BitVec n) (a b c : Word) : Word :=
  if w64 then f 64 a b c else (f 32 (a.setWidth 32) (b.setWidth 32) (c.setWidth 32)).setWidth 64
/-- A predicate on N-bit operands, delivered as a boolean (R106). -/
def testN (w64 : Bool) (f : (n : Nat) → BitVec n → BitVec n → Bool) (a b : Word) : Word :=
  if (if w64 then f 64 a b else f 32 (a.setWidth 32) (b.setWidth 32)) then 1 else 0

/-- The additive, multiplicative, dividing and signed forms (R131 to R133). -/
def arithRow : Instr → Option LRow
  | .add pm md tb ta => valRow pm 2 [ta, tb] (decide (2 ≤ md.toNat)) (atN (md.getLsbD 0) fun _ x y _ => x + y)
  | .sub pm md tb ta => valRow pm 2 [ta, tb] (decide (2 ≤ md.toNat)) (atN (md.getLsbD 0) fun _ x y _ => x - y)
  | .addi pm imm t => valRow pm 1 [t] false (fun a _ _ => a + imm.signExtend 64)
  | .mul pm md tb ta => valRow pm 2 [ta, tb] (decide (2 ≤ md.toNat)) (atN (md.getLsbD 0) fun _ x y _ => x * y)
  | .mulh pm md tb ta => valRow pm 2 [ta, tb] (decide (4 ≤ md.toNat)) (atN (md.getLsbD 0) fun n x y _ =>
      if md.getLsbD 1 then (x.setWidth (n + n) * y.setWidth (n + n)).extractLsb' n n else (x.signExtend (n + n) * y.signExtend (n + n)).extractLsb' n n)
  | .mad pm md tb ta => valRow pm 3 [ta, tb] (decide (2 ≤ md.toNat)) (atN (md.getLsbD 0) fun _ x y z => x * y + z)
  | .div pm md tb ta => valRow pm 2 [ta, tb] (decide (4 ≤ md.toNat)) (atN (md.getLsbD 0) fun n x y _ =>
      if y = 0#n then BitVec.allOnes n else if md.getLsbD 1 then x / y else x.sdiv y)
  | .rem pm md tb ta => valRow pm 2 [ta, tb] (decide (4 ≤ md.toNat)) (atN (md.getLsbD 0) fun n x y _ =>
      if y = 0#n then x else if md.getLsbD 1 then x % y else x.srem y)
  | .min pm md tb ta => valRow pm 2 [ta, tb] (decide (4 ≤ md.toNat)) (atN (md.getLsbD 0) fun _ x y _ =>
      if (if md.getLsbD 1 then y.ult x else y.slt x) then y else x)
  | .max pm md tb ta => valRow pm 2 [ta, tb] (decide (4 ≤ md.toNat)) (atN (md.getLsbD 0) fun _ x y _ =>
      if (if md.getLsbD 1 then x.ult y else x.slt y) then y else x)
  | .abs pm md tb ta => valRow pm 1 [ta, tb] (decide (2 ≤ md.toNat)) (atN (md.getLsbD 0) fun _ x _ _ => if x.msb then -x else x)
  | .neg pm md tb ta => valRow pm 1 [ta, tb] (decide (2 ≤ md.toNat)) (atN (md.getLsbD 0) fun _ x _ _ => -x)
  | _ => none

/-- The bitwise forms and the shifts (R134 to R136). -/
def logicRow : Instr → Option LRow
  | .and pm md tb ta => valRow pm 2 [ta, tb] (decide (2 ≤ md.toNat)) (atN (md.getLsbD 0) fun _ x y _ => x &&& y)
  | .or pm md tb ta => valRow pm 2 [ta, tb] (decide (2 ≤ md.toNat)) (atN (md.getLsbD 0) fun _ x y _ => x ||| y)
  | .xor pm md tb ta => valRow pm 2 [ta, tb] (decide (2 ≤ md.toNat)) (atN (md.getLsbD 0) fun _ x y _ => x ^^^ y)
  | .andn pm md tb ta => valRow pm 2 [ta, tb] (decide (2 ≤ md.toNat)) (atN (md.getLsbD 0) fun _ x y _ => x &&& ~~~y)
  | .not pm md tb ta => valRow pm 1 [ta, tb] (decide (2 ≤ md.toNat)) (atN (md.getLsbD 0) fun _ x _ _ => ~~~x)
  | .andi pm imm t => valRow pm 1 [t] false (fun a _ _ => a &&& imm.signExtend 64)
  | .ori pm imm t => valRow pm 1 [t] false (fun a _ _ => a ||| imm.signExtend 64)
  | .xori pm imm t => valRow pm 1 [t] false (fun a _ _ => a ^^^ imm.signExtend 64)
  | .shl pm md tb ta => valRow pm 2 [ta, tb] (decide (2 ≤ md.toNat)) (atN (md.getLsbD 0) fun n x y _ => x <<< (y.toNat % n))
  | .shr pm md tb ta => valRow pm 2 [ta, tb] (decide (2 ≤ md.toNat)) (atN (md.getLsbD 0) fun n x y _ => x >>> (y.toNat % n))
  | .sar pm md tb ta => valRow pm 2 [ta, tb] (decide (2 ≤ md.toNat)) (atN (md.getLsbD 0) fun n x y _ => x.sshiftRight (y.toNat % n))
  | .rotl pm md tb ta => valRow pm 2 [ta, tb] (decide (2 ≤ md.toNat)) (atN (md.getLsbD 0) fun n x y _ => x.rotateLeft (y.toNat % n))
  | .shli pm w64 cnt t => valRow pm 1 [t] (w64 == 0#1 && cnt.getLsbD 5) (atN (w64 == 1#1) fun _ x _ _ => x <<< cnt.toNat)
  | .shri pm w64 cnt t => valRow pm 1 [t] (w64 == 0#1 && cnt.getLsbD 5) (atN (w64 == 1#1) fun _ x _ _ => x >>> cnt.toNat)
  | .sari pm w64 cnt t => valRow pm 1 [t] (w64 == 0#1 && cnt.getLsbD 5) (atN (w64 == 1#1) fun _ x _ _ => x.sshiftRight cnt.toNat)
  | _ => none

/-- The field that a control token names: a mask of its len′ bits, its position, and len′ (R137). -/
def fieldLen (n : Nat) (ctl : Word) : Nat :=
  if ctl.toNat % 256 < n then min (ctl.toNat / 256 % 256) (n - ctl.toNat % 256) else 0
def fieldMask (n : Nat) (ctl : Word) : BitVec n := BitVec.ofNat n (2 ^ fieldLen n ctl - 1)

/-- The bit fields and counts (R137, R138). -/
def fieldRow : Instr → Option LRow
  | .bfx pm md tb ta => valRow pm 2 [ta, tb] (decide (4 ≤ md.toNat)) (fun a b _ => atN (md.getLsbD 0) (fun n x _ _ =>
      let f := (x >>> (b.toNat % 256)) &&& fieldMask n b
      if md.getLsbD 1 && decide (0 < fieldLen n b) && f.getLsbD (fieldLen n b - 1) then f ||| ~~~fieldMask n b else f) a 0 0)
  | .bfi pm md tb ta => valRow pm 3 [ta, tb] (decide (2 ≤ md.toNat)) (fun a b c => atN (md.getLsbD 0) (fun n x y _ =>
      let m := fieldMask n c <<< (c.toNat % 256)
      (x &&& ~~~m) ||| ((y <<< (c.toNat % 256)) &&& m)) a b 0)
  | .popc pm md tb ta => valRow pm 1 [ta, tb] (decide (2 ≤ md.toNat)) (atN (md.getLsbD 0) fun n x _ _ =>
      BitVec.ofNat n ((List.range n).countP (fun i => x.getLsbD i)))
  | .clz pm md tb ta => valRow pm 1 [ta, tb] (decide (2 ≤ md.toNat)) (atN (md.getLsbD 0) fun n x _ _ =>
      BitVec.ofNat n ((List.range n).findIdx (fun i => x.getLsbD (n - 1 - i))))
  | .ctz pm md tb ta => valRow pm 1 [ta, tb] (decide (2 ≤ md.toNat)) (atN (md.getLsbD 0) fun n x _ _ =>
      BitVec.ofNat n ((List.range n).findIdx (fun i => x.getLsbD i)))
  | .brev pm md tb ta => valRow pm 1 [ta, tb] (decide (2 ≤ md.toNat)) (atN (md.getLsbD 0) fun _ x _ _ => x.reverse)
  | _ => none

/-- Byte `k` of a word, and the byte that a nibble of `BYTEPERM` selects (R142). -/
def byteOf (v : Word) (k : Nat) : BitVec 8 := v.extractLsb' (8 * k) 8
def permByte (a b c : Word) (i : Nat) : BitVec 8 :=
  let k := (c.extractLsb' (4 * i) 4).toNat
  if k < 8 then byteOf a k else byteOf b (k - 8)

/-- Select, compare, address, extension and byte permutation (R139 to R142). -/
def compareRow : Instr → Option LRow
  | .sel pm tb ta => valRow pm 3 [ta, tb] false (fun a b c => if c.getLsbD 0 then a else b)
  | .cmpeq pm md tb ta => valRow pm 2 [ta, tb] (decide (2 ≤ md.toNat)) (fun a b _ => testN (md.getLsbD 0) (fun _ x y => x == y) a b)
  | .cmpne pm md tb ta => valRow pm 2 [ta, tb] (decide (2 ≤ md.toNat)) (fun a b _ => testN (md.getLsbD 0) (fun _ x y => x != y) a b)
  | .cmplt pm md tb ta => valRow pm 2 [ta, tb] (decide (4 ≤ md.toNat)) (fun a b _ =>
      testN (md.getLsbD 0) (fun _ x y => if md.getLsbD 1 then x.ult y else x.slt y) a b)
  | .cmple pm md tb ta => valRow pm 2 [ta, tb] (decide (4 ≤ md.toNat)) (fun a b _ =>
      testN (md.getLsbD 0) (fun _ x y => if md.getLsbD 1 then x.ule y else x.sle y) a b)
  | .cmpeqi pm imm t => valRow pm 1 [t] false (fun a _ _ => if a = imm.signExtend 64 then 1 else 0)
  | .cmplti pm imm t => valRow pm 1 [t] false (fun a _ _ => if a.slt (imm.signExtend 64) then 1 else 0)
  | .lea pm md tb ta => valRow pm 2 [ta, tb] false (fun a b _ => a + (b <<< md.toNat))
  | .sext pm md tb ta => valRow pm 1 [ta, tb] (decide (3 ≤ md.toNat)) (fun a _ _ =>
      if md = 0 then (a.setWidth 8).signExtend 64 else if md = 1 then (a.setWidth 16).signExtend 64 else (a.setWidth 32).signExtend 64)
  | .zext pm md tb ta => valRow pm 1 [ta, tb] (decide (3 ≤ md.toNat)) (fun a _ _ =>
      if md = 0 then (a.setWidth 8).setWidth 64 else if md = 1 then (a.setWidth 16).setWidth 64 else (a.setWidth 32).setWidth 64)
  | .byteperm pm tb ta => valRow pm 3 [ta, tb] false (fun a b c =>
      permByte a b c 7 ++ permByte a b c 6 ++ permByte a b c 5 ++ permByte a b c 4 ++ permByte a b c 3 ++ permByte a b c 2 ++
        permByte a b c 1 ++ permByte a b c 0)
  | _ => none

/-- The floating-point forms on FP32 and FP64 (R150 to R157), by the exact arithmetic and rounding of R104 to R111. -/
def floatRow : Instr → Option LRow
  | .fadd pm md tb ta => valRow pm 2 [ta, tb] false (fun a b c => fOp32 .add md a b c)
  | .fsub pm md tb ta => valRow pm 2 [ta, tb] false (fun a b c => fOp32 .sub md a b c)
  | .fmul pm md tb ta => valRow pm 2 [ta, tb] false (fun a b c => fOp32 .mul md a b c)
  | .ffma pm md tb ta => valRow pm 3 [ta, tb] false (fun a b c => fOp32 .fma md a b c)
  | .fdiv pm md tb ta => valRow pm 2 [ta, tb] false (fun a b c => fOp32 .div md a b c)
  | .fsqrt pm md tb ta => valRow pm 1 [ta, tb] false (fun a b c => fOp32 .sqrt md a b c)
  | .fmin pm md tb ta => valRow pm 2 [ta, tb] (decide (md.extractLsb' 0 2 ≠ 0#2)) (fun a b _ =>
      toWord (fp32.minmax false (md.getLsbD 2) (a.setWidth 32).toNat (b.setWidth 32).toNat))
  | .fmax pm md tb ta => valRow pm 2 [ta, tb] (decide (md.extractLsb' 0 2 ≠ 0#2)) (fun a b _ =>
      toWord (fp32.minmax true (md.getLsbD 2) (a.setWidth 32).toNat (b.setWidth 32).toNat))
  | .fabs pm tb ta => valRow pm 1 [ta, tb] false (fun a _ _ =>
      if fp32.isNan (a.setWidth 32).toNat then 0x7FC00000 else (a.setWidth 31).setWidth 64)
  | .fneg pm tb ta => valRow pm 1 [ta, tb] false (fun a _ _ =>
      if fp32.isNan (a.setWidth 32).toNat then 0x7FC00000 else (a.setWidth 32 ^^^ 0x80000000#32).setWidth 64)
  | .fcmp pm md tb ta => valRow pm 2 [ta, tb] (decide (6 ≤ md.toNat)) (fun a b _ =>
      if fcmp md (fp32.dec (a.setWidth 32).toNat) (fp32.dec (b.setWidth 32).toNat) then 1 else 0)
  | .fclass pm tb ta => valRow pm 1 [ta, tb] false (fun a _ _ => fClass a)
  | .frnd pm md tb ta => valRow pm 1 [ta, tb] false (fun a _ _ => fRnd md a)
  | .fscale pm md tb ta => valRow pm 2 [ta, tb] false (fun a b _ => fScale md a b)
  | .dadd pm md tb ta => valRow pm 2 [ta, tb] (md.getLsbD 2) (fun a b c => fOp64 .add md a b c)
  | .dsub pm md tb ta => valRow pm 2 [ta, tb] (md.getLsbD 2) (fun a b c => fOp64 .sub md a b c)
  | .dmul pm md tb ta => valRow pm 2 [ta, tb] (md.getLsbD 2) (fun a b c => fOp64 .mul md a b c)
  | .dfma pm md tb ta => valRow pm 3 [ta, tb] (md.getLsbD 2) (fun a b c => fOp64 .fma md a b c)
  | .dcmp pm md tb ta => valRow pm 2 [ta, tb] (decide (6 ≤ md.toNat)) (fun a b _ => if fcmp md (fp64.dec a.toNat) (fp64.dec b.toNat) then 1 else 0)
  | .dminmax pm md tb ta => valRow pm 2 [ta, tb] (decide (2 ≤ md.toNat)) (fun a b _ => toWord (fp64.minmax (md == 1#3) false a.toNat b.toNat))
  | _ => none

/-- An operand as FMIN, FMAX and DMINMAX deliver it: bit for bit, but a subnormal read as a zero as that zero (R151). -/
def delivered (f : FF) (ftz : Bool) (v : Nat) : Nat :=
  match f.num ftz v with
  | .of _ 0 => v / 2 ^ (f.eb + f.fb) * 2 ^ (f.eb + f.fb)
  | _ => v
/-- The order of numbers in which −0 lies below +0 (R151). -/
def Under (x y : Sys2Proof.Machine.Num) : Prop := x.Less y ∨ (x = .of true 0 ∧ y = .of false 0)
/-- `r` is minimumNumber, or maximumNumber, of two codes (R151). -/
def PicksOf (f : FF) (mx ftz : Bool) (x y r : Nat) : Prop :=
  let a := f.num ftz x
  let b := f.num ftz y
  (a = .nan ∧ b = .nan → r = f.top + 2 ^ (f.fb - 1)) ∧ (a = .nan ∧ b ≠ .nan → r = delivered f ftz y) ∧ (a ≠ .nan ∧ b = .nan → r = delivered f ftz x) ∧
    (a ≠ .nan ∧ b ≠ .nan →
      (r = delivered f ftz x ∧ ¬(if mx then Under a b else Under b a)) ∨ (r = delivered f ftz y ∧ ¬(if mx then Under b a else Under a b)))

/-- One element of an .X2 form: half `h` of each operand (R159). -/
def half32 (v : Word) (h : Nat) : Nat := (v.extractLsb' (32 * h) 32).toNat
/-- The packed forms (R159, R160, R116). -/
def packedRow : Instr → Option LRow
  | .faddX2 pm md tb ta => valRow pm 2 [ta, tb] false (fun a b c => fOpX2 .add md a b c)
  | .fsubX2 pm md tb ta => valRow pm 2 [ta, tb] false (fun a b c => fOpX2 .sub md a b c)
  | .fmulX2 pm md tb ta => valRow pm 2 [ta, tb] false (fun a b c => fOpX2 .mul md a b c)
  | .ffmaX2 pm md tb ta => valRow pm 3 [ta, tb] false (fun a b c => fOpX2 .fma md a b c)
  | .fdotX2 pm md tb ta => valRow pm 2 [ta, tb] false (fun a b _ => fDotX2 md a b)
  | .haddX4 pm md tb ta => valRow pm 2 [ta, tb] (md.getLsbD 2) (fun a b c => fOpX4 fp16 .add md a b c)
  | .hmulX4 pm md tb ta => valRow pm 2 [ta, tb] (md.getLsbD 2) (fun a b c => fOpX4 fp16 .mul md a b c)
  | .hfmaX4 pm md tb ta => valRow pm 3 [ta, tb] (md.getLsbD 2) (fun a b c => fOpX4 fp16 .fma md a b c)
  | .baddX4 pm md tb ta => valRow pm 2 [ta, tb] (md.getLsbD 2) (fun a b c => fOpX4 bf16 .add md a b c)
  | .bmulX4 pm md tb ta => valRow pm 2 [ta, tb] (md.getLsbD 2) (fun a b c => fOpX4 bf16 .mul md a b c)
  | .bfmaX4 pm md tb ta => valRow pm 3 [ta, tb] (md.getLsbD 2) (fun a b c => fOpX4 bf16 .fma md a b c)
  | _ => none

/-- A narrow conversion: its code, or poison with CONVERT_TRAP of its own slot (R115, R165). -/
def narrowRow (pm : BitVec 2) (n : NF) (md : BitVec 3) (tb ta : BitVec 9) : Option LRow :=
  some { pm := pm, nops := 1, ts := [ta, tb], snk := false, bad := fun _ => policyReserved n md, out := fun _ e _ a _ _ => match ncvt n md a with
      | some c => .out (.value (toWord c))
      | none => .out (.poison (BitVec.ofNat 6 e.slot) 0x31 0) }

/-- The conversions, special functions and packing forms (R161 to R168). -/
def convertRow : Instr → Option LRow
  | .cvtF2i pm md tb ta => valRow pm 1 [ta, tb] false (fun a _ _ => cvtF2i md a)
  | .cvtI2f pm md tb ta => valRow pm 1 [ta, tb] false (fun a _ _ => cvtI2f md a)
  | .cvtF2f pm md tb ta => valRow pm 1 [ta, tb] false (fun a _ _ => cvtH fp64 md a)
  | .cvtI2i pm md tb ta => valRow pm 1 [ta, tb] (md.getLsbD 2) (fun a _ _ => cvtI2i md a)
  | .cvtH2f pm md tb ta => valRow pm 1 [ta, tb] false (fun a _ _ => cvtH fp32 md a)
  | .cvtF2d pm tb ta => valRow pm 1 [ta, tb] false (fun a _ _ => toWord (fp64.rnd (fp32.dec (a.setWidth 32).toNat) .rne false))
  | .cvtD2f pm md tb ta => valRow pm 1 [ta, tb] false (fun a _ _ => toWord (fp32.rnd (fp64.dec a.toNat) (rmOf md) false))
  | .ncvtH pm md tb ta => narrowRow pm .h md tb ta
  | .ncvtB pm md tb ta => narrowRow pm .b md tb ta
  | .ncvtE4 pm md tb ta => narrowRow pm .e4 md tb ta
  | .ncvtE5 pm md tb ta => narrowRow pm .e5 md tb ta
  | .ncvtF4 pm md tb ta => narrowRow pm .f4 md tb ta
  | .ncvtSc pm md tb ta => narrowRow pm .sc md tb ta
  | .ncvtI8 pm md tb ta => narrowRow pm .i8 md tb ta
  | .ncvtI4 pm md tb ta => narrowRow pm .i4 md tb ta
  | .rcp pm md tb ta => valRow pm 1 [ta, tb] (decide (md.extractLsb' 0 2 ≠ 0#2)) (fun a _ _ => special .rcp md a)
  | .rsq pm md tb ta => valRow pm 1 [ta, tb] (decide (md.extractLsb' 0 2 ≠ 0#2)) (fun a _ _ => special .rsq md a)
  | .exp2 pm md tb ta => valRow pm 1 [ta, tb] (decide (md.extractLsb' 0 2 ≠ 0#2)) (fun a _ _ => special .exp2 md a)
  | .log2 pm md tb ta => valRow pm 1 [ta, tb] (decide (md.extractLsb' 0 2 ≠ 0#2)) (fun a _ _ => special .log2 md a)
  | .sin pm md tb ta => valRow pm 1 [ta, tb] (decide (md.extractLsb' 0 2 ≠ 0#2)) (fun a _ _ => special .sin md a)
  | .cos pm md tb ta => valRow pm 1 [ta, tb] (decide (md.extractLsb' 0 2 ≠ 0#2)) (fun a _ _ => special .cos md a)
  | .tanh pm md tb ta => valRow pm 1 [ta, tb] (decide (md.extractLsb' 0 2 ≠ 0#2)) (fun a _ _ => special .tanh md a)
  | .pack pm md tb ta => valRow pm 2 [ta, tb] false (fun a b _ => pack md a b)
  | .unpack pm md tb ta => valRow pm 2 [ta, tb] false (fun a b _ => unpack md a b)
  | _ => none

/-- A one-value slot whose result is a token, by lane. -/
def tokRow (pm : BitVec 2) (nops : Nat) (ts : List (BitVec 9)) (bad : Env → Bool) (f : State → Env → Nat → Word → Tok) : Option LRow :=
  some { pm := pm, nops := nops, ts := ts, snk := false, bad := bad, out := fun s e l a _ _ => .out (f s e l a) }

/-- Moves, constants and special registers (R124, R125, R127, R129). -/
def constRow : Instr → Option LRow
  | .mov pm tb ta => valRow pm 1 [ta, tb] false (fun a _ _ => a)
  | .void pm tb ta => tokRow pm 0 [ta, tb] (fun _ => false) (fun _ _ _ _ => .null)
  | .gen imm t => valRow 0 0 [t] false (fun _ _ _ => imm.signExtend 64)
  | .genf imm t => valRow 0 0 [t] false (fun _ _ _ => (imm ++ 0#12).setWidth 64)
  | .genl pm md tb ta l0 l1 => valRow pm 0 [ta, tb] (md.getLsbD 2) (fun _ _ _ =>
      if md = 0 then l0.setWidth 64 else if md = 1 then l0.signExtend 64 else if md = 2 then l0 ++ l0 else l1 ++ l0)
  | .sreg pm imm t => some { pm := pm, nops := 0, ts := [t], snk := false, bad := fun e => sregRefused e.w.modeNow imm.toNat,
                             out := fun s e l _ _ _ => if imm = 0x040 ∨ imm = 0x041 then .sample (s.sregVal e imm.toNat l) else .out (.value (s.sregVal e imm.toNat l)) }
  | _ => none

/-- A sink of a branch: in each lane where it fires one branch output, and the link to its targets (R168 to R172). -/
def branchRow (pm : BitVec 2) (nops : Nat) (ts : List (BitVec 9)) (k : Env → Word → BOut) : Option LRow :=
  some { pm := pm, nops := nops, ts := ts, snk := true, bad := fun _ => false,
         out := fun _ e _ a _ _ => .branch (k e a) (.value (e.f.blk.addr + toWord (16 * ((16 + 4 * e.f.blk.nread + 4 * e.f.blk.nslot + 15) / 16)))) }

/-- A relative successor: the block's address plus 16 times the offset, within 57 bits (R48). -/
def relative (a : Word) (off : Int) : Word := ((a + BitVec.ofInt 64 (16 * off)).setWidth 57).setWidth 64

/-- A slot that makes something other than one token of values. -/
def outRow (pm : BitVec 2) (nops : Nat) (snk : Bool) (bad : Env → Bool) (out : State → Env → Nat → Word → Word → Word → LaneOut) : Option LRow :=
  some { pm := pm, nops := nops, ts := [], snk := snk, bad := bad, out := out }

/-- Branches, traps, returns, resumes and special-register writes (R130, R169 to R177). -/
def sinkRow : Instr → Option LRow
  | .bri pm off => branchRow pm 0 [] (fun e _ => .succ (relative e.f.blk.addr off.toInt))
  | .br pm => branchRow pm 1 [] (fun _ a => .succ a)
  | .calli pm imm t => branchRow pm 0 [t] (fun e _ => .succ (relative e.f.blk.addr imm.toInt))
  | .call pm tb ta => branchRow pm 1 [ta, tb] (fun _ a => .succ a)
  | .ret pm => branchRow pm 1 [] (fun _ a => .succ a)
  | .exit pm => branchRow pm 0 [] (fun _ _ => .exit)
  | .trap pm imm => outRow pm 0 false (fun _ => false) (fun _ e _ _ _ _ => .fail (.poison (BitVec.ofNat 6 e.slot) 0x32 (imm.setWidth 64)))
  | .emret pm => outRow pm 0 false (fun e => e.w.modeNow != .handler) (fun _ _ _ _ _ _ => .branch .ret .null)
  | .fresume pm => outRow pm 1 false (fun e => e.w.modeNow != .supervisor) (fun _ _ _ a _ _ => .resume a)
  | .swreg pm imm => outRow pm 1 true (fun e => swregRefused e.w.modeNow imm.toNat) (fun _ _ _ a _ _ => .swreg imm.toNat a)
  | _ => none

end Sys2Proof.Claims

open Sys2Proof Sys2Proof.Machine Sys2Proof.Claims

/-! ## Encoding -/

/-- The words of the spec's examples decode as the examples say (R46 and the example tables of chapters 3, 6 and 23). -/
def Obligations.DecodesSpecWords : Prop :=
  decodeWord 0xDFFFFE02 0 0 = .ok (.gen 0xFFFFF 0x002) ∧
  decodeWord 0xFFFFFFFF 0 0 = .ok (.genf 0xFFFFF 0x1FF) ∧
  decodeWord 0x2B00D1C0 0 0 = .ok (.shri 0 1 40 0x1C0) ∧
  decodeWord 0x220FFE04 0 0 = .ok (.mulh 0 3 0x1FF 0x004) ∧
  decodeWord 0x21002003 0 0 = .ok (.addi 0 0x010 0x003) ∧
  decodeWord 0x32000B82 0 0 = .ok (.cmpeqi 0 5 0x182) ∧
  decodeWord 0x00C00803 0 0 = .ok (.mov 2 0x004 0x003) ∧
  decodeWord 0x0507FFC0 0 0 = .ok (.redx 0 1 0x1FF 0x1C0) ∧
  decodeWord 0x4A03FE01 0 0 = .ok (.ddiv 0 0 0x1FF 0x001) ∧
  decodeWord 0x4063FE01 0 0 = .ok (.fadd 3 0 0x1FF 0x001) ∧
  decodeWord 0x698FFE02 0 0 = .ok (.mman 0 3 0x1FF 0x002) ∧
  decodeWord 0xA8022000 0 0 = .ok (.st 0 2 1 0) ∧
  decodeWord 0xB000E1FF 0 0 = .ok (.atom32 0 0 7 0 0x1FF) ∧
  decodeWord 0x82C3FFFF 0 0 = .ok (.exit 2) ∧
  decodeWord 0x80200004 0 0 = .ok (.bri 1 4) ∧
  decodeWord 0xB0000081 0 0 = .ok (.atom32 0 0 0 0 0x081) ∧
  decodeWord 0x330BFFC0 0 0 = .ok (.lea 0 2 0x1FF 0x1C0) ∧
  decodeWord 0x00831388 0 0 = .ok (.mov 0 0x189 0x188) ∧
  decodeWord 0x03000081 0 0 = .ok (.sreg 0 0x000 0x081) ∧
  decodeWord 0x0283FE83 0x00012345 0 = .ok (.genl 0 0 0x1FF 0x083 0x00012345 0) ∧
  decodeWord 0x4C03FE01 0 0 = .error .unassigned ∧
  decodeWord 0 0 0 = .error .zeroOpcode

/-- The decoder undoes the encoder on every well-formed instruction of the opcode map; an event has no words. -/
def Obligations.DecodeOfEncode : Prop :=
  ∀ i : Instr, encode i ≠ [] → wellFormed i = true → ∀ rest : List Insn, decode (encode i ++ rest) = .ok (i, rest)

/-- The encoder undoes the decoder. -/
def Obligations.EncodeOfDecode : Prop :=
  ∀ (w l0 l1 : Insn) (i : Instr), decodeWord w l0 l1 = .ok i → ∃ lits, encode i = w :: lits ∧ lits <+: [l0, l1]

/-- The last column of R62's table, and its zero code. -/
def Obligations.UnassignedCodes : Prop :=
  let ranges : List (Nat × Nat) := [(0x00D, 0x00F), (0x014, 0x03F), (0x05F, 0x05F), (0x067, 0x067), (0x06E, 0x07F), (0x08E, 0x08F), (0x098, 0x09F),
    (0x0A5, 0x0A7), (0x0AE, 0x0AF), (0x0B6, 0x0B7), (0x0C7, 0x0C7), (0x0CA, 0x0CF), (0x0DA, 0x0DF), (0x0E6, 0x0FF), (0x106, 0x107), (0x10E, 0x10F),
    (0x113, 0x117), (0x11D, 0x13F), (0x149, 0x14F), (0x157, 0x15F), (0x167, 0x16F), (0x173, 0x173), (0x17B, 0x17B), (0x17E, 0x17F)]
  ∀ w l0 l1 : Insn,
    (decodeWord w l0 l1 = .error .zeroOpcode ↔ (w.extractLsb' 23 9).toNat = 0) ∧
    (decodeWord w l0 l1 = .error .unassigned ↔ ∃ r ∈ ranges, r.1 ≤ (w.extractLsb' 23 9).toNat ∧ (w.extractLsb' 23 9).toNat ≤ r.2)

/-! ## A step -/

/-- What a step does with the slot under the cursor. -/
def Obligations.StepRunsDecoded : Prop :=
  ∀ s e, At s e →
    (e.slot ∉ e.f.blk.litSlots → ∀ i, decodeWord (e.f.word e.slot) (e.f.word (e.slot + 1)) (e.f.word (e.slot + 2)) = .ok i → step s = exec i s) ∧
    (e.slot ∉ e.f.blk.litSlots → ∀ r, decodeWord (e.f.word e.slot) (e.f.word (e.slot + 1)) (e.f.word (e.slot + 2)) = .error r →
      step s = exec (.emuVector e.wid e.slot) s) ∧
    (e.slot ∈ e.f.blk.litSlots → step s = .next (close s s))

/-- A placed instruction runs as the first one after reset (the placing is the model's own, log entry 1). -/
def Obligations.PlacedInstructionRuns : Prop :=
  ∀ (w : BitVec 32) (i : Instr), decodeTableWord 32 w.toNat = some i →
    step (State.reset.withFetchWord 32 w.toNat) = exec i (State.reset.withFetchWord 32 w.toNat) ∧
      ∃ e, At (State.reset.withFetchWord 32 w.toNat) e ∧ e.f.word e.slot = w ∧ lanesOf e.f.mask = [0]

/-! ## Invariants -/

/-- What holds of the machine right after reset; the values of log entry 7 are the model's choice and are not named here. -/
def Obligations.ResetIsSafe : Prop :=
  State.reset.Safe ∧ State.reset.powered = true ∧ State.reset.time = 0 ∧ State.reset.ctxs = [] ∧ State.reset.warps = [] ∧
    (∀ k, State.reset.keyHeld k = true ↔ k = 0) ∧ State.reset.frecs = [] ∧
    State.reset.xlinv.busy = false ∧ State.reset.xlinv.addr = 0 ∧ State.reset.xlinv.ctl = 0 ∧
    State.reset.ctxsw.busy = false ∧ State.reset.ctxsw.result = 0 ∧ State.reset.ctxsw.area = 0 ∧ State.reset.ctxsw.size = 0 ∧ State.reset.ctxsw.ctl = 0 ∧
    State.reset.mb.busy = false ∧ State.reset.mb.result = 0 ∧ State.reset.mb.len = 0 ∧ State.reset.mb.cmd = 0 ∧ State.reset.domain = 0

/-- The invariant of the model's memory (log entry 6), kept by every step. -/
def Obligations.StepKeepsSafe : Prop := ∀ s t, s.Safe → step s = .next t → t.Safe

/-- The fuse map is fixed at manufacture, and device time only advances. -/
def Obligations.FusesAndTimeKept : Prop :=
  (∀ i s t, s.powered = true → exec i s = .next t → Keeps s t) ∧ ∀ s t, s.powered = true → step s = .next t → Keeps s t

/-- A module without power does nothing (R374); what comes from outside meanwhile is lost (log entry 5). -/
def Obligations.OffUntilPowerOn : Prop :=
  (∀ i s t, s.powered = false → exec i s = .next t → ∃ a v b r, i = .powerOn a v b r) ∧
  (∀ s t, s.powered = false → step s = .next t → t.powered = true → ∃ a v b r l, s.inbox = .event (.powerOn a v b r) :: l)

/-! ## Class L slots -/

/-- R131 to R133, with the lanes of R79 and R80. -/
def Obligations.IntegerArithmetic : Prop :=
  RowHolds arithRow ∧
    (∀ (pm : BitVec 2) (md : BitVec 3) (tb ta t : BitVec 9) (imm : BitVec 12),
      encode (.add pm md tb ta) = [0x040#9 ++ pm ++ md ++ tb ++ ta] ∧
      encode (.sub pm md tb ta) = [0x041#9 ++ pm ++ md ++ tb ++ ta] ∧
      encode (.mul pm md tb ta) = [0x043#9 ++ pm ++ md ++ tb ++ ta] ∧
      encode (.mulh pm md tb ta) = [0x044#9 ++ pm ++ md ++ tb ++ ta] ∧
      encode (.mad pm md tb ta) = [0x045#9 ++ pm ++ md ++ tb ++ ta] ∧
      encode (.div pm md tb ta) = [0x046#9 ++ pm ++ md ++ tb ++ ta] ∧
      encode (.rem pm md tb ta) = [0x047#9 ++ pm ++ md ++ tb ++ ta] ∧
      encode (.min pm md tb ta) = [0x048#9 ++ pm ++ md ++ tb ++ ta] ∧
      encode (.max pm md tb ta) = [0x049#9 ++ pm ++ md ++ tb ++ ta] ∧
      encode (.abs pm md tb ta) = [0x04A#9 ++ pm ++ md ++ tb ++ ta] ∧
      encode (.neg pm md tb ta) = [0x04B#9 ++ pm ++ md ++ tb ++ ta] ∧
      encode (.addi pm imm t) = [0x042#9 ++ pm ++ imm ++ t])

/-- R134 to R136. -/
def Obligations.LogicAndShifts : Prop :=
  RowHolds logicRow ∧
    (∀ (pm : BitVec 2) (md : BitVec 3) (tb ta t : BitVec 9) (imm : BitVec 12) (w64 : BitVec 1) (cnt : BitVec 6),
      encode (.and pm md tb ta) = [0x04C#9 ++ pm ++ md ++ tb ++ ta] ∧
      encode (.or pm md tb ta) = [0x04D#9 ++ pm ++ md ++ tb ++ ta] ∧
      encode (.xor pm md tb ta) = [0x04E#9 ++ pm ++ md ++ tb ++ ta] ∧
      encode (.andn pm md tb ta) = [0x04F#9 ++ pm ++ md ++ tb ++ ta] ∧
      encode (.not pm md tb ta) = [0x050#9 ++ pm ++ md ++ tb ++ ta] ∧
      encode (.shl pm md tb ta) = [0x051#9 ++ pm ++ md ++ tb ++ ta] ∧
      encode (.shr pm md tb ta) = [0x052#9 ++ pm ++ md ++ tb ++ ta] ∧
      encode (.sar pm md tb ta) = [0x053#9 ++ pm ++ md ++ tb ++ ta] ∧
      encode (.rotl pm md tb ta) = [0x054#9 ++ pm ++ md ++ tb ++ ta] ∧
      encode (.shli pm w64 cnt t) = [0x055#9 ++ pm ++ (0#5 ++ w64 ++ cnt) ++ t] ∧
      encode (.shri pm w64 cnt t) = [0x056#9 ++ pm ++ (0#5 ++ w64 ++ cnt) ++ t] ∧
      encode (.sari pm w64 cnt t) = [0x057#9 ++ pm ++ (0#5 ++ w64 ++ cnt) ++ t] ∧
      encode (.andi pm imm t) = [0x068#9 ++ pm ++ imm ++ t] ∧
      encode (.ori pm imm t) = [0x069#9 ++ pm ++ imm ++ t] ∧
      encode (.xori pm imm t) = [0x06A#9 ++ pm ++ imm ++ t])

/-- R137 and R138. -/
def Obligations.BitFieldsAndCounts : Prop :=
  RowHolds fieldRow ∧
    (∀ (pm : BitVec 2) (md : BitVec 3) (tb ta : BitVec 9),
      encode (.bfx pm md tb ta) = [0x058#9 ++ pm ++ md ++ tb ++ ta] ∧
      encode (.bfi pm md tb ta) = [0x059#9 ++ pm ++ md ++ tb ++ ta] ∧
      encode (.popc pm md tb ta) = [0x05A#9 ++ pm ++ md ++ tb ++ ta] ∧
      encode (.clz pm md tb ta) = [0x05B#9 ++ pm ++ md ++ tb ++ ta] ∧
      encode (.ctz pm md tb ta) = [0x05C#9 ++ pm ++ md ++ tb ++ ta] ∧
      encode (.brev pm md tb ta) = [0x05D#9 ++ pm ++ md ++ tb ++ ta])

/-- R139 to R142. -/
def Obligations.SelectAndCompare : Prop :=
  RowHolds compareRow ∧
    (∀ (pm : BitVec 2) (md : BitVec 3) (tb ta t : BitVec 9) (imm : BitVec 12),
      encode (.cmpeq pm md tb ta) = [0x060#9 ++ pm ++ md ++ tb ++ ta] ∧
      encode (.cmpne pm md tb ta) = [0x061#9 ++ pm ++ md ++ tb ++ ta] ∧
      encode (.cmplt pm md tb ta) = [0x062#9 ++ pm ++ md ++ tb ++ ta] ∧
      encode (.cmple pm md tb ta) = [0x063#9 ++ pm ++ md ++ tb ++ ta] ∧
      encode (.lea pm md tb ta) = [0x066#9 ++ pm ++ md ++ tb ++ ta] ∧
      encode (.sext pm md tb ta) = [0x06B#9 ++ pm ++ md ++ tb ++ ta] ∧
      encode (.zext pm md tb ta) = [0x06C#9 ++ pm ++ md ++ tb ++ ta] ∧
      encode (.cmpeqi pm imm t) = [0x064#9 ++ pm ++ imm ++ t] ∧
      encode (.cmplti pm imm t) = [0x065#9 ++ pm ++ imm ++ t] ∧
      encode (.sel pm tb ta) = [0x05E#9 ++ pm ++ 0#3 ++ tb ++ ta] ∧
      encode (.byteperm pm tb ta) = [0x06D#9 ++ pm ++ 0#3 ++ tb ++ ta])

/-- R148 to R157, the arithmetic against the units of R104 (`RoundsTo`). -/
def Obligations.FloatingPoint : Prop :=
  RowHolds floatRow ∧
  (∀ (o : FOp) (md : BitVec 3) (a b c : Word),
    let m := md.extractLsb' 0 2
    let x (v : Word) : Sys2Proof.Machine.Num := fp32.num (md.getLsbD 2) (v.toNat % 2 ^ 32)
    let y (v : Word) : Sys2Proof.Machine.Num := fp64.num false v.toNat
    RoundsTo fp32 m (md.getLsbD 2) (fOp32 o md a b c).toNat (exactOf fp32 m o (x a) (x b) (x c)) ∧
    RoundsTo fp64 m false (fOp64 o md a b c).toNat (exactOf fp64 m o (y a) (y b) (y c))) ∧
  (∀ (md : BitVec 3) (a b : Word),
    let m := md.extractLsb' 0 2
    match fp32.num (md.getLsbD 2) (a.toNat % 2 ^ 32) with
    | .nan => (fRnd md a).toNat = 0x7FC00000 ∧ (fScale md a b).toNat = 0x7FC00000
    | .inf s => (fRnd md a).toNat = fp32.coded s fp32.top ∧ (fScale md a b).toNat = fp32.coded s fp32.top
    | .of s n =>
      (∃ c, RoundsAt id m s (standsAt 1 n fp32.one) c ∧ (fRnd md a).toNat < 2 ^ 32 ∧ fp32.num false (fRnd md a).toNat = .of s (c * fp32.one)) ∧
      RoundsTo fp32 m (md.getLsbD 2) (fScale md a b).toNat
        (if n = 0 then .zero s else .real s 1 (n * 2 ^ (b.extractLsb' 0 32).toInt.toNat) (2 ^ (-(b.extractLsb' 0 32).toInt).toNat))) ∧
  (∀ f ∈ [fp32, fp64], ∀ (md : BitVec 3) (a b : Nat), md.toNat < 6 →
    let x := f.num false a
    let y := f.num false b
    let known := x ≠ .nan ∧ y ≠ .nan
    (fcmp md (f.dec a) (f.dec b) = true ↔
      (md = 0 ∧ known ∧ ¬x.Less y ∧ ¬y.Less x) ∨ (md = 1 ∧ ¬(known ∧ ¬x.Less y ∧ ¬y.Less x)) ∨ (md = 2 ∧ known ∧ x.Less y) ∨
      (md = 3 ∧ known ∧ ¬y.Less x) ∨ (md = 4 ∧ ¬known) ∨ (md = 5 ∧ known))) ∧
  (∀ (mx ftz : Bool) (a b : Word), PicksOf fp32 mx ftz (a.toNat % 2 ^ 32) (b.toNat % 2 ^ 32) (fp32.minmax mx ftz (a.setWidth 32).toNat (b.setWidth 32).toNat) ∧
    PicksOf fp64 mx false a.toNat b.toNat (fp64.minmax mx false a.toNat b.toNat)) ∧
  (∀ a : Word, (fClass a).toNat = match fp32.num false (a.toNat % 2 ^ 32) with
    | .nan => 256
    | .inf s => if s then 1 else 128
    | .of s n => if n = 0 then (if s then 8 else 16) else if n < 2 ^ 23 then (if s then 4 else 32) else if s then 2 else 64)

/-- R116, R159 and R160, against the units of R104. -/
def Obligations.PackedFloat : Prop :=
  RowHolds packedRow ∧
  (∀ (o : FOp) (md : BitVec 3) (a b c : Word) (h : Nat), h < 2 →
    let m := md.extractLsb' 0 2
    let x (v : Word) : Sys2Proof.Machine.Num := fp32.num (md.getLsbD 2) (half32 v h)
    RoundsTo fp32 m (md.getLsbD 2) (half32 (fOpX2 o md a b c) h) (exactOf fp32 m o (x a) (x b) (x c))) ∧
  (∀ f ∈ [fp16, bf16], ∀ (o : FOp) (md : BitVec 3) (a b c : Word) (i : Nat), i < 4 →
    let m := md.extractLsb' 0 2
    let x (v : Word) : Sys2Proof.Machine.Num := f.num false (v.extractLsb' (16 * i) 16).toNat
    RoundsTo f m false ((fOpX4 f o md a b c).extractLsb' (16 * i) 16).toNat (exactOf f m o (x a) (x b) (x c))) ∧
  (∀ (md : BitVec 3) (a b : Word),
    let m := md.extractLsb' 0 2
    let x (v : Word) (h : Nat) : Sys2Proof.Machine.Num := fp32.num (md.getLsbD 2) (half32 v h)
    RoundsTo fp32 m (md.getLsbD 2) (fDotX2 md a b).toNat (Num.sum (m == 3#2) fp32.one [(x a 0).times (x b 0), (x a 1).times (x b 1)]))

/-- R161 to R167, the conversions, the reciprocal and the root against the units of R104. What the other five functions give where they are
irrational is the model's series (log entry 23): the statement says only what R161 and R162 give of them. -/
def Obligations.ConversionsAndSpecial : Prop :=
  RowHolds convertRow ∧
  (∀ (md : BitVec 3) (a : Word),
    let x := fp32.num false (a.toNat % 2 ^ 32)
    (policyReserved .h md = false → NarrowsTo ⟨5, 10⟩ 0x7BFF 0x7C00 0x7E00 md (ncvt .h md a) x) ∧
    (policyReserved .b md = false → NarrowsTo ⟨8, 7⟩ 0x7F7F 0x7F80 0x7FC0 md (ncvt .b md a) x) ∧
    (policyReserved .e4 md = false → NarrowsTo ⟨4, 3⟩ 0x7E 0 0x7F md (ncvt .e4 md a) x) ∧
    (policyReserved .e5 md = false → NarrowsTo ⟨5, 2⟩ 0x7B 0x7C 0x7E md (ncvt .e5 md a) x) ∧
    (policyReserved .f4 md = false → NarrowsTo ⟨2, 1⟩ 0x7 0 0 md (ncvt .f4 md a) x) ∧
    (policyReserved .sc md = false → NarrowsToScale md (ncvt .sc md a) x) ∧
    (policyReserved .i8 md = false → NarrowsToInt 8 md (ncvt .i8 md a) x) ∧
    (policyReserved .i4 md = false → NarrowsToInt 4 md (ncvt .i4 md a) x)) ∧
  (∀ (md : BitVec 3) (a : Word),
    let m := md.extractLsb' 0 2
    let n := if md.getLsbD 2 then 64 else 32
    let i : Int := if md.getLsbD 2 then a.toNat else a.toInt
    (match fp32.num false (a.toNat % 2 ^ 32) with
      | .nan => (cvtF2i md a).toNat = 0
      | .inf s => (cvtF2i md a).toNat = if s then 2 ^ (n - 1) else 2 ^ (n - 1) - 1
      | .of s k => ∃ c, RoundsAt id m s (standsAt 1 k fp32.one) c ∧
          (cvtF2i md a).toNat = if s then (2 ^ n - min c (2 ^ (n - 1))) % 2 ^ n else min c (2 ^ (n - 1) - 1)) ∧
    RoundsTo fp32 m false (cvtI2f md a).toNat (if i = 0 then .zero false else .real (decide (i < 0)) 1 (i.natAbs * fp32.one) 1)) ∧
  (∀ (md : BitVec 3) (a : Word), ∀ g ∈ [fp32, fp64],
    let f := if md.getLsbD 2 then bf16 else fp16
    Widens g f.one (cvtH g md a).toNat (f.num false (a.extractLsb' (16 * (md.extractLsb' 0 2).toNat) 16).toNat)) ∧
  (∀ (m : BitVec 2) (a : Word),
    Widens fp64 fp32.one (cvtF2d a).toNat (fp32.num false (a.toNat % 2 ^ 32)) ∧
    RoundsTo fp32 m false (cvtD2f (rmOf m) a).toNat (match fp64.num false a.toNat with
      | .nan => .nan
      | .inf s => .inf s
      | .of s n => if n = 0 then .zero s else .real s 1 (n * fp32.one) fp64.one)) ∧
  (∀ (md : BitVec 3) (a b : Word),
    let n := if md = 0 ∨ md = 1 then 16 else if md = 4 ∨ md = 6 then 4 else 8
    let x := elemNum md (a.toNat / 2 ^ (n * (b.toNat % (64 / n))) % 2 ^ n)
    Widens fp32 x.2 (unpack md a b).toNat x.1) ∧
  (∀ (md : BitVec 3) (a : Word), RoundsTo fp32 0 (md.getLsbD 2) (special .rcp md a).toNat
    (exactOf fp32 0 .div (.of false fp32.one) (fp32.num (md.getLsbD 2) (a.toNat % 2 ^ 32)) .nan)) ∧
  (∀ (md : BitVec 3) (a : Word),
    let r (g : SF) : Nat := (special g md a).toNat
    match fp32.num (md.getLsbD 2) (a.toNat % 2 ^ 32) with
    | .nan => ∀ g, r g = 0x7FC00000
    | .inf true => r .rcp = 0x80000000 ∧ r .rsq = 0x7FC00000 ∧ r .exp2 = 0 ∧ r .log2 = 0x7FC00000 ∧ r .sin = 0x7FC00000 ∧ r .cos = 0x7FC00000 ∧ r .tanh = 0xBF800000
    | .inf false => r .rcp = 0 ∧ r .rsq = 0 ∧ r .exp2 = 0x7F800000 ∧ r .log2 = 0x7F800000 ∧ r .sin = 0x7FC00000 ∧ r .cos = 0x7FC00000 ∧ r .tanh = 0x3F800000
    | .of s n =>
      (n = 0 → r .rcp = fp32.coded s fp32.top ∧ r .rsq = fp32.coded s fp32.top ∧ r .exp2 = 0x3F800000 ∧ r .log2 = 0xFF800000 ∧ r .sin = fp32.coded s 0 ∧
        r .cos = 0x3F800000 ∧ r .tanh = fp32.coded s 0) ∧
      (0 < n → s = true → r .rsq = 0x7FC00000 ∧ r .log2 = 0x7FC00000) ∧
      (0 < n → s = false → ∃ k j, 2 ^ 31 ≤ k ∧ k < 2 ^ 32 ∧ k ^ 2 * 4 ^ j * n ≤ 2 ^ 447 ∧ 2 ^ 447 < (k + 1) ^ 2 * 4 ^ j * n ∧
        RoundsTo fp32 0 (md.getLsbD 2) (r .rsq) (.real false 1 (k * 2 ^ j) 1)) ∧
      (∀ i, n = i * fp32.one → (s = false → i ≤ 127 → fp32.num false (r .exp2) = .of false (2 ^ (i + 149))) ∧
        (s = true → i ≤ 126 → fp32.num false (r .exp2) = .of false (2 ^ (149 - i)))) ∧
      (∀ k, n = 2 ^ k → s = false → fp32.num false (r .log2) = .of (decide (k < 149)) ((k - 149 + (149 - k)) * fp32.one)) ∧
      (∃ q t, fp32.num false (r .tanh) = .of q t ∧ t ≤ fp32.one)) ∧
  (∀ (md : BitVec 3) (a b : Word), (∃ s n, fp32.num (md.getLsbD 2) (a.toNat % 2 ^ 32) = .of s n ∧ fp32.num (md.getLsbD 2) (b.toNat % 2 ^ 32) = .of (!s) n) →
    (special .cos md b) = (special .cos md a) ∧ (special .sin md b) = (special .sin md a) ^^^ 0x80000000 ∧ (special .tanh md b) = (special .tanh md a) ^^^ 0x80000000) ∧
  (∀ (md : BitVec 3) (a b : Word) (i : Nat), i < 8 →
    ((pack md a b) >>> (8 * i)).setWidth 8 = if i = md.toNat then b.setWidth 8 else (a >>> (8 * i)).setWidth 8) ∧
  (∀ (md : BitVec 3) (a : Word) (lo hi : Int) (n : Nat),
    (md = 0 ∧ lo = -2 ^ 31 ∧ hi = 2 ^ 31 - 1 ∧ n = 32) ∨ (md = 1 ∧ lo = 0 ∧ hi = 2 ^ 32 - 1 ∧ n = 32) ∨ (md = 2 ∧ lo = -2 ^ 15 ∧ hi = 2 ^ 15 - 1 ∧ n = 16) ∨
      (md = 3 ∧ lo = -2 ^ 7 ∧ hi = 2 ^ 7 - 1 ∧ n = 8) →
    cvtI2i md a = (BitVec.ofInt n (max lo (min hi a.toInt))).setWidth 64)

/-- R17 to R20, R25, R124, R125, R127 and R129. -/
def Obligations.MovesAndConstants : Prop :=
  RowHolds constRow ∧
  (∀ (s : State) (e : Env) (l : Nat),
    let r (n : Nat) : Word := s.sregVal e n l
    r 0x000 = BitVec.ofNat 64 l ∧ (l < 64 → (r 0x001).toNat = 2 ^ l - 1) ∧ r 0x002 = BitVec.ofNat 64 e.w.idx ∧ r 0x003 = BitVec.ofNat 64 e.w.width ∧ r 0x004 = e.f.mask ∧
    r 0x020 = BitVec.ofNat 64 e.w.ctx ∧ r 0x044 = 0x0200 ∧ r 0x045 = e.f.start.drophint ∧
    r 0x042 = (if e.f.start.core ∈ s.fuses.noMezz then 0x200000 else 0x400000) ∧
    (r 0x043).getLsbD 4 = decide (e.f.start.core ∉ s.fuses.noPair) ∧ (r 0x043).getLsbD 1 = decide (e.f.start.core ∉ s.fuses.noMezz) ∧
    (r 0x043).getLsbD 0 = s.fuses.mmani4 ∧ (r 0x043).getLsbD 2 = false ∧ (r 0x043).getLsbD 3 = false ∧ (r 0x043).toNat < 32 ∧
    (mget e.f.samples e.slot = none → r 0x040 = s.clock (s.coreOf e.w) ∧ r 0x041 = BitVec.ofNat 64 s.time) ∧
    (∀ t, mget e.f.samples e.slot = some t → r 0x040 = t.val ∧ r 0x041 = t.val) ∧
    (∀ k, k < 16 → r (0x0C0 + k) = mgetD e.f.start.hregs (k * 64 + l) 0)) ∧
  (∀ (s : State) (e : Env) (l : Nat) (g : Wg) (gg : Gang) (gr : Grid), mget s.wgs e.w.wg = some g → mget s.gangs g.gang = some gg → mget s.grids g.gid = some gr →
    let r (n : Nat) : Word := s.sregVal e n l
    let n64 (n : Nat) : Word := BitVec.ofNat 64 n
    let core := e.f.start.core
    (0 < gr.lr.gx → 0 < gr.lr.gy → g.num < gr.lr.gx * gr.lr.gy * gr.lr.gz → g.num < 2 ^ 64 →
      (r 0x008).toNat + gr.lr.gx * ((r 0x009).toNat + gr.lr.gy * (r 0x00A).toNat) = g.num ∧ (r 0x008).toNat < gr.lr.gx ∧ (r 0x009).toNat < gr.lr.gy) ∧
    r 0x005 = n64 (if gr.lr.width = 64 then gr.lr.warps / 2 else if gr.lr.width = 16 then 2 * gr.lr.warps else gr.lr.warps) ∧
    r 0x00C = n64 gr.lr.gx ∧ r 0x00D = n64 gr.lr.gy ∧ r 0x00E = n64 gr.lr.gz ∧ r 0x010 = n64 g.rank ∧ r 0x011 = n64 gr.lr.gang ∧
    ((∀ i, gr.kind ≠ .slice i) → r 0x012 = n64 gg.num) ∧ r 0x014 = n64 gg.hallIx ∧ r 0x015 = n64 gr.lr.halls ∧
    (core < 832 → (r 0x016).toNat = core / 104 ∧ (r 0x017).toNat = core % 104 / 8 ∧ (r 0x018).toNat = core % 8 ∧ (r 0x019).toNat = core) ∧
    r 0x021 = n64 gr.seq ∧ r 0x022 = n64 gr.lr.prio ∧ r 0x023 = n64 g.size ∧ r 0x024 = n64 g.tiles ∧ r 0x025 = n64 (65536 * gr.lr.hstore)) ∧
  (∀ (s : State) (e : Env) (l : Nat),
    let r (n : Nat) : Word := s.sregVal e n l
    let win := e.lv.win
    (e.w.depth = 0 → r 0x084 = 0xFF ∧ ∀ n, 0x080 ≤ n → n < 0x0C0 → n ≠ 0x084 → r n = 0) ∧
    (0 < e.w.depth → r 0x080 = mgetD win.a l 0 ∧ r 0x081 = mgetD win.b l 0 ∧ r 0x082 = mgetD win.c l 0 ∧ r 0x083 = mgetD win.p l 0 ∧ r 0x085 = win.mask ∧
      r 0x086 = win.insn.setWidth 64 ∧ r 0x087 = win.lit ∧ r 0x088 = BitVec.ofNat 64 win.slot ∧ r 0x089 = win.cause.setWidth 64 ∧ r 0x08A = BitVec.ofNat 64 win.depth ∧
      r 0x08B = win.block ∧ r 0x08C = win.info ∧ r 0x090 = mgetD win.d0 l 0 ∧ r 0x091 = mgetD win.d1 l 0 ∧ r 0x092 = mgetD win.dkind l 0 ∧
      r 0x084 = if e.lv.kind = .emu then mgetD win.kind l 0xFF else 0))

/-- R130 and R168 to R177: what the slots record in the frame; the commit acts on it. -/
def Obligations.BranchesAndSinks : Prop := RowHolds sinkRow

/-- The second test of R75's firing stage, for the instructions of the tables. -/
def Obligations.ReservedVectors : Prop :=
  RowVectors arithRow ∧ RowVectors logicRow ∧ RowVectors fieldRow ∧ RowVectors compareRow ∧ RowVectors floatRow ∧ RowVectors packedRow ∧
    RowVectors convertRow ∧ RowVectors constRow ∧ RowVectors sinkRow

/-- The frame of every class L instruction that acts within its block (R88: registers and memory change at commit). -/
def Obligations.ClassLFrame : Prop :=
  ∀ i s e t, (arithRow i).isSome ∨ (logicRow i).isSome ∨ (fieldRow i).isSome ∨ (compareRow i).isSome ∨ (floatRow i).isSome ∨ (packedRow i).isSome ∨
      (convertRow i).isSome ∨ (constRow i).isSome ∨ (sinkRow i).isSome →
    At s e → s.hbmq = [] → (∀ r, (arithRow i = some r ∨ logicRow i = some r ∨ fieldRow i = some r ∨ compareRow i = some r ∨ floatRow i = some r ∨
      packedRow i = some r ∨ convertRow i = some r ∨ constRow i = some r ∨ sinkRow i = some r) → r.pm ≠ 3#2 ∧ r.bad e = false) →
    exec i s = .next t →
    (∀ wid, wid ≠ e.wid → t.warp wid = s.warp wid) ∧
    (∃ w, t.warp e.wid = some w ∧ w.regs = e.w.regs ∧ w.hregs = e.w.hregs ∧ w.mode = e.w.mode ∧ w.levels.tail = e.w.levels.tail ∧
      (∀ lv, w.levels.head? = some lv → lv.pc = e.lv.pc ∧ lv.rcd = e.lv.rcd ∧ lv.win = e.lv.win ∧ lv.div = e.lv.div)) ∧
    (∀ a, memGet t.mem a = memGet s.mem a) ∧ (∀ a n key, t.galBytes a n key = s.galBytes a n key) ∧ t.halls = s.halls ∧ t.cores = s.cores ∧
    t.wgs = s.wgs ∧ t.ctxs = s.ctxs ∧ t.domain = s.domain ∧ t.xlinv = s.xlinv ∧ t.ctxsw = s.ctxsw ∧ t.mb = s.mb

namespace Sys2Proof.Claims
open Sys2Proof.Machine

/-! ## Tables of lane operations -/

/-- One row of a table of lane operations: predicate mode, operands, targets, when the encoding is reserved, and the token that a
participant receives, from the participants' lanes in rising order and its own lane. -/
structure XRow where
  pm : BitVec 2
  nops : Nat
  ts : List (BitVec 9)
  bad : Bool
  tok : Env → List Nat → Nat → Tok

/-- The participants (R143): the active lanes in which the slot fires. -/
def participants (e : Env) (pm : BitVec 2) (nops : Nat) : List Nat := (lanesOf e.f.mask).filter (fun l => decide (e.f.laneGo e.slot nops pm l = .fire))
/-- Operand a of a participant, and the values among them, each with its lane. -/
def opA (e : Env) (l : Nat) : Tok := (e.f.tok 0 e.slot l).getD .null
def valuesOf (e : Env) (ps : List Nat) : List (Nat × Word) := ps.filterMap (fun l => match opA e l with
  | .value v => some (l, v)
  | _ => none)
/-- The poison of the lowest participant that holds one. -/
def lowestPoison (e : Env) (ps : List Nat) : Option Tok := (ps.map (opA e)).find? Tok.isPoison
/-- What a participant of `VOTE` or `REDX` receives: null for its own null, else the lowest poison, else the value (R145, R146). -/
def combined (e : Env) (ps : List Nat) (l : Nat) (v : Word) : Tok :=
  if opA e l = .null then .null else (lowestPoison e ps).getD (.value v)
/-- The lane that `SHFL` reads, none where it lies outside the warp (R144). -/
def shuffled (md : BitVec 3) (width l b : Nat) : Option Nat :=
  if md = 0 then (if b < width then some b else none)
  else if md = 1 then (if b ≤ l then some (l - b) else none)
  else if md = 2 then (if l + b < width then some (l + b) else none)
  else (if (l ^^^ b) < width then some (l ^^^ b) else none)

/-- What a participant of `SHFL` receives: the kind of its operand b where that is no value, else operand a of the source (R144). -/
def shuffleTok (md : BitVec 3) (e : Env) (ps : List Nat) (l : Nat) : Tok :=
  match e.f.tok 1 e.slot l with
  | some (.value b) => (match shuffled md e.w.width l b.toNat with
    | some x => if x ∈ ps then opA e x else opA e l
    | none => opA e l)
  | some k => k
  | none => .null

/-- What a participant of `SCANX` receives (R146). -/
def scanned (md : BitVec 3) (e : Env) (ps : List Nat) (l : Nat) : Tok :=
  if opA e l = .null then .null
  else match ps.find? (fun j => (opA e j).isPoison) with
    | some j => if j ≤ l then opA e j else .value (reduceTo md e.w.width (valuesOf e ps) l)
    | none => .value (reduceTo md e.w.width (valuesOf e ps) l)

/-- The lanes whose value is true, and what `VOTE` makes of the values (R145). -/
def trueLanes (vs : List (Nat × Word)) : Lanes := (vs.filter (fun p => p.2.getLsbD 0)).foldl (fun m p => m ||| 1#64 <<< p.1) 0
def voted (md : BitVec 3) (vs : List (Nat × Word)) : Word :=
  if md = 0 then (if ∃ p ∈ vs, p.2.getLsbD 0 = true then 1 else 0)
  else if md = 1 then (if ∀ p ∈ vs, p.2.getLsbD 0 = true then 1 else 0)
  else if md = 2 then trueLanes vs
  else BitVec.ofNat 64 (laneCount (trueLanes vs))

/-- The lane operations (R144 to R147); the trees of `REDX` and `SCANX` are those of R117. -/
def laneRow : Instr → Option XRow
  | .shfl pm md tb ta => some { pm := pm, nops := 2, ts := [ta, tb], bad := md.getLsbD 2, tok := shuffleTok md }
  | .vote pm md tb ta => some { pm := pm, nops := 1, ts := [ta, tb], bad := md.getLsbD 2, tok := fun e ps l => combined e ps l (voted md (valuesOf e ps)) }
  | .redx pm md tb ta => some { pm := pm, nops := 1, ts := [ta, tb], bad := decide (6 ≤ md.toNat), tok := fun e ps l => combined e ps l (reduceTo md e.w.width (valuesOf e ps) 63) }
  | .scanx pm md tb ta => some { pm := pm, nops := 1, ts := [ta, tb], bad := decide (6 ≤ md.toNat), tok := scanned md }
  | .elect pm tb ta => some { pm := pm, nops := 0, ts := [ta, tb], bad := false, tok := fun _ ps l => .value (if ps.head? = some l then 1 else 0) }
  | _ => none

end Sys2Proof.Claims

/-! ## Lane operations, picks and yields -/

namespace Sys2Proof.Claims
open Sys2Proof.Machine

/-- The pairwise tree of R117 over 2^n positions, from the root down: the trees of its halves, combined where both have a value. -/
def halves (k : Word → Word → Word) : Nat → List (Option Word) → Option Word
  | 0, l => l.head?.join
  | n + 1, l => match halves k n (l.take (2 ^ n)), halves k n (l.drop (2 ^ n)) with
    | some p, some q => some (k p q)
    | some p, none => some p
    | none, x => x
/-- The combining operations of `REDX` and `SCANX` (R146); what the FP32 sum is, FloatingPoint says. -/
def combining (md : BitVec 3) (p q : Word) : Word :=
  match md with
  | 0#3 => (p.setWidth 32 + q.setWidth 32).setWidth 64
  | 1#3 => fOp32 .add 0 p q 0
  | 2#3 => if q.toInt < p.toInt then q else p
  | 3#3 => if p.toInt < q.toInt then q else p
  | 4#3 => p &&& q
  | _ => p ||| q
/-- How a root is delivered: the sums in 32 bits, every FP32 NaN as the canonical one (R117). -/
def rootOf (md : BitVec 3) (v : Word) : Word :=
  match md with
  | 0#3 => (v.setWidth 32).setWidth 64
  | 1#3 => if fp32.num false (v.toNat % 2 ^ 32) = .nan then 0x7FC00000 else (v.setWidth 32).setWidth 64
  | _ => v

end Sys2Proof.Claims

/-- R143 to R147. -/
def Obligations.LaneOperations : Prop :=
  (∀ i r s e, laneRow i = some r → At s e → r.pm ≠ 3#2 → r.bad = false →
    ((∀ l ∈ lanesOf e.f.mask, e.f.doneIn e.slot l = true ∨ e.Whole r.pm r.nops l) →
      ∃ f, exec i s = .next (close s (s.dispatch e f)) ∧ e.f.Apart f e.slot r.ts ∧ e.f.Gains f [] [] [] [] ∧
        ∀ l ∈ lanesOf e.f.mask, f.doneIn e.slot l = true ∧ (e.f.doneIn e.slot l = false → match e.f.laneGo e.slot r.nops r.pm l with
          | .fire => f.Holds r.ts l (r.tok e (participants e r.pm r.nops) l)
          | .off => f.Holds r.ts l .null
          | .pois k => f.Holds r.ts l k
          | .wait => False)) ∧
    ((∃ l ∈ lanesOf e.f.mask, e.f.doneIn e.slot l = false ∧ ¬e.Whole r.pm r.nops l) → exec i s = .next (close s s))) ∧
  (∀ (md : BitVec 3) (n upto : Nat) (cs : NMap Word), n ≤ 6 →
    reduceTo md (2 ^ n) cs upto = rootOf md ((halves (combining md) n ((List.range (2 ^ n)).map (fun i => if i ≤ upto then mget cs i else none))).getD 0))

/-- R128 and R175. -/
def Obligations.PicksAndYields : Prop :=
  (∀ pm tb ta s e, At s e → pm ≠ 3#2 → ∃ f, exec (.pick pm tb ta) s = .next (close s (s.dispatch e f)) ∧ e.f.Apart f e.slot [ta, tb] ∧ e.f.Gains f [] [] [] [] ∧
    ∀ l ∈ lanesOf e.f.mask, e.f.laneGo e.slot 2 pm l = .fire → f.doneIn e.slot l = true ∧
      ∀ a b, e.f.tok 0 e.slot l = some a → e.f.tok 1 e.slot l = some b → f.Holds [ta, tb] l (if a = .null then b else a)) ∧
  (∀ pm s e, At s e → pm ≠ 3#2 → ∃ f, exec (.yield pm) s = .next (close s (s.dispatch e f)) ∧ f.toks = e.f.toks ∧ f.blk = e.f.blk ∧
    f.mask = e.f.mask ∧ f.sinks = e.f.sinks ∧ e.f.Gains f [] [] [] [] ∧
    (f.yielded = true ↔ e.f.yielded = true ∨ ∃ l ∈ lanesOf e.f.mask, e.f.laneGo e.slot 0 pm l = .fire) ∧
    ∀ l ∈ lanesOf e.f.mask, e.f.laneGo e.slot 0 pm l ≠ .wait → f.doneIn e.slot l = true)

/-! ## Exceptions: the emulation handler, the trap handler and the fault queue -/

/-- R75, R158, R268 to R272; that an unassigned code fires as a class L slot is the model's reading (log entry 24), and the entry is stated for a slot
that fires in every active lane. -/
def Obligations.EmulationEntry : Prop :=
  (∀ pm (md : BitVec 3) tb ta s e, At s e → pm ≠ 3#2 → md.getLsbD 2 = false →
    exec (.ddiv pm md tb ta) s = .next (close s (s.vectorL e pm 2 [ta, tb] false 0x04)) ∧
    exec (.dsqrt pm md tb ta) s = .next (close s (s.vectorL e pm 1 [ta, tb] false 0x04))) ∧
  (∀ (s : State) (e : Env) (wid slot : Nat), s.powered = true → s.envAt wid slot = some e → slot ∉ e.f.blk.litSlots →
    decodeWord (e.f.word slot) (e.f.word (slot + 1)) (e.f.word (slot + 2)) = .error .unassigned →
    exec (.emuVector wid slot) s = .next (close s (s.vectorP e (fPm (e.f.word slot)) (e.f.blk.targetedPorts slot) (targetsOf (e.f.word slot)) false 0x03))) ∧
  (∀ (s : State) (e : Env) (pm : BitVec 2) (nops : Nat) (ts : List (BitVec 9)) (snk : Bool) (cause : BitVec 8) (c : Ctx) (entry : Nat), At s e → e.f.mask ≠ 0 →
    (∀ l ∈ lanesOf e.f.mask, e.f.laneGo e.slot nops pm l = .fire ∧ e.lv.recorded e.slot l = none) → e.w.depth < 2 →
    mget s.ctxs e.w.ctx = some c → c.cfg.emu = some entry →
    ∃ w lv lo f, (s.vectorL e pm nops ts snk cause).warp e.wid = some w ∧ w.levels.head? = some lv ∧ w.levels.tail.head? = some lo ∧
      w.levels.length = e.w.levels.length + 1 ∧ w.regs = e.w.regs ∧ w.hregs = e.w.hregs ∧ w.mode = e.w.mode ∧ w.modeNow = .handler ∧
      lv.kind = .emu ∧ lv.pc = BitVec.ofNat 64 entry ∧ lv.mask = e.f.mask ∧ lv.frame = none ∧
      lv.win.slot = e.slot ∧ lv.win.cause = cause ∧ lv.win.block = e.f.blk.addr ∧ lv.win.insn = e.f.word e.slot ∧ lv.win.mask = e.f.mask ∧
      lv.win.depth = e.w.depth + 1 ∧
      (∀ l ∈ lanesOf e.f.mask, ∀ v, 0 < nops → e.f.kindCode 0 e.slot (((opRow (fOp (e.f.word e.slot)).toNat).map (·.nops)).getD 3) l (if fmtOf (e.f.word e.slot) = .K then 0#2 else fPm (e.f.word e.slot)) ≠ 3 →
        e.f.tok 0 e.slot l = some (.value v) → mgetD lv.win.a l 0 = v) ∧
      lo.frame = some f ∧ f.vec = some { slot := e.slot, cause := cause, mask := e.f.mask, drain := false } ∧ f.toks = e.f.toks ∧
      (s.vectorL e pm nops ts snk cause).wgs = s.wgs ∧ (s.vectorL e pm nops ts snk cause).gal = s.gal ∧ (s.vectorL e pm nops ts snk cause).hbmq = s.hbmq)

/-- R100, R101 and R281. -/
def Obligations.TrapEntry : Prop :=
  (∀ (s : State) (wid : Nat) (cause : BitVec 8) (slot lane : Nat) (info block : Word) (mask : Lanes),
    (sinkToFaultQueue cause = true ↔ cause = 0x10 ∨ cause = 0x11) ∧
    s.takeTrap wid true cause slot lane info block mask = s.park wid cause slot lane info block ∧
    s.takeTrap wid false cause slot lane info block mask = s.enterTrap wid cause slot lane info block mask) ∧
  ∀ (s : State) (wid : Nat) (cause : BitVec 8) (slot lane : Nat) (info block : Word) (mask : Lanes) (w : Warp) (lv : Level) (c : Ctx), s.warp wid = some w → w.levels.head? = some lv → s.sliceOf w.wg = none → mget s.ctxs w.ctx = some c →
    (∀ entry, c.cfg.trap = some entry → lv.kind ≠ .trap → w.depth < 2 →
      ∃ w1 h lo, (s.enterTrap wid cause slot lane info block mask).warp wid = some w1 ∧ w1.levels.head? = some h ∧ w1.levels.tail.head? = some lo ∧
        w1.levels.length = w.levels.length + 1 ∧ h.kind = .trap ∧ h.pc = BitVec.ofNat 64 entry ∧ h.mask = mask ∧ h.frame = none ∧ h.win.cause = cause ∧
        h.win.slot = slot ∧ h.win.block = block ∧ h.win.info = info ∧ h.win.mask = mask ∧ h.win.depth = w.depth + 1 ∧ lo.frame = none ∧ lo.pc = lv.pc ∧
        lo.rcd = lv.rcd ∧ w1.regs = w.regs ∧ w1.hregs = w.hregs ∧ w1.mode = w.mode ∧ (s.enterTrap wid cause slot lane info block mask).wgs = s.wgs ∧
        (s.enterTrap wid cause slot lane info block mask).gal = s.gal) ∧
    (c.stopped = false → c.cfg.trap = none ∨ lv.kind = .trap ∨ 2 ≤ w.depth →
      (∃ c1, mget (s.enterTrap wid cause slot lane info block mask).ctxs w.ctx = some c1 ∧ c1.stopped = true) ∧
      ∀ p ∈ (s.enterTrap wid cause slot lane info block mask).warps, p.2.ctx ≠ w.ctx)

/-- R100 and R336; a handle is the next of the numbers that the model counts (log entry 3). -/
def Obligations.FaultQueuePark : Prop :=
  ∀ (s : State) (wid : Nat) (cause : BitVec 8) (slot lane : Nat) (info block : Word) (w : Warp) (lv : Level) (c : Ctx), s.warp wid = some w → w.levels.head? = some lv → mget s.ctxs w.ctx = some c →
    (∃ w1 lo, (s.park wid cause slot lane info block).warp wid = some w1 ∧ w1.stat = .parked (BitVec.ofNat 64 s.nextId) ∧ w1.levels.head? = some lo ∧
      w1.levels.tail = w.levels.tail ∧ lo.frame = none ∧ lo.pc = lv.pc ∧ lo.mask = lv.mask ∧ lo.rcd = lv.rcd ∧ w1.regs = w.regs ∧ w1.mode = w.mode) ∧
    (s.park wid cause slot lane info block).nextId = s.nextId + 1 ∧
    (s.ringRoom c = false → ∃ r, (s.park wid cause slot lane info block).frecs = s.frecs ++ [r] ∧ r.ctx = w.ctx ∧ fld r.w0 63 60 = 0 ∧
      fld r.w0 55 48 = cause.toNat ∧ fld r.w0 47 42 = w.ctx % 64 ∧ r.info = info ∧ r.block = block ∧ r.handle = BitVec.ofNat 64 s.nextId)

/-- R176, R276 and R101. -/
def Obligations.HandlerReturn : Prop :=
  (∀ (s : State) (wid : Nat) (w : Warp) (lv lo : Level) (rest : List Level) (f : Frame) (v : Vec), s.warp wid = some w → w.levels = lv :: lo :: rest → lv.kind = .emu → lo.frame = some f → f.vec = some v →
    absentLanes lv.win v (targetsOf (f.word v.slot)) = [] → f.sinks.all (fun x => !x.stale) = true →
    ∃ w1 lo1 f1, (s.levelReturn wid).warp wid = some w1 ∧ w1.levels = lo1 :: rest ∧ lo1.frame = some f1 ∧ f1.vec = none ∧ f1.blk = f.blk ∧ f1.mask = f.mask ∧
      lo1.pc = lo.pc ∧ w1.regs = w.regs ∧ ∀ l ∈ lanesOf v.mask, f1.doneIn v.slot l = true ∧
        ∀ tg ts k q, targetsOf (f.word v.slot) = tg :: ts → (∀ t2 ∈ ts, t2 = 0x1FF#9) → lv.win.inj0 l = some k → tgtPort tg = some q → f1.tok q.1 q.2 l = some k) ∧
  (∀ (s : State) (wid : Nat) (w : Warp) (lv lo : Level) (rest : List Level), s.warp wid = some w → w.levels = lv :: lo :: rest → lv.kind = .trap →
    ∃ w1 lo1, (s.levelReturn wid).warp wid = some w1 ∧ w1.levels = lo1 :: rest ∧ lo1.pc = lo.pc ∧ lo1.mask = lo.mask ∧ lo1.frame = lo.frame ∧ lo1.rcd = lo.rcd ∧
      w1.regs = w.regs ∧ w1.mode = w.mode)

namespace Sys2Proof.Claims
open Sys2Proof.Machine

/-! ## Tables of memory accesses -/

/-- One row of a table of loads (R193, R195): size code, form, bytes, unit of the offset and of alignment, and whether the load waits for
the lane's earlier reads. -/
structure LoadRow where
  pm : BitVec 2
  bad : Bool
  mos : Nat
  md : BitVec 3
  form : Form
  n : Nat
  unit : Nat
  off : Int
  t : BitVec 9
  ordered : Bool

/-- Bytes of a size code, and the unit of its alignment (R66). -/
def bytesOf (md : BitVec 3) : Nat := if md = 0 ∨ md = 1 then 1 else if md = 2 ∨ md = 3 then 2 else if md = 4 ∨ md = 5 then 4 else 8
def unitOf (md : BitVec 3) : Nat := if md = 7 then 4 else bytesOf md

def loadRow : Instr → Option LoadRow
  | .ld pm mos md off t => some ⟨pm, false, mos.toNat, md, .glob, bytesOf md, unitOf md, off.toInt, t, false⟩
  | .ldO pm mos md off t => some ⟨pm, false, mos.toNat, md, .glob, bytesOf md, unitOf md, off.toInt, t, true⟩
  | .lda32 pm mos md off t => some ⟨pm, decide (md = 0 ∨ md = 7), mos.toNat, 4, .glob, 4, 4, off.toInt, t, false⟩
  | .lda64 pm mos md off t => some ⟨pm, decide (md = 0 ∨ md = 7), mos.toNat, 6, .glob, 8, 8, off.toInt, t, false⟩
  | .lds pm mos md off t => some ⟨pm, false, mos.toNat, md, .scr, bytesOf md, unitOf md, off.toInt, t, false⟩
  | .ldc pm mos md off t => some ⟨pm, false, mos.toNat, md, .win, bytesOf md, unitOf md, off.toInt, t, false⟩
  | .ldt pm mos md off t => some ⟨pm, decide (¬(md = 4 ∨ md = 5 ∨ md = 6)), mos.toNat, md, .tile, bytesOf md, unitOf md, off.toInt, t, false⟩
  | _ => none

/-- The value of a load: its bytes, sign-extended for the size codes 1, 3 and 5 (R66, R193). -/
def loaded (md : BitVec 3) (v : Nat) : Word :=
  if md = 1 then (BitVec.ofNat 8 v).signExtend 64 else if md = 3 then (BitVec.ofNat 16 v).signExtend 64
  else if md = 5 then (BitVec.ofNat 32 v).signExtend 64 else BitVec.ofNat 64 v

/-- The orders that a load in a lane waits for hold (R85, R195, R256, R258, R396). -/
abbrev loadFree (r : LoadRow) (s : State) (e : Env) (l : Nat) (a : Word) : Prop :=
  loadOk r.mos r.n r.unit r.form r.off r.ordered e (s.dispatched e) l a 0 0 = true

/-- One row of a table of stores (R196, R197, R200). -/
structure StoreRow where
  pm : BitVec 2
  bad : Bool
  mos : Nat
  kind : SinkKind
  form : Form
  n : Nat
  unit : Nat
  off : Int

def storeRow : Instr → Option StoreRow
  | .st pm mos md off => some ⟨pm, decide (md = 1 ∨ md = 3 ∨ md = 5), mos.toNat, .store, .glob, bytesOf md, unitOf md, off.toInt⟩
  | .sts pm mos md off => some ⟨pm, decide (md = 1 ∨ md = 3 ∨ md = 5), mos.toNat, .store, .scr, bytesOf md, unitOf md, off.toInt⟩
  | .stc pm mos md off => some ⟨pm, decide (md = 1 ∨ md = 3 ∨ md = 5), mos.toNat, .store, .win, bytesOf md, unitOf md, off.toInt⟩
  | .stt pm mos md off => some ⟨pm, decide (¬(md = 4 ∨ md = 6)), mos.toNat, .store, .tile, bytesOf md, unitOf md, off.toInt⟩
  | .strel32 pm mos md off => some ⟨pm, decide (md = 0 ∨ md = 7), mos.toNat, .strel md.toNat, .glob, 4, 4, off.toInt⟩
  | .strel64 pm mos md off => some ⟨pm, decide (md = 0 ∨ md = 7), mos.toNat, .strel md.toNat, .glob, 8, 8, off.toInt⟩
  | .stsFe pm mos off => some ⟨pm, false, mos.toNat, .storeFE, .scr, 8, 8, off.toInt⟩
  | _ => none

/-- The orders that a store in a lane waits for hold (R396). -/
abbrev storeFree (r : StoreRow) (s : State) (e : Env) (l : Nat) (a : Word) : Prop :=
  storeOk r.mos r.n r.unit r.form r.off e (s.dispatched e) l a 0 0 = true

/-- One row of a table of atomics (R202 to R205). -/
structure AtomRow where
  pm : BitVec 2
  bad : Bool
  nops : Nat
  mos : Nat
  form : Form
  n : Nat
  off : Int
  ts : List (BitVec 9)
  aop : BitVec 3
  w64 : Bool
  cas : Bool
  f32 : Bool
  red : Bool

def atomRow : Instr → Option AtomRow
  | .atom32 pm mos md off t => some ⟨pm, decide (md = 7), 2, mos.toNat, .glob, 4, off.toInt, [t], md, false, false, false, false⟩
  | .atom64 pm mos md off t => some ⟨pm, decide (md = 7), 2, mos.toNat, .glob, 8, off.toInt, [t], md, true, false, false, false⟩
  | .atomf pm mos off t => some ⟨pm, false, 2, mos.toNat, .glob, 4, off.toInt, [t], 0, false, false, true, false⟩
  | .cas32 pm mos off t => some ⟨pm, false, 3, mos.toNat, .glob, 4, off.toInt, [t], 0, false, true, false, false⟩
  | .cas64 pm mos off t => some ⟨pm, false, 3, mos.toNat, .glob, 8, off.toInt, [t], 0, true, true, false, false⟩
  | .atoms pm mos md off t => some ⟨pm, decide (md = 7), 2, mos.toNat, .scr, 4, off.toInt, [t], md, false, false, false, false⟩
  | .red32 pm mos md off => some ⟨pm, decide (6 ≤ md.toNat), 2, mos.toNat, .glob, 4, off.toInt, [], md, false, false, false, true⟩
  | _ => none

/-- The orders that an atomic in a lane waits for hold (R85, R202, R258, R396). -/
abbrev atomFree (r : AtomRow) (s : State) (e : Env) (l : Nat) (a : Word) : Prop :=
  atomOk r.mos r.n r.nops r.pm r.form r.off e (s.dispatched e) l a 0 0 = true

/-- Checks 1 and 2 of R190: the cause with which an address fails them: that of its space where the address lies outside, then ALIGNMENT, then that of
the space where its bytes run beyond it. -/
def checkCause (s : State) (e : Env) (form : Form) (ea : Word) (n unit : Nat) : Option (BitVec 8) :=
  match s.locate e.w e.lv form ea 1 with
  | .error c => some c
  | .ok _ => if ea.toNat % unit = 0 then (match s.locate e.w e.lv form ea n with
    | .error c => some c
    | .ok _ => none) else some 0x16

/-- The new value of an integer atomic on N-bit values (R203): add, min, max, and, or, xor, exchange. -/
def atomInt (aop : BitVec 3) (n : Nat) (p q : BitVec n) : BitVec n :=
  if aop = 0 then p + q else if aop = 1 then (if q.slt p then q else p) else if aop = 2 then (if p.slt q then q else p)
  else if aop = 3 then p &&& q else if aop = 4 then p ||| q else if aop = 5 then p ^^^ q else q
/-- The new value of a row's operation (R203, R204). -/
def AtomRow.new (r : AtomRow) (old b c : Nat) : Nat :=
  if r.cas then (if r.w64 then (if BitVec.ofNat 64 old = BitVec.ofNat 64 b then c % 2 ^ 64 else old) else (if BitVec.ofNat 32 old = BitVec.ofNat 32 b then c % 2 ^ 32 else old))
  else if r.f32 then fp32.rnd (sumFV .rne [fp32.dec (old % 2 ^ 32), fp32.dec (b % 2 ^ 32)]) .rne false
  else if r.w64 then (atomInt r.aop 64 (BitVec.ofNat 64 old) (BitVec.ofNat 64 b)).toNat else (atomInt r.aop 32 (BitVec.ofNat 32 old) (BitVec.ofNat 32 b)).toNat

/-- What a slot that acts on memory leaves alone while it fires: memory of every kind, and its own warp but for the frame. -/
def MemoryKept (s t : State) (e : Env) : Prop :=
  t.mem = s.mem ∧ t.gal = s.gal ∧ t.wgs = s.wgs ∧ t.halls = s.halls ∧ t.ctxs = s.ctxs ∧ (∀ wid, wid ≠ e.wid → t.warp wid = s.warp wid) ∧
    ∃ w, t.warp e.wid = some w ∧ w.regs = e.w.regs ∧ w.hregs = e.w.hregs ∧ w.mode = e.w.mode

/-- A buffered sink of a lane (R85). -/
def sinkOf (slot l mos : Nat) (kind : SinkKind) (sp : Space) (addr size : Nat) (data : Word) (xl : List Xlat) : Sink :=
  { slot := slot, lane := l, mos := mos, kind := kind, space := sp, addr := addr, size := size, data := data, xl := xl, stale := false, lost := 0 }

/-- A new access of a lane of the slot. -/
def accessOf (e : Env) (l mos : Nat) (kind : AKind) (scope va size : Nat) (b c : Word) : Access :=
  { wid := e.wid, fid := e.f.fid, slot := e.slot, lane := l, mos := mos, kind := kind, scope := scope, va := va, size := size, b := b, c := c,
    xl := [], stat := .walk 0, seen := 0 }

end Sys2Proof.Claims

/-! ## Loads and stores -/

/-- R193 and R195, in the spaces without pages; that a line may be read ahead of its block is R263's freedom as the model gives it (log entry 38). -/
def Obligations.LocalLoads : Prop :=
  ∀ i r s e l a sp x, loadRow i = some r → AtInstr s e i → r.bad = false → s.hbmq = [] → e.Only r.pm 1 l a 0 0 → loadFree r s e l a →
    s.reach e.w e.lv r.form (eaOf a r.off r.unit) r.n r.unit = .ok (sp, x) → sp ≠ .global → e.f.storesBelow r.mos l sp = [] →
    ∀ v, (match s.readAhead e.wid e.f.fid e.slot sp x r.n (max (e.f.dep 0 e.slot l) (e.w.floor.getD 0)) with
      | some b => v = lineBytes b (x % 128) r.n
      | none => s.spaceRead e.w sp x r.n = (v, false)) →
    ∃ t f, exec i s = .next t ∧ t.frameAfter e = some f ∧ f.doneIn e.slot l = true ∧ f.Holds [r.t] l (.value (loaded r.md v)) ∧
      f.sinks = e.f.sinks ∧ f.bouts = e.f.bouts ∧ f.blk = e.f.blk ∧ f.mask = e.f.mask ∧ MemoryKept s t e ∧ t.accs = s.accs

/-- R190: what fires in a lane becomes one access to global memory. -/
def Obligations.GlobalAccessesBegin : Prop :=
  (∀ i r s e l a x, loadRow i = some r → At s e → r.bad = false → e.Only r.pm 1 l a 0 0 → loadFree r s e l a →
    s.reach e.w e.lv r.form (eaOf a r.off r.unit) r.n r.unit = .ok (.global, x) →
    exec i s = .next (close s ((s.firedIn e l).begin (accessOf e l r.mos (.load r.md) (e.f.acqScope e.slot) x r.n 0 0)))) ∧
  (∀ i r s e l a b x, storeRow i = some r → At s e → r.bad = false → e.Only r.pm 2 l a b 0 → storeFree r s e l a →
    s.reach e.w e.lv r.form (eaOf a r.off r.unit) r.n r.unit = .ok (.global, x) →
    exec i s = .next (close s ((s.firedIn e l).begin (accessOf e l r.mos (.store r.kind) 0 x r.n b 0)))) ∧
  (∀ i r s e l a b c x, atomRow i = some r → At s e → r.bad = false → e.Only r.pm r.nops l a b c → e.f.opVal 2 e.slot l = c →
    atomFree r s e l a → e.lv.recorded e.slot l = none → s.sliceOf e.w.wg = none →
    s.reach e.w e.lv r.form (eaOf a r.off r.n) r.n r.n = .ok (.global, x) →
    exec i s = .next (close s ((s.firedIn e l).begin (accessOf e l r.mos (.atomic r.aop r.w64 r.cas r.f32 r.red) (e.f.acqScope e.slot) x r.n b c))))

/-- R85: buffered sinks. The address stored to is `reach` of `eaOf a off unit`. -/
def Obligations.StoresAreBuffered : Prop :=
  (∀ i r s e l a b sp x, storeRow i = some r → At s e → r.bad = false → s.hbmq = [] → e.Only r.pm 2 l a b 0 → storeFree r s e l a →
    s.reach e.w e.lv r.form (eaOf a r.off r.unit) r.n r.unit = .ok (sp, x) → sp ≠ .global → s.sliceOf e.w.wg = none →
    ∃ t f, exec i s = .next t ∧ t.frameAfter e = some f ∧ f.doneIn e.slot l = true ∧ f.toks = e.f.toks ∧ f.spois = e.f.spois ∧
      f.sinks = e.f.sinks ++ [sinkOf e.slot l r.mos r.kind sp x r.n b []] ∧
      MemoryKept s t e) ∧
  (∀ (set : Bool) pm mos (off : BitVec 13) s e l a b, At s e → s.hbmq = [] → e.Only pm 2 l a b 0 → (eaOf a off.toInt 16).toNat % 16 = 0 → b.toNat % 16 = 0 →
    ∀ sp x, (if b = 0 then (eaOf a off.toInt 16).toNat < 2 ^ 22 else s.locate e.w e.lv .scr (eaOf a off.toInt 16) b.toNat = .ok (sp, x)) →
    ∃ t f, exec (if set then .feset pm mos off else .feclr pm mos off) s = .next t ∧ t.frameAfter e = some f ∧ f.doneIn e.slot l = true ∧ f.toks = e.f.toks ∧
      f.sinks = e.f.sinks ++ (if b = 0 then [] else [sinkOf e.slot l mos.toNat (if set then .feset else .feclr) sp x b.toNat 0 []]) ∧ MemoryKept s t e)

/-- Checks 1 and 2 of R190; the cause where only the bytes run beyond the space is the model's reading (log entry 26). -/
def Obligations.FailedChecksPoison : Prop :=
  (∀ i r s e l a c, loadRow i = some r → AtInstr s e i → r.bad = false → s.hbmq = [] → e.Only r.pm 1 l a 0 0 →
    checkCause s e r.form (eaOf a r.off r.unit) r.n r.unit = some c →
    ∃ t f, exec i s = .next t ∧ t.frameAfter e = some f ∧ f.doneIn e.slot l = true ∧ f.Holds [r.t] l (.poison (BitVec.ofNat 6 e.slot) c (eaOf a r.off r.unit)) ∧
      f.sinks = e.f.sinks ∧ MemoryKept s t e) ∧
  (∀ i r s e l a b c, storeRow i = some r → At s e → r.bad = false → s.hbmq = [] → e.Only r.pm 2 l a b 0 →
    checkCause s e r.form (eaOf a r.off r.unit) r.n r.unit = some c →
    ∃ t f, exec i s = .next t ∧ t.frameAfter e = some f ∧ f.doneIn e.slot l = true ∧
      (e.slot, l, .poison (BitVec.ofNat 6 e.slot) c (eaOf a r.off r.unit)) ∈ f.spois ∧ f.sinks = e.f.sinks ∧ MemoryKept s t e) ∧
  (∀ i r s e l a b c k, atomRow i = some r → AtInstr s e i → r.bad = false → s.hbmq = [] → e.Only r.pm r.nops l a b c → e.lv.recorded e.slot l = none →
    s.sliceOf e.w.wg = none → checkCause s e r.form (eaOf a r.off r.n) r.n r.n = some k →
    ∃ t f, exec i s = .next t ∧ t.frameAfter e = some f ∧ f.doneIn e.slot l = true ∧ f.Holds r.ts l (.poison (BitVec.ofNat 6 e.slot) k (eaOf a r.off r.n)) ∧
      (e.slot, l, .poison (BitVec.ofNat 6 e.slot) k (eaOf a r.off r.n)) ∈ f.spois ∧ f.sinks = e.f.sinks ∧ MemoryKept s t e)

/-- R202 to R205, in the spaces without pages. -/
def Obligations.LocalAtomics : Prop :=
  ∀ i r s e l a b c sp x, atomRow i = some r → AtInstr s e i → r.bad = false → s.hbmq = [] → e.Only r.pm r.nops l a b c → e.f.opVal 2 e.slot l = c →
    atomFree r s e l a → e.lv.recorded e.slot l = none → s.sliceOf e.w.wg = none →
    s.reach e.w e.lv r.form (eaOf a r.off r.n) r.n r.n = .ok (sp, x) → sp ≠ .global → (s.spaceRead e.w sp x r.n).2 = false →
    (∃ g, mget s.wgs e.w.wg = some g ∧ (sp = .hallStore → (mget (s.hall (s.hallOf e.w)).stores g.gid).isSome)) → x % r.n = 0 →
    let old := (s.spaceRead e.w sp x r.n).1
    ∃ t f w lv, exec i s = .next t ∧ t.frameAfter e = some f ∧ f.doneIn e.slot l = true ∧ f.Holds r.ts l (.value (BitVec.ofNat 64 old)) ∧
      t.warp e.wid = some w ∧ w.levels.head? = some lv ∧ (∃ q, lv.recorded e.slot l = some q ∧ q.t0 = some (.value (BitVec.ofNat 64 old))) ∧
      w.regs = e.w.regs ∧ t.mem = s.mem ∧ t.gal = s.gal ∧ (t.spaceRead e.w sp x r.n).1 = r.new old b.toNat c.toNat ∧
      ∀ y, y < x ∨ x + r.n ≤ y → (t.spaceRead e.w sp y 1).1 = (s.spaceRead e.w sp y 1).1

/-- R190, R192, R304 to R306 and R313: the first step of an access; lines read ahead are log entry 38, the order of waiting log entry 36. -/
def Obligations.AccessProgress : Prop :=
  ∀ (s : State) (a : Access) (w : Warp), s.warp a.wid = some w → s.inWindow w a.va = none →
    (∀ pg ps, s.missing (s.coreOf w) w.ctx a = pg :: ps → 
      mget (s.begin a).accs s.nextId = some { a with stat := .walk pg } ∧ (s.walks.length < 2048 → { ctx := w.ctx, page := pg } ∈ (s.begin a).walks) ∧ (s.begin a).wgs = s.wgs ∧
      (s.begin a).gal = s.gal ∧ (s.begin a).nextId = s.nextId + 1) ∧
    (∀ x p md, a.kind = .load md → a.stat = .walk 0 → mget s.accs s.nextId = none → s.accPages a = [a.va / 65536] → s.tlbFind (s.coreOf w) w.ctx a.va = some x → x.va ≤ a.va → a.va < x.va + x.size →
      a.va / 65536 * 65536 ≤ a.va → 128 ≥ a.va % 128 + a.size → s.pageOk x .rd a.va = true → s.recRead w.ctx w.wg a.va = .plain → s.home (x.phys a.va) = .dev p →
      (∀ l, s.readAhead a.wid a.fid a.slot .global (x.phys a.va) a.size (s.accDep a) = some l →
        mget (s.begin a).accs s.nextId = some { a with xl := [x], stat := .got l false, seen := 0 } ∧ (s.begin a).wgs = s.wgs ∧ (s.begin a).halls = s.halls) ∧
      (∀ c, s.readAhead a.wid a.fid a.slot .global (x.phys a.va) a.size (s.accDep a) = none → mget (s.core (s.coreOf w)).l1 (x.phys a.va / 128) = some c → c.valid &&& sectTouched (byteMask (x.phys a.va % 128) a.size) = sectTouched (byteMask (x.phys a.va % 128) a.size) →
        s.accDep a ≤ c.stamp → scopeL1 a.scope = false →
        mget (s.begin a).accs s.nextId = some { a with xl := [x], stat := .got c.data (c.pois &&& sectTouched (byteMask (x.phys a.va % 128) a.size) != 0), seen := 0 } ∧
          (s.begin a).wgs = s.wgs ∧ (s.begin a).halls = s.halls) ∧
      (s.readAhead a.wid a.fid a.slot .global (x.phys a.va) a.size (s.accDep a) = none → mget (s.core (s.coreOf w)).l1 (x.phys a.va / 128) = none →
        mget (s.hall (hallOfCore (s.coreOf w))).cache (p / 128) = none →
        (s.coreFree (s.coreOf w) s.nextId = false → mget (s.begin a).accs s.nextId = some { a with xl := [x], stat := .queued } ∧ (s.begin a).halls = s.halls) ∧
        (s.coreFree (s.coreOf w) s.nextId = true → ∃ tag, mget (s.begin a).accs s.nextId = some { a with xl := [x], stat := .sent (hallOfCore (s.coreOf w)) tag } ∧ (s.begin a).wgs = s.wgs ∧ (s.begin a).gal = s.gal))) ∧
    (∀ x k, a.kind = .store k → s.accPages a = [a.va / 65536] → s.tlbFind (s.coreOf w) w.ctx a.va = some x → x.va ≤ a.va → a.va < x.va + x.size →
      a.va / 65536 * 65536 ≤ a.va → s.pageOk x .wr a.va = true → s.immutable w.ctx a.va a.size = false → s.sliceOf w.wg = none → ∀ f, s.fidFrame a.wid a.fid = some f →
      ∃ f1, (s.begin a).fidFrame a.wid a.fid = some f1 ∧ f1.doneIn a.slot a.lane = true ∧
        f1.sinks = f.sinks ++ [sinkOf a.slot a.lane a.mos k .global a.va a.size a.b [x]] ∧ (s.begin a).wgs = s.wgs ∧ (s.begin a).gal = s.gal ∧ (s.begin a).halls = s.halls)

namespace Sys2Proof.Claims
open Sys2Proof.Machine

/-- The fences (R206): predicate mode, memory-order slot, scope, and whether they acquire and release. -/
def fenceRow : Instr → Option (BitVec 2 × BitVec 5 × BitVec 3 × Bool × Bool)
  | .fenceAcq pm mos md => some (pm, mos, md, true, false)
  | .fenceRel pm mos md => some (pm, mos, md, false, true)
  | .fenceAr pm mos md => some (pm, mos, md, true, true)
  | _ => none

/-- The hints (R209, R210): predicate mode, operands, offset, what they ask of a page, and the bytes they name. -/
def hintRow : Instr → Option (BitVec 2 × Nat × BitVec 13 × Need × (Word → Nat))
  | .pref pm _ md off => if 3 ≤ md.toNat then none else some (pm, 1, off, .rd, fun _ => 1)
  | .resid pm _ off => some (pm, 2, off, .rd, fun b => min b.toNat (2 ^ 30))
  | .ipref pm _ off => some (pm, 2, off, .ex, fun b => min b.toNat (2 ^ 16))
  | _ => none

/-- A virtual address that a core translates, may use, and that lies in no recipe tile: its physical address and key. -/
def PlainAt (s : State) (e : Env) (need : Need) (va pa key : Nat) : Prop :=
  va < 2 ^ 57 ∧ s.inWindow e.w va = none ∧ s.recRead e.w.ctx e.w.wg va = .plain ∧
    ∃ x, s.tlbFind (s.coreOf e.w) e.w.ctx va = some x ∧ s.pageOk x need va = true ∧ x.phys va = pa ∧ x.key = key

/-- The wait stands in a frame, and nothing before it is the same slot's wait of the same lane. -/
def Frame.FirstWait (f : Frame) (slot : Nat) (q : Wait) (same : Wait → Prop) : Prop :=
  ∃ pre post, f.waits = pre ++ (slot, q) :: post ∧ ∀ x ∈ pre, ¬(x.1 = slot ∧ same x.2)
def isFe (lane : Nat) : Wait → Prop
  | .fe l _ _ _ _ => l = lane
  | _ => False
def isFeOrDone (lane : Nat) : Wait → Prop
  | .fe l _ _ _ _ => l = lane
  | .feDone l _ _ _ _ => l = lane
  | _ => False
def isIinv : Wait → Prop
  | .iinv _ _ => True
  | _ => False

end Sys2Proof.Claims

/-! ## Fences, hints, ranges, full-empty bits and constant banks -/

/-- R206 to R208. -/
def Obligations.FencesComplete : Prop :=
  ∀ i pm mos md acq rel s e, fenceRow i = some (pm, mos, md, acq, rel) → At s e → s.hbmq = [] → pm ≠ 3#2 → md ≠ 0 → md ≠ 7 →
    mgetD e.f.fired e.slot 0 = 0 → (∀ l ∈ lanesOf e.f.mask, e.f.doneIn e.slot l = true ∨ e.f.laneGo e.slot 0 pm l ≠ .wait) →
    (∃ l ∈ lanesOf e.f.mask, e.f.laneGo e.slot 0 pm l = .fire) →
    (fenceReady s e mos.toNat md.toNat acq rel = true → ∃ t f, exec i s = .next t ∧ t.frameAfter e = some f ∧ (∀ l ∈ lanesOf e.f.mask, f.doneIn e.slot l = true) ∧
      f.sinks = e.f.sinks ∧ MemoryKept s t e ∧ t.accs = s.accs ∧ (acq = true → 2 ≤ md.toNat → (t.core (s.coreOf e.w)).l1 = []) ∧ (acq = false → t.cores = s.cores)) ∧
    (fenceReady s e mos.toNat md.toNat acq rel = false →
      (∀ l ∈ lanesOf e.f.mask, e.f.doneIn e.slot l = true ∨ e.f.laneGo e.slot 0 pm l = .fire) → exec i s = .next (close s s))

/-- R209, R210 and R310; that a PREF brings its line to the Gallery in its own step, with no hall-link transaction, and never drops it, is log entry 36. -/
def Obligations.HintsNeverFault : Prop :=
  (∀ i pm nops off need len s e l a b, hintRow i = some (pm, nops, off, need, len) → At s e → e.Only pm nops l a b 0 →
    s.walkClear (s.coreOf e.w) e.w.ctx (eaOf a off.toInt 128).toNat (len b) = true → (∀ pm mos off, i = .pref pm mos 0 off → s.coreNext (s.coreOf e.w) = true) →
    ∃ t f, exec i s = .next t ∧ t.frameAfter e = some f ∧ f.doneIn e.slot l = true ∧ f.toks = e.f.toks ∧ f.spois = e.f.spois ∧ f.sinks = e.f.sinks ∧ t.wgs = s.wgs ∧
      (∃ w, t.warp e.wid = some w ∧ w.regs = e.w.regs ∧ w.mode = e.w.mode) ∧
      (∀ c ln, hintLines (eaOf a off.toInt 128).toNat (len b) = [ln] → 2 ^ 57 ≤ 128 * ln → s.inWindow e.w (128 * ln) = none → mget s.ctxs e.w.ctx = some c →
        mget t.ctxs e.w.ctx = some { c with drophint := c.drophint + 1 })) ∧
  (∀ pm mos (md : BitVec 3) (off : BitVec 13) s e l a pa key, At s e → md.toNat < 3 → e.Only pm 1 l a 0 0 →
    s.walkClear (s.coreOf e.w) e.w.ctx (eaOf a off.toInt 128).toNat 1 = true → (md = 0 → s.coreNext (s.coreOf e.w) = true) →
    PlainAt s e .rd (128 * ((eaOf a off.toInt 128).toNat / 128)) pa key → ∃ t, exec (.pref pm mos md off) s = .next t ∧
      (∀ p, s.home pa = .dev p → 
      (md = 2 → if s.hostAbsent (p / 128) = true then t.hostAsked (p / 128) = true else (mget t.gal (p / 128)).isSome = true) ∧
      (md.toNat < 2 → s.hallHit (hallOfCore (s.coreOf e.w)) (p / 128) 15 0 = none →
        ∃ r ∈ (t.hall (hallOfCore (s.coreOf e.w))).reads, r.ctx = e.w.ctx ∧ r.who = .pref (if md = 0 then some (s.coreOf e.w) else none)) ∧
      (md = 0 → ∀ c, s.hallHit (hallOfCore (s.coreOf e.w)) (p / 128) 15 0 = some c →
        ∃ k, mget (t.core (s.coreOf e.w)).l1 (p / 128) = some k ∧ (mget (s.core (s.coreOf e.w)).l1 (p / 128) = none → k.data = c.data))) ∧
      (∀ k off, s.home pa = .remote k off → md = 0 → mget (s.core (s.coreOf e.w)).l1 (pa / 128) = none →
        ∃ q ∈ t.ext, q.2.pref = some (s.coreOf e.w) ∧ q.2.host = false ∧ q.2.msg.kind = .load ∧ q.2.msg.dst = k ∧ q.2.msg.pa = off / 128 * 128) ∧
      (∀ off, s.home pa = .host off → md = 0 → mget (s.core (s.coreOf e.w)).l1 (pa / 128) = none →
        ∃ q ∈ t.ext, q.2.pref = some (s.coreOf e.w) ∧ q.2.host = true ∧ q.2.msg.kind = .load ∧ q.2.msg.pa = off / 128 * 128)) ∧
  (∀ pm mos (off : BitVec 13) s e l a b pa key ln, At s e → e.Only pm 2 l a b 0 → b.toNat ≤ 2 ^ 16 →
    s.walkClear (s.coreOf e.w) e.w.ctx (eaOf a off.toInt 128).toNat b.toNat = true → hintLines (eaOf a off.toInt 128).toNat b.toNat = [ln] →
    (∀ p, PlainAt s e .rd (128 * ln) pa key → s.home pa = .dev p → s.hostAbsent (p / 128) = false →
      ∃ t g, exec (.resid pm mos off) s = .next t ∧ mget t.gal (p / 128) = some g ∧ s.gidOf e.w ∈ g.keep.map (·.1)) ∧
    (PlainAt s e .ex (128 * ln) pa key → ∃ t, exec (.ipref pm mos off) s = .next t ∧
      ((mget (t.cluster (clusterOfCore (s.coreOf e.w))).ic (pa / 128)).isSome = true ∨ (∃ q ∈ (t.cluster (clusterOfCore (s.coreOf e.w))).fills, q.line = pa / 128) ∨
        320 ≤ (t.cluster (clusterOfCore (s.coreOf e.w))).fills.length)))

/-- R211 to R213, before the commit. -/
def Obligations.RangesAreBuffered : Prop :=
  ∀ (disc : Bool) pm mos (off : BitVec 13) s e l a b, At s e → s.hbmq = [] → e.Only pm 2 l a b 0 → s.sliceOf e.w.wg = none →
    s.rangeBad e.w (eaOf a off.toInt 128).toNat b.toNat = false → (eaOf a off.toInt 128).toNat % 128 = 0 → b.toNat % 128 = 0 → b.toNat ≤ 2 ^ 30 →
    s.walkClear (s.coreOf e.w) e.w.ctx (eaOf a off.toInt 128).toNat b.toNat = true →
    ∀ s1 xs, (if b = 0 then xs = [] else
      (s.firedIn e l).xlatRange (s.coreOf e.w) e.w.ctx (eaOf a off.toInt 128).toNat b.toNat (if disc then .wr else .rd) (fun v => (s.inWindow e.w v).isSome) = (s1, .ok xs) ∧
        (disc = true → ∀ c, mget s.ctxs e.w.ctx = some c → c.pinnedAt (eaOf a off.toInt 128).toNat b.toNat = false)) →
    ∃ t f, exec (if disc then .disc pm mos off else .clean pm mos off) s = .next t ∧ t.frameAfter e = some f ∧ f.doneIn e.slot l = true ∧ f.toks = e.f.toks ∧
      f.sinks = e.f.sinks ++ (if b = 0 then [] else [sinkOf e.slot l mos.toNat (if disc then .disc else .clean) .global (eaOf a off.toInt 128).toNat b.toNat 0 xs]) ∧
      t.mem = s.mem ∧ t.gal = s.gal ∧ t.wgs = s.wgs

/-- R198 and R199; that ACQ may name an LDS.FE, whose end then acquires, is the model's reading (log entry 39). -/
def Obligations.FullEmptyReads : Prop :=
  (∀ pm mos (md : BitVec 3) (off : BitVec 4) t0 s e l a wg x, At s e → s.hbmq = [] → md.toNat < 2 → e.Only pm 1 l a 0 0 →
    feOk mos.toNat off.toInt (md == 1) e (s.dispatched e) l a 0 0 = true →
    (md = 1 ∨ e.lv.recorded e.slot l = none) → s.reach e.w e.lv .scr (eaOf a off.toInt 8) 8 8 = .ok (.scratch wg, x) →
    ∃ t f, exec (.ldsFe pm mos md off t0) s = .next t ∧ t.frameAfter e = some f ∧ f.waits = e.f.waits ++ [(e.slot, .fe l wg x (md == 1) s.nextId)] ∧
      f.doneIn e.slot l = false ∧ f.toks = e.f.toks ∧ t.nextId = s.nextId + 1 ∧ MemoryKept s t e) ∧
  (∀ (s : State) (wid slot lane : Nat) (w : Warp) (lv : Level) (f : Frame) (wg a : Nat) (keep : Bool) (o : Nat), s.powered = true → lane < 64 → s.warp wid = some w →
    w.levels.head? = some lv → lv.frame = some f → Frame.FirstWait f slot (.fe lane wg a keep o) (isFeOrDone lane) → s.feReady (.fe lane wg a keep o) = true →
    (s.memOf wg).scrPois a 8 = false → f.storesBelow ((mosOf (f.word slot)).getD 0) lane (.scratch wg) = [] →
    s.mayAcquire (s.coreOf w) (f.acqScope slot) = true →
    ∃ t g, exec (.feWaitSatisfied wid slot lane) s = .next t ∧ t.fidFrame wid f.fid = some g ∧ g.doneIn slot lane = true ∧
      g.Holds (f.targets slot) lane (.value (BitVec.ofNat 64 ((s.memOf wg).scr a 8))) ∧ (∀ x ∈ g.waits, ¬(x.1 = slot ∧ isFe lane x.2)) ∧
      (t.memOf wg).isFull a = keep ∧ (t.memOf wg).scr a 8 = (s.memOf wg).scr a 8) ∧
  (∀ (s : State) (wid slot lane : Nat) (w : Warp) (lv : Level) (f : Frame) (k : Tok) (dep core seen : Nat), s.powered = true → lane < 64 → s.warp wid = some w →
    w.levels.head? = some lv → lv.frame = some f → Frame.FirstWait f slot (.feDone lane k dep core seen) (isFeOrDone lane) → s.invsApplied (hallOfCore core) seen = true →
    ∃ t g, exec (.feWaitSatisfied wid slot lane) s = .next t ∧ t.fidFrame wid f.fid = some g ∧ g.doneIn slot lane = true ∧ g.Holds (f.targets slot) lane k ∧
      (scopeL1 (f.acqScope slot) = true → (t.core (s.coreOf w)).l1 = []) ∧ t.wgs = s.wgs)

/-- R21, R126 and R194. -/
def Obligations.ConstantBanks : Prop :=
  (∀ pm (bank : BitVec 4) (wd : BitVec 8) t0 s e l, AtInstr s e (.genk pm bank wd t0) → e.Only pm 0 l 0 0 0 →
    (s.bankAddr e.w bank.toNat wd.toNat = none → ∃ t f, exec (.genk pm bank wd t0) s = .next t ∧ t.frameAfter e = some f ∧ f.doneIn e.slot l = true ∧
      f.Holds [t0] l (.value 0)) ∧
    (∀ va, s.bankAddr e.w bank.toNat wd.toNat = some va → mget e.f.samples e.slot = none →
      ((∀ p ∈ s.accs, ¬(p.2.wid = e.wid ∧ p.2.fid = e.f.fid ∧ p.2.slot = e.slot)) → s.rangeBad e.w va 8 = true →
        ∃ t f, exec (.genk pm bank wd t0) s = .next t ∧ t.frameAfter e = some f ∧ ∀ j < 64, (j = l ∨ hasLane (mgetD e.f.fired e.slot 0) j = true ∧ e.f.doneIn e.slot j = false) →
          f.doneIn e.slot j = true ∧ f.Holds [t0] j (.poison (BitVec.ofNat 6 e.slot) 0x11 (BitVec.ofNat 64 va))) ∧
      ((∀ p ∈ s.accs, ¬(p.2.wid = e.wid ∧ p.2.fid = e.f.fid ∧ p.2.slot = e.slot)) → s.rangeBad e.w va 8 = false →
        exec (.genk pm bank wd t0) s = .next (close s ((s.firedIn e l).begin (accessOf e l 0 (.load 6) 0 va 8 0 0)))) ∧
      ((∃ p ∈ s.accs, p.2.wid = e.wid ∧ p.2.fid = e.f.fid ∧ p.2.slot = e.slot) → exec (.genk pm bank wd t0) s = .next (close s (s.firedIn e l)))) ∧
    (∀ va k, s.bankAddr e.w bank.toNat wd.toNat = some va → mget e.f.samples e.slot = some k →
      ∃ t f, exec (.genk pm bank wd t0) s = .next t ∧ t.frameAfter e = some f ∧ f.doneIn e.slot l = true ∧ f.Holds [t0] l k)) ∧
  (∀ (s : State) (aid : Nat) (a : Access) (w : Warp) (lv : Level) (f : Frame) (line : Line), s.powered = true → mget s.accs aid = some a → a.stat = .got line false →
    a.kind = .load 6 → a.scope = 0 → a.mos = 0 → s.warp a.wid = some w → w.levels.head? = some lv → lv.frame = some f → f.fid = a.fid → fOp (f.word a.slot) = 0x004#9 →
    a.va % 128 + 8 ≤ 128 → a.size = 8 →
    ∃ t g, exec (.accessResponse aid) s = .next t ∧ t.fidFrame a.wid a.fid = some g ∧ mget t.accs aid = none ∧
      ∀ l < 64, hasLane (mgetD f.fired a.slot 0) l = true → f.doneIn a.slot l = false →
        g.doneIn a.slot l = true ∧ g.Holds (f.targets a.slot) l (.value (BitVec.ofNat 64 (lineBytes line (a.va % 128) 8)))) ∧
  (∀ pm (mos : BitVec 5) (off : BitVec 4) t0 s e l a, AtInstr s e (.ldk pm mos off t0) → e.Only pm 1 l a 0 0 → e.f.acquired e.slot mos.toNat false = true →
    s.mayAcquire (s.coreOf e.w) (e.f.acqScope e.slot) = true →
    ((eaOf a off.toInt 8).toNat % 8 ≠ 0 → ∃ t f, exec (.ldk pm mos off t0) s = .next t ∧ t.frameAfter e = some f ∧ f.doneIn e.slot l = true ∧
      f.Holds [t0] l (.poison (BitVec.ofNat 6 e.slot) 0x16 (eaOf a off.toInt 8))) ∧
    ((eaOf a off.toInt 8).toNat % 8 = 0 → s.bankAddr e.w (fld (eaOf a off.toInt 8) 14 11) (fld (eaOf a off.toInt 8) 10 3) = none →
      ∃ t f, exec (.ldk pm mos off t0) s = .next t ∧ t.frameAfter e = some f ∧ f.doneIn e.slot l = true ∧ f.Holds [t0] l (.value 0)) ∧
    (∀ va, (eaOf a off.toInt 8).toNat % 8 = 0 → s.bankAddr e.w (fld (eaOf a off.toInt 8) 14 11) (fld (eaOf a off.toInt 8) 10 3) = some va →
      (s.rangeBad e.w va 8 = false →
        exec (.ldk pm mos off t0) s = .next (close s ((s.firedIn e l).begin (accessOf e l mos.toNat (.load 6) (e.f.acqScope e.slot) va 8 0 0)))) ∧
      (s.rangeBad e.w va 8 = true → ∃ t f, exec (.ldk pm mos off t0) s = .next t ∧ t.frameAfter e = some f ∧ f.doneIn e.slot l = true ∧
        f.Holds [t0] l (.poison (BitVec.ofNat 6 e.slot) 0x11 (BitVec.ofNat 64 va)))))

/-- R214, its steps 1 and 2. -/
def Obligations.InstructionInvalidation : Prop :=
  (∀ pm tb ta s e l a b, At s e → s.hbmq = [] → e.Only pm 2 l a b 0 → (∀ j ∈ lanesOf e.f.mask, e.f.doneIn e.slot j = true ∨ j = l) → s.sliceOf e.w.wg = none →
    a.toNat < 2 ^ 57 → (∀ q ∈ e.f.waits, q.1 ≠ e.slot) →
    ∃ t f, exec (.iinv pm tb ta) s = .next t ∧ t.frameAfter e = some f ∧ f.doneIn e.slot l = false ∧ f.toks = e.f.toks ∧
      f.waits = e.f.waits ++ [(e.slot, .iinv [if 2 ^ 30 < b.toNat then (0, 2 ^ 57) else
        (a.toNat / 128 * 128, (a.toNat + b.toNat + 127) / 128 * 128 - a.toNat / 128 * 128)] (1#64 <<< l))] ∧ MemoryKept s t e) ∧
  (∀ (s : State) (wid slot : Nat) (w : Warp) (lv : Level) (f : Frame) (ranges : List (Nat × Nat)) (lanes : Lanes), s.powered = true → s.warp wid = some w →
    w.levels.head? = some lv → lv.frame = some f → Frame.FirstWait f slot (.iinv ranges lanes) isIinv → s.released (s.hallOf w) w.ctx 4 = true →
    ∃ t g, exec (.iinvComplete wid slot) s = .next t ∧ t.fidFrame wid f.fid = some g ∧ (∀ q ∈ g.waits, q.1 ≠ slot) ∧
      (∀ l ∈ lanesOf lanes, g.doneIn slot l = true ∧ g.Holds (f.targets slot) l (.value 0)) ∧
      (∀ p ∈ t.cores, ∀ d ∈ p.2.l0, d.ctx = w.ctx → ∀ r ∈ ranges, overlaps d.blk.addr.toNat (16 + 4 * d.blk.nread + 4 * d.blk.nslot) r.1 r.2 = false) ∧
      ∀ ln, (∃ r ∈ ranges, 2 ^ 57 ≤ r.2 ∨ ∃ va x used, r.1 ≤ va ∧ va < r.1 + r.2 ∧ s.walk w.ctx (max r.1 (va / 65536 * 65536)) = .ok x used ∧ x.x = true ∧
          (x.phys (max r.1 (va / 65536 * 65536)) + (va - max r.1 (va / 65536 * 65536))) / 128 = ln) →
        (∀ p ∈ t.clusters, mget p.2.ic ln = none ∧ ∀ q ∈ p.2.fills, q.line ≠ ln) ∧ (∀ p ∈ t.halls, mget p.2.ic ln = none ∧ ∀ q ∈ p.2.reads, q.who.codeLine ≠ some ln) ∧
        mget t.galIc ln = none ∧ ∀ p ∈ t.warps, ∀ g ∈ p.2.fetch.got, g.1 ≠ ln)

namespace Sys2Proof.Claims
open Sys2Proof.Machine

/-! ## Tables of class U commands -/

/-- One row of a table of class U commands: predicate mode, operands, targets, whether the last operand must come as a value in every
lane (R119), the condition on the state and the leader's operands under which the command is carried out, and what it then does. -/
structure URow where
  pm : BitVec 2
  nops : Nat
  ts : List (BitVec 9)
  all : Bool
  pre : State → Env → Word → Word → Word → Prop
  eff : State → Env → Word → Word → Word → State × UOut

/-- What a table of class U commands says: each, performed under the cursor of a powered module (R81) outside a slice, where its
condition holds, takes a step to the state its row gives from the state in which the warp has dispatched, with its value delivered. -/
def URowHolds (row : Instr → Option URow) : Prop :=
  ∀ i r s e a b c, row i = some r → At s e → e.Performs r.pm r.nops a b c → s.sliceOf e.w.wg = none →
    (r.all = true → ∀ l ∈ lanesOf e.f.mask, ∃ k, e.f.tok (r.nops - 1) e.slot l = some k ∧ k.isPoison = false) → r.pre (s.dispatched e) e a b c →
    exec i s = .next (close s ((r.eff (s.dispatched e) e a b c).1.uApply e.wid e.f.fid e.slot r.ts (r.eff (s.dispatched e) e a b c).2))

/-! ### Barriers (R178 to R184) -/

/-- A phase completes (R180): once as many arrivals as expected have come and no copy is pending. -/
def phased (o : BObj) : BObj :=
  if 0 < o.expect ∧ o.arrived = o.expect ∧ o.pend = 0 then
    { o with phase := (o.phase + 1) % 65536, expect := (o.expect + 16777216 - o.drops) % 16777216, arrived := 0, drops := 0 } else o
/-- One arrival, that also drops out where `drop` (R180). -/
def arrival (o : BObj) (drop : Bool) : BObj :=
  phased { o with arrived := (o.arrived + 1) % 16777216, drops := if drop then (o.drops + 1) % 16777216 else o.drops }
/-- A wait on the phase of an object is over at once where the phase differs or the object is not active (R181, R183). -/
def ended (o : BObj) (phase : Nat) : Option (Nat × Bool) :=
  if o.phase ≠ phase ∨ o.st ≠ 1 then some (o.phase, decide (o.phase = phase ∧ o.st = 2)) else none
/-- What a command at scope `md` with operand `b` makes of an object, `hs` being the halls of its grid (R178, R180, R183). -/
def barObj (c : BCmd) (md : BitVec 3) (hs : Nat) (b : Word) (o : BObj) : BObj :=
  let with_ (x : BObj) : BObj := if md = 3 then { x with halls := x.halls ||| hs } else x
  match c with
  | .init => with_ { st := 1, scope := md.toNat, halls := 0, expect := fld b 23 0, arrived := 0, phase := 0, drops := 0, pend := 0 }
  | .arrive => with_ (arrival o false)
  | .drop => with_ (arrival o true)
  | .arriveWait => with_ (arrival o false)
  | .wait => with_ o
  | .rewait => o
  | .expect => phased (with_ { o with pend := o.pend + (fld b 23 0 : Nat) })
/-- The object takes the command: it is active and of its scope, an arrival has room, and a count stays in range (R180, R181). -/
def barTakes (c : BCmd) (md : BitVec 3) (b : Word) (o : BObj) : Prop :=
  (c ≠ .init → o.st = 1 ∧ o.scope = md.toNat) ∧ (c = .arrive ∨ c = .drop ∨ c = .arriveWait → o.arrived ≠ o.expect) ∧
    (c = .expect → -8388608 ≤ o.pend + (fld b 23 0 : Nat) ∧ o.pend + (fld b 23 0 : Nat) < 8388608)
/-- The phase that the command's warp receives, or waits for. -/
def barPhase (c : BCmd) (b : Word) (o : BObj) : Nat := match c with
  | .arrive => o.phase
  | .arriveWait => o.phase
  | .wait => fld b 15 0
  | .rewait => fld b 15 0
  | _ => 0
def barWaits (c : BCmd) : Prop := c = .wait ∨ c = .arriveWait ∨ c = .rewait
/-- The bytes of the object afterwards: those of the reserved bits as they were, but for `BINIT` (R178). -/
def barBytes (c : BCmd) (md : BitVec 3) (hs : Nat) (b : Word) (v : Nat) : Nat :=
  bobjBytes (barObj c md hs b (bobjOf v)) (if c = .init then 0 else v)
/-- A `BAR` remembers the phase it arrived at (R184). -/
def waitingAt (s : State) (e : Env) (p : Nat) : State :=
  s.updWarp e.wid (fun w => w.record e.f.fid { slot := e.slot, lane := 64, t0 := none, t1 := none, waiting := some p, dep := 0 })

/-- Where a command may act (R179): below device scope on unpoisoned bytes of scratch, the window or the hall store that take it; at device scope on an
aligned address outside the hall store window. -/
def barAt (c : BCmd) (md : BitVec 3) (s : State) (e : Env) (a b : Word) : Prop :=
  if md = 3 then a.toNat < 2 ^ 57 ∧ s.inWindow e.w a.toNat = none ∧ a.toNat % 16 = 0
  else ∃ sp x, s.bfind e.w e.lv md a = .ok (sp, x) ∧ (s.spaceRead e.w sp x 16).2 = false ∧ barTakes c md b (bobjOf (s.spaceRead e.w sp x 16).1)
/-- The command: below device scope at once on the object, whose waits that it ends are over; at device scope by an access to the object's home. -/
def barDoes (c : BCmd) (md : BitVec 3) (s : State) (e : Env) (a b : Word) : State × UOut :=
  if md = 3 then
    ((s.updFid e.wid e.f.fid (fun f => { f with waits := f.waits ++ [(e.slot, .record)] })).begin (accessOf e (leaderOf e.f.mask) 64 (.barrier c) 0 a.toNat 16 b 0), .began)
  else match s.bfind e.w e.lv md a with
  | .error _ => (s, .hold)
  | .ok (sp, x) =>
    let v := (s.spaceRead e.w sp x 16).1
    let o := barObj c md (s.hallBits e.w) b (bobjOf v)
    let p := barPhase c b (bobjOf v)
    let s1 := (s.barSettle (s.nearTo e.w) (.space sp x) o).spaceWrite e.w sp x 16 (barBytes c md (s.hallBits e.w) b v)
    (if c = .arriveWait then waitingAt s1 e p else s1,
      if c = .wait ∨ c = .arriveWait then .waits (.bar md.toNat a p (.space sp x) (ended o p)) else if c = .arrive then .done (BitVec.ofNat 64 p) else .quiet)
/-- The acquire of the block and, for an arrival, the release of earlier blocks are done (R182, R258). -/
def barPre (c : BCmd) (md : BitVec 3) (s : State) (e : Env) (a b : Word) : Prop :=
  md.toNat < 4 ∧ e.acqFree = true ∧ (c = .arrive ∨ c = .drop ∨ c = .arriveWait → s.released (s.hallOf e.w) e.w.ctx (md.toNat + 1) = true) ∧ barAt c md s e a b

/-- The barrier commands (R181). -/
def barRow : Instr → Option URow
  | .binit pm md => some ⟨pm, 2, [], false, fun s e a b _ => barPre .init md s e a b, fun s e a b _ => barDoes .init md s e a b⟩
  | .barv pm md tb ta => some ⟨pm, 1, [ta, tb], false, fun s e a _ _ => barPre .arrive md s e a 0, fun s e a _ _ => barDoes .arrive md s e a 0⟩
  | .bard pm md => some ⟨pm, 1, [], false, fun s e a _ _ => barPre .drop md s e a 0, fun s e a _ _ => barDoes .drop md s e a 0⟩
  | .bwait pm md tb ta => some ⟨pm, 2, [ta, tb], false, fun s e a b _ => barPre .wait md s e a b, fun s e a b _ => barDoes .wait md s e a b⟩
  | .bar pm md tb ta => some ⟨pm, 1, [ta, tb], false, fun s e a _ _ => barPre .arriveWait md s e a 0, fun s e a _ _ => barDoes .arriveWait md s e a 0⟩
  | .bexpect pm md => some ⟨pm, 2, [], false, fun s e a b _ => barPre .expect md s e a b, fun s e a b _ => barDoes .expect md s e a b⟩
  | _ => none

/-! ### The matrix engine (R226 to R238) -/

/-- The workgroup of the warp has a reservation `r` that no vector holds against this command (R269). -/
def resIs (s : State) (e : Env) (r : MRes) : Prop :=
  (s.core (s.coreOf e.w)).resOf e.w.wg = some r ∧ e.heldOut (s.core (s.coreOf e.w)) = false
def resNow (s : State) (e : Env) : MRes := ((s.core (s.coreOf e.w)).resOf e.w.wg).getD
  { rid := 0, wg := 0, mode := 0, nextOp := 0, closed := 0, complete := 0, batches := [], ops := [], held := none, releasing := false, slaved := 0 }
/-- Changes the reservation of the workgroup. -/
def onRes (s : State) (e : Env) (g : MRes → MRes) : State :=
  s.updCore (s.coreOf e.w) (fun c => { c with mres := c.mres.map (fun x => if x.rid = (resNow s e).rid then g x else x) })
/-- The context that the follower of a pair operation has reserved now. -/
def slaveOf (s : State) (e : Env) (o : MOp) : Option Nat :=
  match o.pair with
  | some f => ((s.core (s.coreOf e.w + 1)).mres.find? (fun x => x.wg == f && x.mode == 2 && !x.releasing)).map (·.rid)
  | none => none
/-- The operation is accepted (R228): it takes the reservation's next number, and the context that its follower has reserved counts it (R236). -/
def acceptedOp (s : State) (e : Env) (o : MOp) : State :=
  let r := resNow s e
  let s1 := onRes { s with nextId := s.nextId + 1 } e (fun x =>
    { x with nextOp := (x.nextOp + 1) % 2 ^ 32, ops := x.ops ++ [{ o with num := r.nextOp, order := s.nextId, slave := slaveOf s e o }] })
  match slaveOf s e o with
  | some i => s1.updCore (s.coreOf e.w + 1) (fun c => { c with mres := c.mres.map (fun x => if x.rid = i then { x with slaved := x.slaved + 1 } else x) })
  | none => s1
/-- A descriptor is well placed: RES0 zero, 16-byte multiples, and its 64 rows inside the allocation (R231). -/
def descOk (d : Word) (res0 size rowBytes : Nat) : Prop :=
  res0 = 0 ∧ fld d 3 0 = 0 ∧ fld d 25 22 = 0 ∧ fld d 21 0 + (63 * fld d 37 22 + rowBytes) ≤ size
/-- A multiply with its descriptors (R229): every check of R231 passes. -/
def mopPre (fmt : Nat) (pair scaled : Bool) (s : State) (e : Env) (a b : Word) : Prop :=
  ∃ r g, resIs s e r ∧ r.mode ≠ 2 ∧ r.ops.length < 16 ∧ mget s.wgs e.w.wg = some g ∧ kValid scaled (mfmt fmt) (fld b 49 38) = true ∧
    descOk a (fld a 63 42) g.size (fld b 49 38 * (mfmt fmt).bits / 8) ∧ descOk b (fld b 63 50) g.size (fld b 49 38 * (mfmt fmt).bits / 8) ∧ fld a 41 38 < g.tiles ∧
    (pair = true → ∃ f h, s.followerOf e.w.wg = some f ∧ mget s.wgs f = some h ∧
      fld a 21 0 + 63 * fld a 37 22 + fld b 49 38 * (mfmt fmt).bits / 8 ≤ h.size ∧ fld a 41 38 < h.tiles)
def mopOf (fmt : Nat) (pair scaled bsel : Bool) (s : State) (e : Env) (a b : Word) : MOp :=
  { num := 0, zero := false, fmt := fmt, pair := if pair then s.followerOf e.w.wg else none, slave := none, tile := fld a 41 38, aAddr := fld a 21 0, aStride := fld a 37 22,
    bAddr := fld b 21 0, bStride := fld b 37 22, k := fld b 49 38, scales := if scaled then scalesOf e bsel else [], kdone := 0, ktot := fld b 49 38 / (mfmt fmt).ks, order := 0 }
def mopRow (fmt : Nat) (pair scaled bsel : Bool) (pm : BitVec 2) (ts : List (BitVec 9)) (bad : State → Prop) : Option URow :=
  some ⟨pm, if scaled then 3 else 2, ts, scaled, fun s e a b _ => ¬bad s ∧ e.acqFree = true ∧ mopPre fmt pair scaled s e a b,
    fun s e a b _ => (acceptedOp s e (mopOf fmt pair scaled bsel s e a b), .done (BitVec.ofNat 64 (resNow s e).nextOp))⟩
/-- The I4 forms need a core that has them (R74). -/
def i4Off (md : BitVec 3) (s : State) : Prop := md.extractLsb' 0 2 = 3#2 ∧ s.fuses.mmani4 = false
/-- The reservation whose batches the workgroup waits on (R235). -/
def waitRes (s : State) (e : Env) : Nat × Option MRes := s.batchRes (s.coreOf e.w) (resNow s e)

/-- The commands of the matrix engine (R226 to R238). -/
def matrixRow : Instr → Option URow
  | .mres pm md tb ta => some ⟨pm, 0, [ta, tb], false, fun _ _ _ _ _ => md.toNat < 3,
      fun s e _ _ _ => match (s.core (s.coreOf e.w)).resOf e.w.wg with
        | some r => (s, .done (if r.mode = md.toNat then 1 else 0))
        | none =>
          if (s.core (s.coreOf e.w)).mres.length < 2 ∧ (md = 0 ∨ ((s.fuses.capFeat (s.coreOf e.w)).testBit 4 = true ∧ (s.coreOf e.w % 8 % 2 = 0 ↔ md = 1))) then
            ((({ s with nextId := s.nextId + 1 } : State).updCore (s.coreOf e.w) (fun k => { k with mres := k.mres ++ [⟨s.nextId, e.w.wg, md.toNat, 0, 0, 0, [], [], none, false, 0⟩] })), .done 1)
          else (s, .done 0)⟩
  | .mrel pm => some ⟨pm, 1, [], false, fun s e _ _ _ => ∃ r, resIs s e r,
      fun s e _ _ _ => ((onRes s e (fun x => { x with releasing := true })).updCore (s.coreOf e.w) (fun c => { c with mres := c.mres.filter (fun r => !(r.releasing && r.ops.isEmpty && r.slaved == 0)) }), .quiet)⟩
  | .mma pm md tb ta => mopRow (md.toNat % 4) (md.getLsbD 2) false false pm [ta, tb] (fun _ => md.extractLsb' 0 2 = 3#2)
  | .mman pm md tb ta => mopRow (4 + md.toNat % 4) false true (md.getLsbD 2) pm [ta, tb] (i4Off md)
  | .mmanp pm md tb ta => mopRow (4 + md.toNat % 4) true true (md.getLsbD 2) pm [ta, tb] (i4Off md)
  | .mzero pm tb ta => some ⟨pm, 1, [ta, tb], false,
      fun s e a _ _ => e.acqFree = true ∧ ∃ r g, resIs s e r ∧ r.mode ≠ 2 ∧ r.ops.length < 16 ∧ mget s.wgs e.w.wg = some g ∧ fld a 63 4 = 0 ∧ fld a 3 0 < g.tiles,
      fun s e a _ _ => (acceptedOp s e { num := 0, zero := true, fmt := 0, pair := none, slave := none, tile := fld a 3 0, aAddr := 0, aStride := 0, bAddr := 0,
                                         bStride := 0, k := 0, scales := [], kdone := 0, ktot := 1, order := 0 }, .done (BitVec.ofNat 64 (resNow s e).nextOp))⟩
  | .mcom pm tb ta => some ⟨pm, 1, [ta, tb], false, fun s e _ _ _ => ∃ r, resIs s e r ∧ r.mode ≠ 2,
      fun s e _ _ _ =>
        let n := if (resNow s e).closed + 1 = 2 ^ 32 then 1 else (resNow s e).closed + 1
        (onRes s e (fun x => ({ x with closed := n, batches := x.batches ++ [(n, (resNow s e).ops.foldl (fun a o => max a o.order) 0)] } : MRes).settle), .done (BitVec.ofNat 64 n))⟩
  | .mwait pm tb ta => some ⟨pm, 1, [ta, tb], false, fun s e _ _ _ => ∃ r, resIs s e r,
      fun s e a _ _ =>
        if fld a 31 0 = 0 then (s, .done 0)
        else match (waitRes s e).2 with
          | none => (s, .done 0)
          | some x =>
            let v := if past32 x.closed (fld a 31 0) then fld a 31 0 else x.closed
            (s, .waits (.mwait (waitRes s e).1 x.rid v v))⟩
  | .mprog pm tb ta => some ⟨pm, 0, [ta, tb], false, fun _ _ _ _ _ => True,
      fun s e _ _ _ => (s, .done (match (s.core (s.coreOf e.w)).resOf e.w.wg with
        | some r => (match r.ops with
          | o :: _ => BitVec.ofNat 64 (o.num * 2 ^ 32 + r.ops.length * 2 ^ 16 + o.kdone * 2 ^ 8 + o.ktot)
          | [] => BitVec.ofNat 64 (r.nextOp * 2 ^ 32))
        | none => 0))⟩
  | .mstat pm tb ta => some ⟨pm, 0, [ta, tb], false, fun _ _ _ _ _ => True,
      fun s e _ _ _ => (s, .done (match (s.core (s.coreOf e.w)).resOf e.w.wg with
        | some r => BitVec.ofNat 64 (r.closed % 2 ^ 24 * 2 ^ 40 + r.complete % 2 ^ 24 * 2 ^ 16 + r.mode * 64 + (if s.paired (s.coreOf e.w) r then 32 else 0) + r.ops.length)
        | none => 192))⟩
  | _ => none

/-! ### Recipes (R249 to R251, R398) -/

/-- The status of a refused command: bit 63 with its code (R250). -/
def refused (k : Nat) : Word := BitVec.ofNat 64 (2 ^ 63 + k)
/-- The valid entry that an index operand names. -/
def entryOf (c : Ctx) (a : Word) : Option (Nat × Recipe) :=
  if fld a 63 16 ≠ 0 ∨ c.cfg.recipeCount ≤ fld a 15 0 then none else (mget c.recipes (fld a 15 0)).map (fun r => (fld a 15 0, r))
/-- A command reads its record: the slot waits, and an access of the leader begins; that of an engine command reaches no hall store (R28). -/
def recordRead (s : State) (e : Env) (va n : Nat) (eng : Bool) : State × UOut :=
  ((s.updFid e.wid e.f.fid (fun f => { f with waits := f.waits ++ [(e.slot, .record)] })).begin (accessOf e (leaderOf e.f.mask) 64 (.record 0 eng) 0 va n 0 0), .began)
/-- The record of `n` bytes at an address may be read. -/
def recordAt (s : State) (e : Env) (a : Word) (n : Nat) (eng : Bool) : Prop :=
  a.toNat % n = 0 ∧ if eng then a.toNat + n ≤ 2 ^ 57 else ∃ x, s.locate e.w e.lv .glob a n = .ok x
/-- The acquire of the block, and the release that a scope operand asks for, are performed. -/
def scopeFree (md : BitVec 3) (s : State) (e : Env) : Prop := md ≠ 7 ∧ e.acqFree = true ∧ (md ≠ 0 → s.released (s.hallOf e.w) e.w.ctx md.toNat = true)

/-- The commands of the recipe table (R250, R398). -/
def recipeRow : Instr → Option URow
  | .recdef pm md tb ta => some ⟨pm, 2, [ta, tb], false, fun s e _ b _ => scopeFree md s e ∧ recordAt s e b 64 true, fun s e _ b _ => recordRead s e b.toNat 64 true⟩
  | .recpin pm tb ta => some ⟨pm, 1, [ta, tb], false, fun s e a _ _ => (mget s.ctxs e.w.ctx).isSome = true ∧ ∃ r, tileOperand a = .ok r,
      fun s e a _ _ => match mget s.ctxs e.w.ctx, tileOperand a with
        | some c, .ok r =>
          if c.recipes.any (fun p => overlaps r.1 r.2 p.2.tile p.2.size) then (s, .done (refused 3))
          else if Config.pins ≤ c.pins.length then (s, .done (refused 6))
          else ({ s with ctxs := mset s.ctxs e.w.ctx { c with pins := c.pins ++ [r] } }, .done 0)
        | _, _ => (s, .hold)⟩
  | .recunpin pm tb ta => some ⟨pm, 1, [ta, tb], false, fun s e a _ _ => (mget s.ctxs e.w.ctx).isSome = true ∧ ∃ r, tileOperand a = .ok r,
      fun s e a _ _ => match mget s.ctxs e.w.ctx, tileOperand a with
        | some c, .ok r =>
          if r ∉ c.pins then (s, .done (refused 7))
          else if c.lastPin (c.pins.erase r) then (s, .done (refused 8))
          else ({ s with ctxs := mset s.ctxs e.w.ctx { c with pins := c.pins.erase r } }, .done 0)
        | _, _ => (s, .hold)⟩
  | .recdrop pm tb ta => some ⟨pm, 1, [ta, tb], false, fun s e _ _ _ => (mget s.ctxs e.w.ctx).isSome = true,
      fun s e a _ _ => match mget s.ctxs e.w.ctx with
        | none => (s, .hold)
        | some c => match entryOf c a with
          | none => (s, .done (refused 9))
          | some (i, r) =>
            if r.pinned ≠ 0 then (s, .done (refused 10))
            else if r.run then (s, .done (refused 11))
            else (((((s.setRecipe e.w.ctx i none).pinSources e.w.ctx (c.srcRecipes r.srcs) false).physLines e.w.ctx r.tile r.size).foldl (fun (s : State) p => s.zeroTileLine e p.1 p.2)
                ((s.setRecipe e.w.ctx i none).pinSources e.w.ctx (c.srcRecipes r.srcs) false)), .done 0)⟩
  | .recmat pm tb ta => some ⟨pm, 1, [ta, tb], false, fun s e _ _ _ => (mget s.ctxs e.w.ctx).isSome = true,
      fun s e a _ _ => match mget s.ctxs e.w.ctx with
        | none => (s, .hold)
        | some c => match entryOf c a with
          | none => (s, .done (refused 9))
          | some (i, r) =>
            if (pagesOf r.tile r.size).all (fun pg => match s.walk e.w.ctx (max r.tile (pg * 65536)) with
                | .ok x _ => x.w
                | .bad _ => false) then (s.setRecipe e.w.ctx i (some { r with framed := true, used := [] }), .done 0)
            else (s, .done (refused 12))⟩
  | _ => none

/-! ### Work and stage queues (R186 to R189, R241 to R246) -/

/-- The queue that a handle names for the warp's context (R241). -/
def queueIs (s : State) (e : Env) (a : Word) : Option (Nat × Queue) :=
  if fld a 63 10 ≠ 0 then none else (mget s.queues (fld a 9 0)).bind (fun q => if q.ctx = e.w.ctx then some (fld a 9 0, q) else none)
/-- A records operand: its count and its place in scratch, in range and aligned (R241). -/
def recsOk (s : State) (e : Env) (b : Word) : Prop :=
  fld b 63 29 = 0 ∧ fld b 23 22 = 0 ∧ fld b 21 0 % 64 = 0 ∧ ∃ g, mget s.wgs e.w.wg = some g ∧ fld b 21 0 + 64 * (fld b 28 24 + 1) ≤ g.size
/-- How many records a put takes: whole launch records only, on an entry queue (R242). -/
def putCount (q : Queue) (b : Word) : Nat := if q.role = .entry then (fld b 28 24 + 1) / 2 * 2 else fld b 28 24 + 1
/-- The QSTAT word of R245. -/
def queueWord : Option Queue → Word
  | none => 0x8000000000000000
  | some q => BitVec.ofNat 64 (bitN q.closed 63 + bitN q.bound.isSome 62 + bitN q.spill 61 + q.cap % 2 ^ 24 * 2 ^ 32 + countRecs q.items % 2 ^ 24)

/-- Launches, triggers, dependence and stage queues. -/
def workRow : Instr → Option URow
  | .launch pm md tb ta => some ⟨pm, 1, [ta, tb], false, fun s e a _ _ => scopeFree md s e ∧ recordAt s e a 128 false, fun s e a _ _ => recordRead s e a.toNat 128 false⟩
  | .trig pm => some ⟨pm, 0, [], false, fun s e _ _ _ => s.released (s.hallOf e.w) e.w.ctx 4 = true,
      fun s e _ _ _ => (match mget s.wgs e.w.wg with
        | some g => if g.triggered then s else { s with wgs := mset s.wgs e.w.wg { g with triggered := true },
                                                        grids := mupd s.grids g.gid (fun x => { x with triggered := sadd x.triggered g.num }) }
        | none => s, .quiet)⟩
  | .depwait pm tb ta => some ⟨pm, 0, [ta, tb], false, fun _ _ _ _ _ => True, fun s _ _ _ _ => (s, .waits .dep)⟩
  | .qput pm md tb ta => some ⟨pm, 2, [ta, tb], false,
      fun s e a b _ => scopeFree md s e ∧ recsOk s e b ∧ ∃ qn q, queueIs s e a = some (qn, q) ∧ q.closed = false ∧
        (putCount q b = 0 ∨ (s.memOf e.w.wg).scrPois (fld b 21 0) (64 * putCount q b) = false),
      fun s e a b _ => match queueIs s e a with
        | none => (s, .hold)
        | some (qn, q) =>
          if q.cap < countRecs q.items + putCount q b then (s.noteRefused e.wid e.w.ctx (s.stageGraph e.w) qn q, .done 0)
          else if putCount q b = 0 then (s, .done 0)
          else ((s.append qn q ((List.range (putCount q b)).map (fun i => BitVec.ofNat 512 ((s.memOf e.w.wg).scr (fld b 21 0 + 64 * i) 64))) md.toNat false).noteAccepted e.wid e.w.ctx
                (s.stageGraph e.w), .done (BitVec.ofNat 64 (putCount q b)))⟩
  | .qtake pm md tb ta => some ⟨pm, 2, [ta, tb], false, fun s e _ b _ => md ≠ 7 ∧ e.acqFree = true ∧ recsOk s e b,
      fun s e a b _ => match queueIs s e a with
        | none => (s, .done 0)
        | some (qn, _) => (s, .waits (.qtake qn (fld b 28 24 + 1) (fld b 21 0) md.toNat s.time))⟩
  | .qclose pm => some ⟨pm, 1, [], false, fun _ _ _ _ _ => True,
      fun s e a _ _ => match queueIs s e a with
        | none => (s, .quiet)
        | some (qn, q) => ({ s with queues := mset s.queues qn { q with closed := true } }, .quiet)⟩
  | .qstat pm tb ta => some ⟨pm, 1, [ta, tb], false, fun _ _ _ _ _ => True, fun s e a _ _ => (s, .done (queueWord ((queueIs s e a).map (·.2))))⟩
  | .qbind pm => some ⟨pm, 2, [], false,
      fun s e a b _ => e.w.modeNow = .supervisor ∧ e.acqFree = true ∧ ∃ qn q, queueIs s e a = some (qn, q) ∧ q.role = .stage ∧ (b = 0 ∨ recordAt s e b 64 true),
      fun s e a b _ => match queueIs s e a with
        | none => (s, .hold)
        | some (qn, q) => if b = 0 then ({ s with queues := mset s.queues qn { q with items := q.items ++ [.mark none] } }, .quiet) else recordRead s e b.toNat 64 true⟩
  | _ => none

end Sys2Proof.Claims

/-! ## Class U commands -/

/-- R81, R87 and R218: what `uApply` does to the frame of the slot. -/
def Obligations.CommandDelivery : Prop :=
  ∀ (s : State) (wid slot : Nat) (ts : List (BitVec 9)) (w : Warp) (lv : Level) (f : Frame), s.warp wid = some w → w.levels.head? = some lv → lv.frame = some f →
    f.mask ≠ 0 →
    (∀ v, ∃ g q, (s.uApply wid f.fid slot ts (.done v)).fidFrame wid f.fid = some g ∧ (∀ l ∈ lanesOf f.mask, g.doneIn slot l = true ∧ g.Holds ts l (.value v)) ∧
      (((s.uApply wid f.fid slot ts (.done v)).warp wid).bind (fun x => x.levels.head?.bind (fun y => y.recorded slot 64))) = some q ∧ q.t0 = some (.value v)) ∧
    (∃ g q, (s.uApply wid f.fid slot ts .quiet).fidFrame wid f.fid = some g ∧ (∀ l ∈ lanesOf f.mask, g.doneIn slot l = true) ∧
      (((s.uApply wid f.fid slot ts .quiet).warp wid).bind (fun x => x.levels.head?.bind (fun y => y.recorded slot 64))) = some q ∧ q.waiting = none) ∧
    (∀ c i, ∃ g, (s.uApply wid f.fid slot ts (.fail c i)).fidFrame wid f.fid = some g ∧
      (∀ l ∈ lanesOf f.mask, g.doneIn slot l = true ∧ g.Holds ts l (.poison (BitVec.ofNat 6 slot) c i)) ∧ (∃ l, (slot, l, .poison (BitVec.ofNat 6 slot) c i) ∈ g.spois)) ∧
    (∀ q, ∃ g, (s.uApply wid f.fid slot ts (.waits q)).fidFrame wid f.fid = some g ∧ (slot, q) ∈ g.waits ∧ g.toks = f.toks ∧ g.done = f.done)

/-- R178 to R184 and R385; the codes in the transaction and the answer, and MEMORY_POISON for a poisoned object, are log entry 40. -/
def Obligations.BarrierCommands : Prop :=
  URowHolds barRow ∧
  (∀ (s : State) (hall m : Nat) (x : Txn) (c : BCmd), s.powered = true → s.headTxn hall m true .atomic = some x → s.hostAbsent (x.pa / 128) = false → x.aop = 7 →
    lineBytes x.data 8 1 = c.code → x.pa % 128 + 16 ≤ 128 →
    let v := (s.galBytes x.pa 16 x.key).1
    let b := BitVec.ofNat 64 (lineBytes x.data 0 8)
    let o := barObj c 3 (lineBytes x.data 9 1) b (bobjOf v)
    let s1 := s.popTxn hall m true
    let reply (t : State) (l : Nat) : State := t.sendDown hall { x with type := .atomicResult, data := BitVec.ofNat 1024 l, mask := 0, pois := 0 }
    ((s.galBytes x.pa 16 x.key).2 = true → c ≠ .rewait → exec (.hlAtomic hall m) s = .next (close s (reply s1 (0x17 * 2 ^ 64)))) ∧
    ((s.galBytes x.pa 16 x.key).2 = false → c ≠ .init → c ≠ .rewait → ¬((bobjOf v).st = 1 ∧ (bobjOf v).scope = 3) →
      exec (.hlAtomic hall m) s = .next (close s (reply s1 (0x21 * 2 ^ 64)))) ∧
    ((s.galBytes x.pa 16 x.key).2 = false → c ≠ .rewait → barTakes c 3 b (bobjOf v) →
      (∃ t, exec (.hlAtomic hall m) s = .next t ∧ (t.galBytes x.pa 16 x.key).1 = barBytes c 3 (lineBytes x.data 9 1) b v % 2 ^ 128 ∧
        ((mget s.gal (x.pa / 128)).isSome = true → ∀ ln, ln ≠ x.pa / 128 → mget t.gal ln = mget s.gal ln) ∧
        ∀ aid a w f, barWaits c → s.byTag hall x.tag = some (aid, a) → s.warp a.wid = some w → s.fidFrame a.wid a.fid = some f →
          ∃ g, t.fidFrame a.wid a.fid = some g ∧ (a.slot, .bar 3 (BitVec.ofNat 64 a.va) (barPhase c b (bobjOf v)) (.gallery x.pa x.key) (ended o (barPhase c b (bobjOf v)))) ∈ g.waits) ∧
      (s.byTag hall x.tag = none ∨ ¬barWaits c → exec (.hlAtomic hall m) s = .next (close s (reply
        (({ s1.barSettle (fun _ => false) (.gallery x.pa x.key) o with bars := mset s1.bars x.pa x.key } : State).galWriteP (some x.ctx) (x.pa / 128) x.key
          (placeAt (barBytes c 3 (lineBytes x.data 9 1) b v) (x.pa % 128)) (byteMask (x.pa % 128) 16) 0 (some hall)) (barPhase c b (bobjOf v))))))) ∧
  (∀ (s : State) (aid : Nat) (a : Access) (c : BCmd) (line : Line) (pois : Bool), s.powered = true → mget s.accs aid = some a → a.stat = .got line pois → a.kind = .barrier c → a.scope = 0 →
    let s1 : State := { s with accs := mdel s.accs aid }
    let answered (o : UOut) : State := (s1.updFid a.wid a.fid (fun f => { f with waits := f.waits.filter (fun q => q.1 != a.slot) })).uApply a.wid a.fid a.slot
      (s1.targetsAt a.wid a.fid a.slot) o
    (lineBytes line 8 1 = 0 → (barWaits c → exec (.accessResponse aid) s = .next (close s s1)) ∧
      (c = .arrive → exec (.accessResponse aid) s = .next (close s (answered (.done (BitVec.ofNat 64 (lineBytes line 0 8)))))) ∧
      (c = .init ∨ c = .drop ∨ c = .expect → exec (.accessResponse aid) s = .next (close s (answered .quiet)))) ∧
    (lineBytes line 8 1 ≠ 0 → exec (.accessResponse aid) s = .next (close s (s.accPoison aid a (BitVec.ofNat 8 (lineBytes line 8 1)) a.va))))

/-- R226 to R238; an MWAIT of a follower that no leader's reservation covers delivers 0 at once by log entry 33. -/
def Obligations.MatrixCommands : Prop := URowHolds matrixRow

/-- R249, R250 and R398; the order of two refusals of one command is log entry 41. -/
def Obligations.RecipeCommands : Prop := URowHolds recipeRow

/-- R186 to R189 and R241 to R246; that the record of a LAUNCH may lie in the hall store window is log entry 41. -/
def Obligations.WorkAndQueueCommands : Prop := URowHolds workRow

namespace Sys2Proof.Claims
open Sys2Proof.Machine

/-! ### The copy engine (R218 to R225) -/

/-- The two ranges that a copy command names: its source from operand a, its destination from operand b (R220). -/
def copySrc (md : BitVec 3) (s : State) (e : Env) (a : Word) : CSide := s.side e.w e.lv (dirSrc md.toNat) a
def copyDst (md : BitVec 3) (s : State) (e : Env) (b : Word) : CSide := s.side e.w e.lv (dirDst md.toNat) b
/-- The pages of a global range, with the lowest byte in each; a range in scratch or tile memory has none. -/
def copyPages (g : CSide) (x : Word) (rows rb st : Nat) : List (Nat × Nat) := if g = .glob then rowPages x.toNat rows rb st else []
/-- The source's pages translate, and then the destination's (check 4 of R222). -/
def copyXlat (md : BitVec 3) (s : State) (e : Env) (a b c : Word) : (State × List Xlat × Option (BitVec 8 × Nat)) × (State × List Xlat × Option (BitVec 8 × Nat)) :=
  let h := shapeOf c
  let r := s.rowXlat (s.coreOf e.w) e.w.ctx (copyPages (copySrc md s e a) a h.rows h.rb h.ss)
  (r, r.1.rowXlat (s.coreOf e.w) e.w.ctx (copyPages (copyDst md s e b) b h.rows h.rb h.ds))
/-- Every check of R222 passes, its pages not being walked, and a channel is free; the acquire of the block is done. -/
def copyPre (md : BitVec 3) (s : State) (e : Env) (a b c : Word) : Prop :=
  let h := shapeOf c
  let x := copyXlat md s e a b c
  md ≠ 7 ∧ e.acqFree = true ∧ (s.core (s.coreOf e.w)).freeChan ≠ none ∧
    h.scope ≠ 7 ∧ h.cmpl ≠ 3 ∧ h.res0 = false ∧ (h.cmpl = 1 → dirDst md.toNat = .scr ∨ dirDst md.toNat = .win) ∧ a.toNat % 16 = 0 ∧ b.toNat % 16 = 0 ∧
    (copySrc md s e a).beyond a.toNat h.rows h.rb h.ss = none ∧ (copyDst md s e b).beyond b.toNat h.rows h.rb h.ds = none ∧
    (h.cmpl = 2 → (mget s.wgs e.w.wg).any (fun g => decide (16 * h.bar + 16 ≤ g.size)) = true) ∧
    (∀ p ∈ copyPages (copySrc md s e a) a h.rows h.rb h.ss ++ copyPages (copyDst md s e b) b h.rows h.rb h.ds,
      s.walkClear (s.coreOf e.w) e.w.ctx p.2 1 = true) ∧ x.1.2.2 = none ∧ x.2.2.2 = none ∧
    x.2.1.rowForbid x.1.2.1 e.w.ctx (copyPages (copySrc md s e a) a h.rows h.rb h.ss) .rd = none ∧
    x.2.1.rowForbid x.2.2.1 e.w.ctx (copyPages (copyDst md s e b) b h.rows h.rb h.ds) .wr = none ∧
    (copyDst md s e b = .glob → x.2.1.rowImmutable e.w.ctx b.toNat h.rows h.rb h.ds = none)
/-- The copy as its channel holds it: the shape word's fields, the two ranges and their translations, nothing moved yet. -/
def copyOf (md : BitVec 3) (s : State) (e : Env) (a b c : Word) : Copy :=
  let h := shapeOf c
  let x := copyXlat md s e a b c
  { wid := e.wid, wg := e.w.wg, ctx := e.w.ctx, dir := md.toNat, src := a.toNat - (copySrc md s e a).base, dst := b.toNat - (copyDst md s e b).base,
    srcWg := (copySrc md s e a).wgOr e.w.wg, dstWg := (copyDst md s e b).wgOr e.w.wg, scope := fld c 63 61, acq := c.getLsbD 60, rel := c.getLsbD 59,
    cmpl := fld c 58 57, bar := fld c 56 49, rows := fld c 48 37 + 1, rowBytes := 16 * (fld c 36 27 + 1), sstr := h.ss, dstr := h.ds, srcX := x.1.2.1,
    dstX := x.2.2.1, beat := 0, wait := none, failed := [], asked := [], got := [], fixed := false, dep := e.f.opDep e.slot 3 (leaderOf e.f.mask),
    id := x.2.1.nextId }
/-- The command (R220): the lowest free channel takes the copy. -/
def copyRow : Instr → Option URow
  | .cpy pm md => some ⟨pm, 3, [], false, copyPre md,
      fun s e a b c => match (s.core (s.coreOf e.w)).freeChan with
        | none => (s, .hold)
        | some ch => let s2 := (copyXlat md s e a b c).2.1
                     (({ s2 with nextId := s2.nextId + 1 } : State).updCore (s.coreOf e.w) (fun k => { k with chans := mset k.chans ch (copyOf md s e a b c) }), .quiet)⟩
  | _ => none

/-- The channel holds a copy that may move its next beat: rows are left, it waits for nothing, and its acquire is done. -/
def BeatDue (s : State) (core ch : Nat) (q : Copy) : Prop :=
  s.powered = true ∧ mget (s.core core).chans ch = some q ∧ q.beat < q.beats ∧ q.wait = none ∧
    (q.acq = true → q.beat = 0 → s.mayAcquire core q.scope = true)
/-- Where the next beat of a copy reads and writes: beats run row by row, 32 bytes each (R223). -/
def beatSrc (q : Copy) : Nat := q.src + q.beat / ((q.rowBytes + 31) / 32) * q.sstr + 32 * (q.beat % ((q.rowBytes + 31) / 32))
def beatDst (q : Copy) : Nat := q.dst + q.beat / ((q.rowBytes + 31) / 32) * q.dstr + 32 * (q.beat % ((q.rowBytes + 31) / 32))
/-- The beat is counted, and the lines that its requests brought have served. -/
def beatDone (s : State) (core ch : Nat) (q : Copy) : State := s.setChan core ch { q with beat := q.beat + 1, got := [] }
/-- The object of a counted copy after its completion (R181). -/
def counted (o : BObj) : BObj :=
  if o.st ≠ 1 then o else if o.pend - 1 < -8388608 then { o with st := 2 } else phased { o with pend := o.pend - 1 }

/-- The hall has taken one more write for a place in local memory: what it holds of the line shows it, and the Gallery has not seen it. -/
def Forwarded (s t : State) (hall p : Nat) (data : Line) (mask : BitVec 128) : Prop :=
  t.gal = s.gal ∧ t.mem = s.mem ∧ (∃ q, (t.hall hall).pend = (s.hall hall).pend ++ [q] ∧ q.pa = p ∧ q.data = data ∧ q.mask = mask) ∧
    ∀ c, mget (s.hall hall).cache (p / 128) = some c → ∃ d, mget (t.hall hall).cache (p / 128) = some d ∧ d.data = mergeLine c.data data mask

/-- A piece of a copy stands in workgroup memory: its sixteen bytes, and every other byte as it was. -/
def PieceAt (s t : State) (sp : Space) (w : Warp) (da v : Nat) : Prop :=
  (t.spaceRead w sp da 16).1 = v ∧ ∀ y, y < da ∨ da + 16 ≤ y → (t.spaceRead w sp y 1).1 = (s.spaceRead w sp y 1).1

/-! ### Waits that end -/

/-- The slot's wait of a frame instance of the warp. -/
def WaitsOn (s : State) (wid slot : Nat) (w : Warp) (fid : Nat) (q : Wait) : Prop :=
  s.powered = true ∧ s.warp wid = some w ∧ ∃ k, w.uWait slot = some (fid, k, q)
/-- The state after the answer to a waiting command: the wait is gone, and its outcome is delivered and recorded. -/
def waitGives (s : State) (wid fid slot : Nat) (o : UOut) : State :=
  (s.updFid wid fid (fun f => { f with waits := f.waits.filter (fun q => q.1 != slot) })).uApply wid fid slot (s.targetsAt wid fid slot) o
/-- The state after a wait ended, after which the warp uses no line read before. -/
def waitEnds (s : State) (wid fid slot : Nat) (o : UOut) : State :=
  waitGives (s.updWarp wid (fun w => { w with early := [], floor := w.floor.map (fun _ => s.stamp) })) wid fid slot o
/-- It ended with a value. -/
def waitDone (s : State) (wid fid slot : Nat) (v : Word) : State := waitEnds s wid fid slot (.done v)

end Sys2Proof.Claims

/-! ## The copy engine and the waits -/

/-- R218 to R225. That a beat reads through the hall cache is log entry 17, that its pieces go by the old or the new translation log entry 26, and that a
releasing copy's full bits come with its completion log entry 39. -/
def Obligations.CopyEngine : Prop :=
  URowHolds copyRow ∧
  (∀ (s : State) (core ch : Nat) (q : Copy) (s1 : State) (v : Nat) (p : Bool) (marks : List Bool), BeatDue s core ch q → q.pieces = 1 →
    s.copyRead core q (beatSrc q) = (s1, .data v p, marks) →
    exec (.copyBeat core ch) s = .next (close s (beatDone (s1.copyWrite core q (beatDst q) v marks) core ch q))) ∧
  (∀ (s : State) (core ch : Nat) (q : Copy) (s1 s2 : State) (v1 v2 : Nat) (p1 p2 : Bool) (m1 m2 : List Bool), BeatDue s core ch q → q.pieces = 2 →
    s.copyRead core q (beatSrc q) = (s1, .data v1 p1, m1) → s1.copyRead core q (beatSrc q + 16) = (s2, .data v2 p2, m2) →
    (dirDst q.dir ≠ .glob ∨ beatDst q % 32 ≠ 0 → exec (.copyBeat core ch) s =
      .next (close s (beatDone ((s2.copyWrite core q (beatDst q) v1 m1).copyWrite core q (beatDst q + 16) v2 m2) core ch q))) ∧
    (∀ pa key, dirDst q.dir = .glob → beatDst q % 32 = 0 → s2.copyPhys q q.dstX .wr (beatDst q) = some (pa, key) →
      s2.copyPhys q q.dstX .wr (beatDst q + 16) = some (pa + 16, key) → exec (.copyBeat core ch) s =
        .next (close s (beatDone (s2.copyPut core q (beatDst q) 32 (v1 + v2 * 2 ^ 128) pa key ((m1 ++ m2).any id)) core ch q)))) ∧
  (∀ (s : State) (core ch : Nat) (q : Copy) (s1 : State) (i ln : Nat) (m : List Bool), BeatDue s core ch q → q.pieces = 1 →
    s.copyRead core q (beatSrc q) = (s1, .miss i ln, m) →
    exec (.copyBeat core ch) s = .next (close s ((s1.setChan core ch { q with wait := some (i, ln) }).spawnSlice q.ctx i core))) ∧
  (∀ (s : State) (core ch : Nat) (q : Copy) (s1 : State) (pa key : Nat) (m : List Bool), BeatDue s core ch q → q.pieces = 1 →
    s.copyRead core q (beatSrc q) = (s1, .ask pa key, m) → s.copyAsked core q (beatSrc q) = false → s.coreNext core = true →
    exec (.copyBeat core ch) s = .next (close s (s1.copyAsk core ch q (beatSrc q) pa key))) ∧
  (∀ (s : State) (core : Nat) (q : Copy) (w : Warp) (g : Wg) (da v : Nat) (marks : List Bool), mget s.wgs q.dstWg = some g → da % 16 = 0 → v < 2 ^ 128 →
    (dirDst q.dir = .scr ∨ dirDst q.dir = .win → PieceAt s (s.copyWrite core q da v marks) (.scratch q.dstWg) w da v ∧
      (∀ k < 2, ((s.copyWrite core q da v marks).memOf q.dstWg).scrPois (da + 8 * k) 8 = (marks.getD (2 * k) false || marks.getD (2 * k + 1) false)) ∧
      (if q.cmpl = 1 ∧ (q.rel = false ∨ q.scope = 0) ∧ ¬(q.beat / ((q.rowBytes + 31) / 32) + 1 < q.rows ∧ q.dst + (q.beat / ((q.rowBytes + 31) / 32) + 1) * q.dstr ≤ da)
        then ((s.copyWrite core q da v marks).memOf q.dstWg).isFull da = true
        else ∀ y, ((s.copyWrite core q da v marks).memOf q.dstWg).isFull y = (s.memOf q.dstWg).isFull y)) ∧
    (dirDst q.dir = .tile → PieceAt s (s.copyWrite core q da v marks) (.tile q.dstWg) w da v ∧
      ∀ k < 4, ((s.copyWrite core q da v marks).memOf q.dstWg).tilePois (da + 4 * k) 4 = marks.getD k false)) ∧
  (∀ (s : State) (core : Nat) (q : Copy) (da n v pa key p : Nat) (marks : List Bool), dirDst q.dir = .glob → s.home pa = .dev p → p % 128 = pa % 128 → pa % 128 + n ≤ 128 →
    (s.copyPhys q q.dstX .wr da = some (pa, key) → n = 16 → s.copyWrite core q da v marks = s.copyPut core q da 16 v pa key ((marks.take 4).any id)) ∧
    ∀ bad, Forwarded s (s.copyPut core q da n v pa key bad) (hallOfCore core) p (placeAt v (pa % 128)) (byteMask (pa % 128) n) ∧
      (∃ x ∈ ((s.copyPut core q da n v pa key bad).hall (hallOfCore core)).pend, x.copy = q.id ∧ x.pa = p ∧
        x.pois = if bad = true then sectTouched (byteMask (pa % 128) n) else 0) ∧
      mget ((s.copyPut core q da n v pa key bad).core core).l1 (pa / 128) = none) ∧
  (∀ (s : State) (q : Copy) (g : Wg) (r i : Nat), mget s.wgs q.dstWg = some g → q.cmpl = 1 → q.rel = true → q.scope ≠ 0 → q.dst % 16 = 0 → q.dstr % 16 = 0 →
    r < q.rows → i < q.rowBytes / 16 → ((s.copyFills q).memOf q.dstWg).isFull (q.dst + r * q.dstr + 16 * i) = true) ∧
  (∀ (s : State) (core ch : Nat) (q : Copy), s.powered = true → mget (s.core core).chans ch = some q → q.beat = q.rows * ((q.rowBytes + 31) / 32) →
    s.copyReleased core q = true →
    let s1 : State := (s.copyFills q).updCore core (fun c => { c with chans := mdel c.chans ch })
    let v := (s.memOf q.wg).scr (16 * q.bar) 16
    let s2 : State := if q.cmpl = 2 ∧ (bobjOf v).st = 1 then
      (s1.barSettle (fun _ => false) (.space (.scratch q.wg) (16 * q.bar)) (counted (bobjOf v))).updMem q.wg (fun m => m.scrPut (16 * q.bar) 16 (bobjBytes (counted (bobjOf v)) v))
      else s1
    exec (.copyComplete core ch) s = .next (close s (((s2.reap q.wg).reap q.srcWg).reap q.dstWg)))

/-- R181 to R184, R189, R218, R235, R243 and R356; what an end orders after it is R256 by log entry 38. -/
def Obligations.WaitsEnd : Prop :=
  (∀ (s : State) (wid slot : Nat) (w : Warp) (fid sc : Nat) (a : Word) (phase : Nat) (h : BHome) (past : Option (Nat × Bool)),
    WaitsOn s wid slot w fid (.bar sc a phase h past) → s.mayAcquire (s.coreOf w) (sc + 1) = true → (∀ p ∈ s.accs, ¬(p.2.wid = wid ∧ p.2.fid = fid ∧ p.2.slot = slot)) →
    let r (t : State) : State := match h with
      | .space (.scratch g) _ => t.reap g
      | _ => t
    (∀ p, past.or (ended (bobjOf (s.bread w h).1) phase) = some (p, false) → exec (.barrierWaitEnd wid slot) s =
      .next (close s (r (waitDone (s.acquire wid (sc + 1)) wid fid slot (BitVec.ofNat 64 p))))) ∧
    (∀ p, past.or (ended (bobjOf (s.bread w h).1) phase) = some (p, true) → exec (.barrierWaitEnd wid slot) s =
      .next (close s (r (waitEnds (s.acquire wid (sc + 1)) wid fid slot (.fail 0x21 a)))))) ∧
  (∀ (s : State) (wid slot : Nat) (w : Warp) (fid core rid upto v : Nat), WaitsOn s wid slot w fid (.mwait core rid upto v) →
    (∀ r ∈ (s.core core).mres, r.rid = rid → past32 r.complete upto = true) →
    exec (.mwaitEnd wid slot) s = .next (close s (waitDone s wid fid slot (BitVec.ofNat 64 v)))) ∧
  (∀ (s : State) (wid slot : Nat) (w : Warp) (fid qn n x scope since : Nat) (q : Queue), WaitsOn s wid slot w fid (.qtake qn n x scope since) → mget s.queues qn = some q →
    (scope ≠ 0 → s.mayAcquire (s.coreOf w) scope = true) →
    (q.items = [] ∧ q.closed = true ∨ q.ctx ≠ w.ctx → exec (.qtakeWaitEnd wid slot) s = .next (close s (waitDone s wid fid slot 0))) ∧
    (∀ r sc t hp l, q.ctx = w.ctx → q.items = .rcd r sc t hp :: l → n = 1 →
      let t : State := { s with queues := mupd s.queues qn (fun q => { q with items := l }) }
      let u : State := if q.role = .alcove then (match (if q.cap ≤ 2 * countRecs q.items ∧ 2 * (countRecs q.items - 1) < q.cap then t.alcoveVec qn else none) with
        | some v => t.msix v
        | none => t).alcoveMoveAll qn else t
      exec (.qtakeWaitEnd wid slot) s = .next (close s (waitDone (((u.updMem w.wg (fun m => m.scrPut x 64 r.toNat)).progress q).acquire wid scope) wid fid slot 1)))) ∧
  (∀ (s : State) (wid slot : Nat) (w : Warp) (fid : Nat) (g : Grid), WaitsOn s wid slot w fid .dep → s.gridOf w = some g → s.depsComplete w.ctx g.lr = true →
    s.mayAcquire (s.coreOf w) 4 = true →
    exec (.depwaitEnd wid slot) s = .next (close s (waitDone (s.acquire wid 4) wid fid slot 0))) ∧
  (∀ (s : State) (wid slot : Nat) (w : Warp) (fid : Nat) (lv : Level) (f : Frame) (s1 : State) (o : UOut) (k : Env → State → Word → Word → Word → State × UOut),
    WaitsOn s wid slot w fid .space → w.levelOf fid = some lv → lv.frame = some f → spacePerform (f.word slot) = some k →
    k ⟨wid, slot, w, lv, f⟩ s (f.opVal 0 slot (leaderOf f.mask)) (f.opVal 1 slot (leaderOf f.mask)) (f.opVal 2 slot (leaderOf f.mask)) = (s1, o) →
    o ≠ .hold → o ≠ .waits .space → exec (.engineQueueSpace wid slot) s = .next (close s (waitEnds s1 wid fid slot o)))

namespace Sys2Proof.Claims
open Sys2Proof.Machine

/-- A 128-byte launch record breaks a form of R319 and R320, for a grid that would get number `seq` (reason 0x01). -/
def LaunchBad (v seq : Nat) : Prop :=
  (∃ x ∈ [(0, 63, 57), (0, 3, 0), (8, 63, 48), (16, 63, 56), (16, 47, 42), (16, 31, 21), (24, 63, 57), (24, 22, 0), (32, 63, 57), (32, 10, 0), (88, 63, 2),
    (96, 63, 57), (96, 2, 0), (104, 63, 0), (112, 63, 0), (120, 63, 0)], recFld v x.1 x.2.1 x.2.2 ≠ 0) ∨
  recFld v 8 15 0 = 0 ∨ recFld v 8 31 16 = 0 ∨ recFld v 8 47 32 = 0 ∨ 128 < recFld v 16 55 48 ∨ 1008 < recFld v 16 41 32 ∨ 16 < recFld v 16 20 16 ∨
  recFld v 16 4 0 = 0 ∨ 24 < recFld v 16 4 0 ∨ recFld v 8 15 0 * recFld v 8 31 16 * recFld v 8 47 32 % (recFld v 16 10 8 + 1) ≠ 0 ∨
  (recFld v 16 6 5 = 3 ∧ recFld v 16 4 0 % 2 = 1) ∨ (recFld v 16 7 7 = 1 ∧ recFld v 16 10 8 % 2 = 0) ∨
  (∃ n < 16, recFld v (40 + 2 * n) 15 15 = 0 ∧ recFld v (40 + 2 * n) 14 0 ≠ 0) ∨ (recFld v 88 1 1 = 1 ∧ recFld v 96 56 3 = 0) ∨
  (recFld v 72 63 0 ≠ 0 ∧ seq ≤ recFld v 72 63 0) ∨ (recFld v 80 63 0 ≠ 0 ∧ seq ≤ recFld v 80 63 0)
/-- What a grid takes from its record (R319), but for what a stage grid does not (R247). -/
def TakesRecord (g : Grid) (v : Nat) : Prop :=
  g.lr.entry = 16 * recFld v 0 56 4 ∧ g.lr.hstore = recFld v 16 55 48 ∧ g.lr.scratch = 4096 * recFld v 16 41 32 ∧ g.lr.tiles = recFld v 16 20 16 ∧
    g.lr.prio = recFld v 16 15 14 ∧ g.lr.width = (if recFld v 16 6 5 = 1 then 16 else if recFld v 16 6 5 = 3 then 64 else 32) ∧ g.lr.warps = recFld v 16 4 0 ∧
    g.lr.hsbase = 0x800000 * recFld v 24 56 23 ∧ g.lr.cbase = 2048 * recFld v 32 56 11 ∧ (∀ n < 16, (g.lr.banks.extractLsb' (16 * n) 16).toNat = recFld v (40 + 2 * n) 15 0) ∧
    g.lr.dep0 = recFld v 72 63 0 ∧ g.lr.dep1 = recFld v 80 63 0 ∧ (g.lr.notify = true ↔ recFld v 88 1 1 = 1) ∧ (g.lr.early = true ↔ recFld v 88 0 0 = 1) ∧
    g.lr.caddr = 8 * recFld v 96 56 3

/-- The first test of R398 that fails after the image has been read, by its refusal code. -/
def recdefCode (c : Ctx) (a : Word) (img : Rec64) : Option Nat :=
  let tile := 4096 * (img.extractLsb' 12 45).toNat
  let size := 2 ^ (12 + (img.extractLsb' 0 4).toNat)
  if 65536 ≤ a.toNat ∨ c.cfg.recipeCount ≤ a.toNat then some 0x09
  else if (mget c.recipes a.toNat).isSome then some 0x01
  else if imgBad img then some 0x02
  else if c.pins.any (fun p => overlaps tile size p.1 p.2) || c.recipes.any (fun p => overlaps tile size p.2.tile p.2.size) then some 0x03
  else if (imgRanges img).any (fun x => match x with
    | some (b, n) => !(c.pins.any (fun p => inside b n p.1 p.2) || c.recipes.any (fun p => inside b n p.2.tile p.2.size))
    | none => false) then some 0x04
  else if 7 < c.levelOf (imgRanges img) ∨ (c.srcRecipes (imgRanges img)).any (fun j => decide (((mget c.recipes j).map (·.pinned)).getD 0 = 255)) then some 0x02
  else none

end Sys2Proof.Claims

/-! ## How accesses, engines and slices end -/

/-- R186, R187, R190, R192, R193, R202, R246, R284 to R287, R306, R316, R319, R320, R361 and R398; that a grid refused for two reasons gives 0x03 before 0x02
is log entry 25. -/
def Obligations.AccessEnds : Prop :=
  (∀ (s : State) (ctx page aid : Nat) (a : Access), s.powered = true → ({ ctx := ctx, page := page } : Walk) ∈ s.walks.take 512 → s.parkedOn ctx page = [(aid, a)] →
    let s1 : State := { s with walks := s.walks.filter (· != { ctx := ctx, page := page }) }
    (∀ x used, s.walk ctx (page * 65536) = .ok x used →
      exec (.translationWalkDone ctx page) s = .next (close s ((((s1.tlbFill (s1.accCore a) x).walkFill ctx used).accStep aid a).enterWalks))) ∧
    (∀ c, s.walk ctx (page * 65536) = .bad c →
      exec (.translationWalkDone ctx page) s = .next (close s ((s1.accPoison aid a c (max a.va (page * 65536))).enterWalks)))) ∧
  (∀ (s : State) (aid : Nat) (a : Access) (w : Warp) (lv : Level) (f : Frame) (md : BitVec 3) (line : Line) (pois : Bool), s.powered = true → mget s.accs aid = some a →
    a.stat = .got line pois → a.lane < 64 → a.kind = .load md → s.warp a.wid = some w → w.levels.head? = some lv → lv.frame = some f → f.fid = a.fid →
    s.readsOnce a.wid a.fid a.slot = false → a.va % 128 + a.size ≤ 128 → a.size = szBytes md → f.storesBelow a.mos a.lane .global = [] →
    (scopeDev a.scope = true → s.invsApplied (hallOfCore (s.coreOf w)) a.seen = true) →
    ∃ t g, exec (.accessResponse aid) s = .next t ∧ t.fidFrame a.wid a.fid = some g ∧ g.doneIn a.slot a.lane = true ∧ mget t.accs aid = none ∧
      g.Holds (f.targets a.slot) a.lane (if pois then .poison (BitVec.ofNat 6 a.slot) 0x17 (BitVec.ofNat 64 a.va) else .value (loaded md (lineBytes line (a.va % 128) a.size))) ∧
      t.gal = s.gal ∧ t.wgs = s.wgs) ∧
  (∀ (s : State) (aid : Nat) (a : Access) (w : Warp) (lv : Level) (f : Frame) (op : BitVec 3) (w64 cas f32 red : Bool) (line : Line), s.powered = true →
    mget s.accs aid = some a → a.stat = .got line false → a.lane < 64 → a.kind = .atomic op w64 cas f32 red → s.warp a.wid = some w → w.levels.head? = some lv → lv.frame = some f →
    f.fid = a.fid → (scopeDev a.scope = true → s.invsApplied (hallOfCore (s.coreOf w)) a.seen = true) →
    ∃ t g x q, exec (.accessResponse aid) s = .next t ∧ t.fidFrame a.wid a.fid = some g ∧ g.doneIn a.slot a.lane = true ∧ mget t.accs aid = none ∧
      g.Holds (f.targets a.slot) a.lane (.value (BitVec.ofNat 64 (lineBytes line 0 a.size))) ∧
      t.warp a.wid = some x ∧ x.levels.head?.bind (fun y => y.recorded a.slot a.lane) = some q ∧ q.t0 = some (.value (BitVec.ofNat 64 (lineBytes line 0 a.size)))) ∧
  (∀ (s : State) (aid : Nat) (a : Access) (w : Warp) (f : Frame) (line : Line) (step : Nat) (eng : Bool), s.powered = true → mget s.accs aid = some a → a.stat = .got line false →
    a.kind = .record step eng → a.scope = 0 → s.warp a.wid = some w → s.fidFrame a.wid a.fid = some f →
    let u : State := { s with accs := mdel s.accs aid }
    let v := lineBytes line (a.va % 128) a.size
    let x := f.opVal 0 a.slot a.lane
    let gives (p : State × UOut) : Prop := exec (.accessResponse aid) s = .next (close s (waitGives p.1 a.wid a.fid a.slot p.2))
    ((fOp (f.word a.slot)).toNat = 0x110 → gives (u.launchWith w.ctx v (fMd (f.word a.slot)).toNat)) ∧
    ((fOp (f.word a.slot)).toNat = 0x0E0 → gives (u.recdefWith w.ctx x (BitVec.ofNat 512 v))) ∧
    ((fOp (f.word a.slot)).toNat = 0x11C → step = 1 → gives (u.bindWith w.ctx (x.toNat % 1024) a.b v)) ∧
    ((fOp (f.word a.slot)).toNat = 0x11C → step ≠ 1 → recFld v 8 63 48 ≠ 0 ∨ recFld v 8 15 5 ≠ 0 ∨ (∃ k < 48, recFld v (16 + k) 7 0 ≠ 0) ∨ recFld v 0 63 0 % 128 ≠ 0 →
      gives (u, .fail 0x32 0xFFF))) ∧
  (∀ (s : State) (ctx v scope : Nat) (c : Ctx), mget s.ctxs ctx = some c → v < 2 ^ 1024 →
    (LaunchBad v c.nextSeq → s.launchWith ctx v scope = (s, .done 0x8000000000000001)) ∧
    (¬LaunchBad v c.nextSeq → s.launchNoRoom (launchRecOf v) = true → s.launchWith ctx v scope = (s, .done 0x8000000000000003)) ∧
    (¬LaunchBad v c.nextSeq → s.launchNoRoom (launchRecOf v) = false → 256 ≤ s.queued ctx → s.launchWith ctx v scope = (s, .done 0x8000000000000002)) ∧
    (¬LaunchBad v c.nextSeq → s.launchNoRoom (launchRecOf v) = false → s.queued ctx < 256 → ∃ g : Grid,
      s.launchWith ctx v scope = ({ s with nextId := s.nextId + 1, grids := mset s.grids s.nextId g, ctxs := mset s.ctxs ctx { c with nextSeq := c.nextSeq + 1 } },
        .done (BitVec.ofNat 64 (c.nextSeq % 2 ^ 63))) ∧
      g.ctx = ctx ∧ g.seq = c.nextSeq ∧ g.kind = .plain ∧ g.acqScope = scope ∧ g.handed = 0 ∧ TakesRecord g v ∧ g.lr.gx = recFld v 8 15 0 ∧ g.lr.gy = recFld v 8 31 16 ∧
      g.lr.gz = recFld v 8 47 32 ∧ g.lr.gang = recFld v 16 10 8 + 1 ∧ g.lr.halls = recFld v 16 13 11 + 1 ∧ (g.lr.pairpl = true ↔ recFld v 16 7 7 = 1))) ∧
  (∀ (s : State) (ctx qn : Nat) (w8 : Word) (v : Nat) (q : Queue) (c : Ctx), mget s.queues qn = some q → mget s.ctxs ctx = some c → v < 2 ^ 1024 →
    (q.ctx ≠ ctx → s.bindWith ctx qn w8 v = (s, .fail 0x24 (BitVec.ofNat 64 qn))) ∧
    (q.ctx = ctx →
      let small := recFld v 16 41 32 < (64 * ((w8.extractLsb' 0 5).toNat + 1) + 8 + 4095) / 4096
      (LaunchBad v c.nextSeq ∨ s.launchNoRoom (launchRecOf v) = true ∨ small → s.bindWith ctx qn w8 v = (s, .fail 0x32 0xFFF)) ∧
      (¬LaunchBad v c.nextSeq → s.launchNoRoom (launchRecOf v) = false → ¬small → ∃ (g : Grid) (b : Binding),
        let q1 : Queue := { q with bindings := mset q.bindings q.nextMark b, nextMark := q.nextMark + 1, items := q.items ++ [.mark (some q.nextMark)] }
        s.bindWith ctx qn w8 v = ({ s with nextId := s.nextId + 1, grids := mset s.grids s.nextId g, ctxs := mset s.ctxs ctx { c with nextSeq := c.nextSeq + 1 }, queues := mset s.queues qn q1 }, .quiet) ∧
        g.ctx = ctx ∧ g.seq = c.nextSeq ∧ g.kind = .stage qn ∧ TakesRecord g v ∧ g.lr.gx = 0 ∧ g.lr.gy = 1 ∧ g.lr.gz = 1 ∧ g.lr.gang = 1 ∧ g.lr.halls = 1 ∧
        b.gid = s.nextId ∧ b.batch = (w8.extractLsb' 0 5).toNat + 1 ∧ b.linger = (w8.extractLsb' 16 16).toNat ∧ b.maxwg = (w8.extractLsb' 32 16).toNat))) ∧
  (∀ (s : State) (ctx : Nat) (a : Word) (img : Rec64) (c : Ctx), mget s.ctxs ctx = some c →
    (∀ k, recdefCode c a img = some k → s.recdefWith ctx a img = (s, .done (BitVec.ofNat 64 (2 ^ 63 + k)))) ∧
    (recdefCode c a img = none → ∃ t r c1, s.recdefWith ctx a img = (t, .done 0) ∧ mget t.ctxs ctx = some c1 ∧ mget c1.recipes a.toNat = some r ∧
      r.tile = 4096 * (img.extractLsb' 12 45).toNat ∧ r.size = 2 ^ (12 + (img.extractLsb' 0 4).toNat) ∧ r.entry = 16 * (img.extractLsb' 68 53).toNat ∧
      r.srcs = imgRanges img ∧ r.param0 = img.extractLsb' 256 64 ∧ r.param1 = img.extractLsb' 320 64 ∧ r.crc = img.extractLsb' 384 64 ∧
      r.warps = (img.extractLsb' 456 1).toNat + 1 ∧ r.depth = c.levelOf (imgRanges img) ∧ r.mat = false ∧ r.framed = false ∧ r.run = false ∧ r.pinned = 0 ∧ r.present = [] ∧
      r.entryBytes = (img.extractLsb' 0 448).toNat + (2 ^ 63 + c.levelOf (imgRanges img) * 2 ^ 56 + (img.extractLsb' 456 1).toNat * 2 ^ 8) * 2 ^ 448 ∧
      ∀ j q, mget c.recipes j = some q → ∃ p, mget c1.recipes j = some p ∧ p.tile = q.tile ∧ p.pinned = q.pinned + if j ∈ c.srcRecipes (imgRanges img) then 1 else 0))

namespace Sys2Proof.Claims
open Sys2Proof.Machine

/-- An element format of the matrix engine (R70, R118): its code among the formats of `UNPACK`, its bits, and the products of a K-step;
whether it is an integer format, and whether its products are scaled. -/
structure MFormat where
  code : BitVec 3
  bits : Nat
  products : Nat
  int : Bool
  scaled : Bool
/-- The formats of `MMA` (0 to 2) and of `MMAN` and `MMANP` (4 to 7). -/
def mformat : Nat → Option MFormat
  | 0 => some ⟨1, 16, 16, false, false⟩
  | 1 => some ⟨0, 16, 16, false, false⟩
  | 2 => some ⟨5, 8, 32, true, false⟩
  | 4 => some ⟨2, 8, 32, false, true⟩
  | 5 => some ⟨3, 8, 32, false, true⟩
  | 6 => some ⟨4, 4, 32, false, true⟩
  | 7 => some ⟨6, 4, 32, true, false⟩
  | _ => none

end Sys2Proof.Claims

/-- R228 to R239 and R269. -/
def Obligations.MatrixEngine : Prop :=
  (∀ (s : State) (core : Nat) (r : MRes) (o : MOp), s.powered = true → (s.core core).nextOp = some (r, o) → s.opMayRun core o = true → o.kdone + 1 < o.ktot →
    exec (.matrixKstepDone core) s = .next (close s ((s.kstep r.wg o).updCore core (fun c => { c with mres := c.mres.map (fun x =>
      if x.rid = r.rid then { x with ops := x.ops.map (fun q => if q.order = o.order then { q with kdone := q.kdone + 1 } else q) } else x) })))) ∧
  (∀ (s : State) (core : Nat) (r : MRes) (o : MOp), s.powered = true → (s.core core).nextOp = some (r, o) → s.opMayRun core o = true → o.ktot ≤ o.kdone + 1 →
    o.pair = none →
    exec (.matrixOpRetire core) s = .next (close s (((s.kstep r.wg o).updCore core (fun c => (c.updRes r.rid (fun x =>
      ({ x with ops := x.ops.filter (fun q => q.order != o.order) } : MRes).settle)).freeRes)).reap r.wg)) ∧
    ∀ g a, mget s.wgs r.wg = some g → g.ended = false → o.zero = true → 16384 * o.tile ≤ a → a + 4 ≤ 16384 * o.tile + 16384 → a % 4 = 0 →
      ∃ t, exec (.matrixOpRetire core) s = .next t ∧ (t.memOf r.wg).tile a 4 = 0) ∧
  (∀ (s : State) (core : Nat) (r : MRes) (o : MOp) (f : Nat), s.powered = true → (s.core core).nextOp = some (r, o) → s.opMayRun core o = true → o.ktot ≤ o.kdone + 1 →
    o.pair = some f →
    let s1 : State := (s.kstep r.wg o).updCore core (fun c => (c.updRes r.rid (fun x => ({ x with ops := x.ops.filter (fun q => q.order != o.order) } : MRes).settle)).freeRes)
    exec (.matrixOpRetire core) s = .next (close s (((match o.slave with
      | some i => s1.updCore (core + 1) (fun c => (c.updRes i (fun x => { x with slaved := x.slaved - 1 })).freeRes)
      | none => s1).reap f).reap r.wg))) ∧
  (∀ (s : State) (wg : Nat) (o : MOp) (g : Wg), mget s.wgs wg = some g → o.zero = false →
    (o.pair ≠ some wg → (s.kstep wg o).memOf wg = kTile o (s.memOf wg) (s.memOf wg) (s.memOf wg)) ∧
    (∀ f h, o.pair = some f → f ≠ wg → mget s.wgs f = some h → (s.kstep wg o).memOf f = kTile o (s.memOf f) (s.memOf wg) (s.memOf f)) ∧
    ∀ x, x ≠ wg → o.pair ≠ some x → (s.kstep wg o).memOf x = s.memOf x) ∧
  (∀ (s : State) (wid : Nat) (w : Warp) (f : Frame) (v : Vec) (c : Ctx) (entry : Nat), s.powered = true → s.warp wid = some w → w.frame = some f → f.vec = some v →
    v.drain = true → w.stat = .ready → mget s.ctxs w.ctx = some c → c.cfg.emu = some entry → s.drained w = true →
    ∃ t x lv, exec (.emuMatrixDrainDone wid) s = .next t ∧ t.warp wid = some x ∧ x.levels.head? = some lv ∧ x.levels.length = w.levels.length + 1 ∧ lv.kind = .emu ∧
      lv.pc = BitVec.ofNat 64 entry ∧ lv.mask = f.mask ∧ lv.win = f.window v.slot v.cause v.mask (w.depth + 1) ∧ lv.frame = none ∧ x.regs = w.regs ∧ x.mode = w.mode) ∧
  (∀ (o : MOp) (am bm dm : WgMem) (q : MFormat), mformat o.fmt = some q → ∀ i < 64, ∀ j < 64,
    let k := 4096 * o.tile + 64 * i + j
    let old := (mgetD dm.elems k 0).toNat
    let new := (mgetD (kTile o am bm dm).elems k 0).toNat
    let n := q.products * q.bits / 8
    ((kTile o am bm dm).epois.contains k = (am.scrPois (o.aAddr + i * o.aStride + o.kdone * n) n || bm.scrPois (o.bAddr + j * o.bStride + o.kdone * n) n || dm.epois.contains k)) ∧
    let a (t : Nat) : Sys2Proof.Machine.Num := (elemNum q.code (am.scr (o.aAddr + i * o.aStride + o.kdone * n) n / 2 ^ (q.bits * t) % 2 ^ q.bits)).1
    let b (t : Nat) : Sys2Proof.Machine.Num := (elemNum q.code (bm.scr (o.bAddr + j * o.bStride + o.kdone * n) n / 2 ^ (q.bits * t) % 2 ^ q.bits)).1
    let scale (byte l : Nat) : Sys2Proof.Machine.Num := (elemNum 7 ((mgetD o.scales (l % 32) 0).toNat / 2 ^ (8 * (byte + l / 32)) % 256)).1
    if q.int then (new : Int) = ((intNum 32 old).int + ((List.range q.products).map (fun t => (a t).int * (b t).int)).sum) % 2 ^ 32
    else if q.scaled then RoundsTo fp32 0 false new (Num.sum false ((elemNum q.code 0).2 ^ 2 * 2 ^ 66)
      ((fp32.num false old).finer ((elemNum q.code 0).2 ^ 2 * 2 ^ 66) ::
        (List.range q.products).map (fun t => ((((scale 0 i).times (scale 2 j)).times (a t)).times (b t)).finer fp32.one)))
    else RoundsTo fp32 0 false new (Num.sum false ((elemNum q.code 0).2 ^ 2)
      ((fp32.num false old).finer ((elemNum q.code 0).2 ^ 2) :: (List.range q.products).map (fun t => ((a t).times (b t)).finer fp32.one)))) ∧
  (∀ (o : MOp) (am bm dm : WgMem) (k : Nat), k < 4096 * o.tile ∨ 4096 * o.tile + 4096 ≤ k → mget (kTile o am bm dm).elems k = mget dm.elems k)

/-- R251, R289 to R293, R304 and R310; that the slices of every level may use 32 MiB of staging is the model's choice (log entry 31). -/
def Obligations.SlicesAndLines : Prop :=
  (∀ pm s e a b c x, At s e → e.Performs pm 1 a b c → (s.dispatched e).sliceOf e.w.wg = some x → a.toNat = x.idx →
    (s.dispatched e).released (s.hallOf e.w) e.w.ctx 4 = true →
    let x1 : Slice := { x with doneWids := sadd x.doneWids e.wid }
    let s1 : State := { s.dispatched e with slices := s.slices.map (fun y => if y.ctx = x.ctx ∧ y.idx = x.idx then x1 else y) }
    exec (.recdone pm) s = .next (close s ((if x1.wgs.length ≤ x1.doneWids.length then s1.sliceCheck x1 else s1).uApply e.wid e.f.fid e.slot [] .quiet))) ∧
  (∀ (s : State) (ctx idx k : Nat) (x : Slice) (c : Ctx) (r : Recipe), s.powered = true → s.slices.find? (fun y => y.ctx == ctx && y.idx == idx && !y.placed) = some x →
    mget s.ctxs ctx = some c → mget c.recipes idx = some r → s.sliceCluster x r.warps c.savedHalls = some k → k < 104 →
    (∀ y ∈ s.slices, y.placed = false → y.band = x.band → x.order ≤ y.order) → s.stagingUsed x.band + r.size ≤ 33554432 →
    exec (.recipeSlicePlace ctx idx) s = .next (close s (s.sliceStart x r ((s.bandFree k x.band).take r.warps)))) ∧
  (∀ (s : State) (line : Nat) (g : GLine), s.powered = true → s.hbmq = [] → s.tileAt line = none → mget s.gal line = some g →
    hostLine line = false →
    ∃ t, exec (.galleryEvict line) s = .next t ∧ mget t.gal line = none ∧ (∀ ln, ln ≠ line → mget t.gal ln = mget s.gal ln) ∧
      (g.dirty = false → t.mem = s.mem) ∧ (g.dirty = true → ∀ i < 128, memGet t.mem (128 * line + i) = lineByte g.data i) ∧
      ∀ a, a / 128 ≠ line → memGet t.mem a = memGet s.mem a) ∧
  (∀ (s : State) (line ctx i k key : Nat) (c : Ctx) (r : Recipe), s.powered = true → s.hbmq = [] → s.tileAt line = some (ctx, i, k, key) → mget s.ctxs ctx = some c →
    mget c.recipes i = some r →
    (r.framed = true → ∃ t, exec (.galleryEvict line) s = .next t ∧ ∀ j < 128, memGet t.mem (128 * line + j) = lineByte (mgetD r.bytes k 0) j) ∧
    (r.framed = false → exec (.galleryEvict line) s = .next (close s
      (s.updRecipe ctx i (fun r => { r with present := r.present.filter (· != k), bytes := mdel r.bytes k, pois := mdel r.pois k, used := mdel r.used k }))))) ∧
  (∀ (s : State) (cl line : Nat) (f : Fill) (c : CLine), s.powered = true → (s.cluster cl).fills.find? (fun f => f.line == line && f.got.isSome) = some f → f.got = some c →
    exec (.icacheFillArrive cl line) s = .next (close s (((s.icFill cl line c).fillGive cl line c).fillFree cl line)) ∧
    ∀ wid w, s.warp wid = some w → clusterOfCore (s.coreOf w) = cl → line ∈ w.fetch.away →
      ∃ x : Warp, (s.fillGive cl line c).warp wid = some x ∧ (line, c) ∈ x.fetch.got ∧ line ∉ x.fetch.away)

namespace Sys2Proof.Claims
open Sys2Proof.Machine

/-- A warp whose innermost level is `lv` and may run: it waits for no code, and no store of an earlier block. -/
def Runs (s : State) (wid : Nat) (w : Warp) (lv : Level) : Prop :=
  s.powered = true ∧ s.warp wid = some w ∧ w.levels.head? = some lv ∧ w.stat = .ready ∧ w.fetch = Fetching.idle ∧ w.stq = []
/-- The block of a running frame is complete in every lane and unpoisoned, every lane holds one branch output, and the block's release is performed. -/
def CommitReady (s : State) (wid : Nat) (w : Warp) (lv : Level) (f : Frame) : Prop :=
  Runs s wid w lv ∧ s.hbmq = [] ∧ lv.frame = some f ∧ f.complete = true ∧ f.poisoned = [] ∧ f.offending = 0 ∧ f.mask ≠ 0 ∧
    s.released (s.hallOf w) w.ctx f.blk.relscope = true ∧ ∀ b ∈ f.bouts, b.2.1 ∈ lanesOf f.mask
/-- Every lane goes to one successor, and the level has not diverged. -/
def OneWay (lv : Level) (f : Frame) (a : Word) : Prop := lv.div = [] ∧ ∀ b ∈ f.bouts, b.2.2 = .succ a
/-- No release fence of the block has fired. -/
def NoFence (f : Frame) : Prop := ∀ p ∈ f.blk.insns, opOf p.2 = 0x171 ∨ opOf p.2 = 0x172 → mgetD f.fired p.1 0 = 0
/-- Nothing of the block is performed at its commit but register writes. -/
def Plain (f : Frame) : Prop := f.sinks = [] ∧ f.fres = [] ∧ NoFence f
/-- One buffered sink, and nothing else but register writes. -/
def OneSink (f : Frame) (k : Sink) : Prop := f.sinks = [k] ∧ f.fres = [] ∧ f.swr = [] ∧ NoFence f
/-- What committing to one successor leaves of the level. -/
def Committed (t : State) (wid : Nat) (f : Frame) (a : Word) : Prop :=
  ∃ x lv, t.warp wid = some x ∧ x.levels.head? = some lv ∧ lv.pc = a ∧ lv.mask = f.mask ∧ lv.frame = none ∧ lv.rcd = [] ∧ lv.div = [] ∧ x.stq = []
/-- The lanes that go to a successor. -/
def lanesTo (f : Frame) (a : Word) : Lanes := (f.bouts.filter (fun b => decide (b.2.2 = .succ a))).foldl (fun m b => m ||| 1#64 <<< b.2.1) 0
/-- A workgroup that has not ended, so that its memory stands. -/
def Stands (s : State) (wg : Nat) : Prop := ∃ g, mget s.wgs wg = some g ∧ g.ended = false
/-- The place of a buffered store outside global memory stands, and no matrix operation in progress names its tile. -/
def StoreStands (s : State) (w : Warp) : Space → Nat → Nat → Prop
  | .scratch wg, _, _ => Stands s wg
  | .tile wg, a, n => Stands s wg ∧ 4 ≤ n ∧ s.opOn wg (a / 16384) = false
  | .hallStore, _, _ => Stands s w.wg ∧ (mget (s.hall (s.hallOf w)).stores (s.gidOf w)).isSome = true
  | .global, _, _ => False
/-- The release that a buffered release store waits for (R197). -/
def Freed (s : State) (w : Warp) (f : Frame) (k : Sink) : Prop :=
  k.kind = .store ∨ ∃ sc, k.kind = .strel sc ∧ s.released (s.hallOf w) w.ctx (max sc f.blk.relscope) = true
/-- A line of local memory outside the hall store window and every recipe tile, that a range's sink translates. -/
def LineAt (s : State) (w : Warp) (k : Sink) (pa p key : Nat) : Prop :=
  k.size = 128 ∧ s.inWindow w k.addr = none ∧ physIn k.xl k.addr = some (pa, key) ∧ s.home pa = .dev p ∧ s.physKind pa = .dev p ∧
    ((mget s.ctxs w.ctx).bind (fun c => c.recipeAt k.addr)) = none
end Sys2Proof.Claims

/-! ## The life of a block -/

/-- R39 to R42, R84 to R95, R173, R176, R177, R200, R201, R212, R213, R328 and R329; that a CLEAN and a DISC travel as writes is log entry 40. -/
def Obligations.BlockLife : Prop :=
  (∀ (s : State) (wid : Nat) (w : Warp) (lv : Level), Runs s wid w lv → lv.frame = none → lv.mask ≠ 0 → s.holdsFrame wid w = true → s.mustPass wid w = false →
    s.fetchStopped w = false → s.walkClear (s.coreOf w) w.ctx lv.pc.toNat 304 = true →
    (∀ s1 b, s.blockAt (s.coreOf w) w lv.pc = (s1, .ok b) → startScope w b = 0 ∨ s1.mayAcquire (s.coreOf w) (startScope w b) = true →
      s1.warp wid = some w →
      ∃ t x f, exec (.blockDecode wid) s = .next t ∧ t.warp wid = some x ∧ x.frame = some f ∧ f.fid = s1.nextId ∧ f.blk = b ∧ f.mask = lv.mask ∧ f.sinks = [] ∧
        f.bouts = [] ∧ f.done = [] ∧ f.waits = [] ∧ x.regs = w.regs ∧ x.hregs = w.hregs ∧ x.mode = w.mode ∧ x.acqOwed = 0 ∧
        ∀ pre r, b.reads = pre ++ [r] → ∀ l ∈ lanesOf lv.mask,
          f.Holds [r.extractLsb' 0 9, r.extractLsb' 9 9] l (.value (mgetD w.regs ((r.extractLsb' 24 6).toNat * 64 + l) 0))) ∧
    (∀ s1 c slot info, s.blockAt (s.coreOf w) w lv.pc = (s1, .trap c slot info) → s.postRoom w.ctx = true →
      exec (.blockDecode wid) s = .next (close s ((s1.notePois w c info).takeTrap wid (c == cIfetchNotPresent || c == cIfetchProtection) c slot (leaderOf lv.mask) info lv.pc lv.mask))) ∧
    (∀ s1 m l, s.blockAt (s.coreOf w) w lv.pc = (s1, .wait m l) →
      exec (.blockDecode wid) s = .next (close s (s1.updWarp wid (fun x => { x with fetch := { x.fetch with waits := m, away := l } }))))) ∧
  (∀ (s : State) (wid : Nat) (w : Warp) (lv : Level) (f : Frame) (a : Word), CommitReady s wid w lv f → OneWay lv f a → Plain f →
    ∃ t x v, exec (.blockCommit wid) s = .next t ∧ Committed t wid f a ∧ t.warp wid = some x ∧ x.levels.head? = some v ∧ x.mode = w.mode ∧
      x.levels.tail = w.levels.tail ∧ t.mem = s.mem ∧ t.gal = s.gal ∧ t.halls = s.halls ∧
      (∀ n (r : BitVec 6), f.blk.wregs[n]? = some r → (∀ m, f.blk.wregs[m]? = some r → m = n) → ∀ l ∈ lanesOf f.mask,
        (∀ v, f.tok 4 n l = some (.value v) → mgetD x.regs (r.toNat * 64 + l) 0 = v) ∧
        (f.tok 4 n l = some .null → mgetD x.regs (r.toNat * 64 + l) 0 = mgetD w.regs (r.toNat * 64 + l) 0)) ∧
      (∀ (r : BitVec 6), r ∉ f.blk.wregs → ∀ l < 64, mgetD x.regs (r.toNat * 64 + l) 0 = mgetD w.regs (r.toNat * 64 + l) 0) ∧
      ((∀ q ∈ f.swr, q.2.1 < 64 ∧ 0x0C0 ≤ q.2.2.1) → v.win = lv.win ∧
        (∀ q ∈ f.swr, (∀ p ∈ f.swr, p.2.1 = q.2.1 → p.2.2.1 = q.2.2.1 → p.1 < q.1 ∨ p = q) → mgetD x.hregs ((q.2.2.1 - 0x0C0) * 64 + q.2.1) 0 = q.2.2.2) ∧
        ∀ n l, l < 64 → (∀ q ∈ f.swr, ¬(q.2.2.1 = 0x0C0 + n ∧ q.2.1 = l)) → mgetD x.hregs (n * 64 + l) 0 = mgetD w.hregs (n * 64 + l) 0) ∧
      (∀ sl l n val, f.swr = [(sl, l, n, val)] → n < 0x0C0 → x.hregs = w.hregs ∧ v.win =
        if w.levels.length ≤ 1 then lv.win
        else if n = 0x090 then { lv.win with d0 := mset lv.win.d0 l val }
        else if n = 0x091 then { lv.win with d1 := mset lv.win.d1 l val }
        else { lv.win with dkind := mset lv.win.dkind l (val &&& 15) })) ∧
  (∀ (s : State) (wid : Nat) (w : Warp) (lv : Level) (f : Frame) (a : Word) (k : Sink), CommitReady s wid w lv f → OneWay lv f a → OneSink f k →
    (∀ n ∈ [1, 2, 4, 8], Freed s w f k → k.lost = 0 → k.size = n → k.addr % n = 0 →
      (StoreStands s w k.space k.addr n → ∃ t, exec (.blockCommit wid) s = .next t ∧ Committed t wid f a ∧
        (t.spaceRead w k.space k.addr n).1 = k.data.toNat % 2 ^ (8 * n) ∧ t.mem = s.mem ∧ t.gal = s.gal ∧
        ∀ y, y < k.addr ∨ k.addr + n ≤ y → (t.spaceRead w k.space y 1).1 = (s.spaceRead w k.space y 1).1) ∧
      (∀ pa p key, k.space = .global → s.sliceOf w.wg = none → physIn k.xl k.addr = some (pa, key) → pa % 128 = k.addr % 128 → s.home pa = .dev p → p % 128 = pa % 128 →
        ∃ t, exec (.blockCommit wid) s = .next t ∧ Committed t wid f a ∧
          Forwarded s t (hallOfCore (s.coreOf w)) p (placeAt (k.data.toNat % 2 ^ (8 * n)) (pa % 128)) (byteMask (pa % 128) n) ∧
          ∀ c, mget (s.core (s.coreOf w)).l1 (pa / 128) = some c → ∃ d, mget (t.core (s.coreOf w)).l1 (pa / 128) = some d ∧
            d.data = mergeLine c.data (placeAt (k.data.toNat % 2 ^ (8 * n)) (pa % 128)) (byteMask (pa % 128) n))) ∧
    (∀ wg, k.space = .scratch wg → Stands s wg →
      (k.kind = .storeFE → k.size = 8 → k.addr % 8 = 0 → k.lost = 0 → ∃ t, exec (.blockCommit wid) s = .next t ∧ Committed t wid f a ∧
        (t.memOf wg).scr k.addr 8 = k.data.toNat ∧ (t.memOf wg).isFull k.addr = true) ∧
      (k.kind = .feset → ∃ t, exec (.blockCommit wid) s = .next t ∧ Committed t wid f a ∧ ∀ y, k.addr ≤ y → y < k.addr + k.size → (t.memOf wg).isFull y = true) ∧
      (k.kind = .feclr → ∃ t, exec (.blockCommit wid) s = .next t ∧ Committed t wid f a ∧ ∀ y, k.addr ≤ y → y < k.addr + k.size → (t.memOf wg).isFull y = false)) ∧
    (∀ pa p key, k.space = .global → LineAt s w k pa p key →
      (k.kind = .disc → s.released (s.hallOf w) w.ctx 4 = true → ∃ t, exec (.blockCommit wid) s = .next t ∧ Committed t wid f a ∧
        Forwarded s t (hallOfCore (s.coreOf w)) p 0 (BitVec.allOnes 128) ∧ mget (t.core (s.coreOf w)).l1 (pa / 128) = none) ∧
      (k.kind = .clean → s.released (s.hallOf w) w.ctx 5 = true → ∃ t, exec (.blockCommit wid) s = .next t ∧ Committed t wid f a ∧
        Forwarded s t (hallOfCore (s.coreOf w)) p 0 0))) ∧
  (∀ (s : State) (wid : Nat) (w : Warp) (lv : Level) (f : Frame) (a : Word) (l : Nat) (h : Word), CommitReady s wid w lv f → OneWay lv f a → f.sinks = [] → NoFence f →
    f.fres = [(l, h)] → s.released (s.hallOf w) w.ctx 4 = true →
    ∃ t, exec (.blockCommit wid) s = .next t ∧ Committed t wid f a ∧ ∀ p v c, p ≠ wid → s.warp p = some v → v.stat = .parked h → mget s.ctxs v.ctx = some c →
      ∃ u : Warp, t.warp p = some u ∧ u.levels = v.levels ∧ u.regs = v.regs ∧ u.stat = if c.cfg.servicer = some w.ctx then .ready else .parked h) ∧
  (∀ (s : State) (wid : Nat) (w : Warp) (lv : Level) (f : Frame), CommitReady s wid w lv f → lv.div = [] → Plain f → s.postRoom w.ctx = true →
    ((∀ b ∈ f.bouts, b.2.2 = .exit) → s.sliceOf w.wg = none → ∃ t, exec (.blockCommit wid) s = .next t ∧ t.warp wid = none ∧ t.mem = s.mem ∧ t.gal = s.gal) ∧
    (∀ lo rest, (∀ b ∈ f.bouts, b.2.2 = .ret) → lv.exited = 0 → w.levels = lv :: lo :: rest →
      ∃ (u : State) (x : Warp) (v : Level), exec (.blockCommit wid) s = .next (close s ((u.levelReturn wid).reapAll (s.gangWgs (((s.wgOf w).map (·.gang)).getD 0)))) ∧ u.warp wid = some x ∧
        x.levels = v :: lo :: rest ∧ v.kind = lv.kind ∧ v.frame = none ∧ (f.swr = [] → v.win = lv.win) ∧ u.wgs = s.wgs ∧ u.gal = s.gal)) ∧
  (∀ (s s1 : State) (wid : Nat) (w : Warp) (lv : Level) (f : Frame) (a b : Word) (la lb : Bool), CommitReady s wid w lv f → Plain f → s.postRoom w.ctx = true →
    lv.div = [] → a.toNat < b.toNat → (∀ o ∈ f.bouts, o.2.2 = .succ a ∨ o.2.2 = .succ b) → (∃ o ∈ f.bouts, o.2.2 = .succ a) → (∃ o ∈ f.bouts, o.2.2 = .succ b) →
    s.walkClear (s.coreOf w) w.ctx a.toNat 16 = true → s.walkClear (s.coreOf w) w.ctx b.toNat 16 = true →
    s.landings (s.coreOf w) w [a, b] = (s1, [(a, .is la), (b, .is lb)]) →
    ∃ t x v, exec (.blockCommit wid) s = .next t ∧ t.warp wid = some x ∧ x.levels.head? = some v ∧ x.levels.tail = w.levels.tail ∧ v.frame = none ∧
      if la = true ∧ lb = false then v.pc = b ∧ v.mask = lanesTo f b ∧ v.div = [{ parent := lv.mask, paths := [{ addr := a, mask := lanesTo f a, st := .parked }, { addr := b, mask := lanesTo f b, st := .running }] }]
      else v.pc = a ∧ v.mask = lanesTo f a ∧ v.div =
        [{ parent := lv.mask, paths := [{ addr := a, mask := lanesTo f a, st := .running }, { addr := b, mask := lanesTo f b, st := if lb then .parked else .runnable }] }]) ∧
  (∀ (s s1 : State) (wid : Nat) (w : Warp) (lv : Level) (f : Frame) (a : Word) (p q : Path) (r : DivRec), CommitReady s wid w lv f → Plain f → s.postRoom w.ctx = true →
    lv.div = [r] → r.paths = [p, q] → p.st = .running → q.st = .parked → q.addr = a → (∀ o ∈ f.bouts, o.2.2 = .succ a) → s.walkClear (s.coreOf w) w.ctx a.toNat 16 = true →
    s.landings (s.coreOf w) w [a] = (s1, [(a, .is true)]) →
    ∃ t x v, exec (.blockCommit wid) s = .next t ∧ t.warp wid = some x ∧ x.levels.head? = some v ∧ v.frame = none ∧ v.pc = a ∧ v.mask = lanesTo f a ||| q.mask ∧ v.div = []) ∧
  (∀ (s : State) (wid : Nat) (w : Warp) (lv : Level) (f : Frame) (k lane : Nat) (sl : BitVec 6) (cause : BitVec 8) (info : Word), Runs s wid w lv → lv.frame = some f →
    f.complete = true → reported f.poisoned = some (k, lane, .poison sl cause info) → s.postRoom w.ctx = true →
    exec (.blockCommit wid) s = .next (close s ((s.takeTrap wid (sinkToFaultQueue cause) cause sl.toNat lane info f.blk.addr f.mask).reapAll
      (s.gangWgs (((s.wgOf w).map (·.gang)).getD 0))))) ∧
  (∀ (s : State) (wid : Nat) (w : Warp) (lv : Level) (f : Frame), Runs s wid w lv → lv.frame = some f → f.complete = true → f.poisoned = [] → f.offending ≠ 0 →
    s.postRoom w.ctx = true →
    exec (.blockCommit wid) s = .next (close s ((s.takeTrap wid false 0x02 f.blk.branchSlot (leaderOf f.offending) f.offending f.blk.addr f.mask).reapAll
      (s.gangWgs (((s.wgOf w).map (·.gang)).getD 0))))) ∧
  (∀ (s : State) (wid p : Nat) (w v : Warp) (lv : Level), Runs s wid w lv → s.partner wid w = some (p, v) → s.sharing wid w = true → s.holdsFrame wid w = true →
    v.stat = .ready → w.frame = none → w.shareUsed = true →
    exec (.frameShareHandoff wid) s = .next (close s ((s.updWarp wid (fun x => { x with shareHold := false, shareUsed := false })).updWarp p (fun x =>
      { x with shareHold := true, shareUsed := false })))) ∧
  (∀ (s : State) (wid : Nat) (w : Warp) (lv : Level) (f : Frame) (g : Grid), Runs s wid w lv → lv.frame = some f → f.readySlot = true → s.gridOf w = some g →
    max g.lr.prio w.raised < 3 → 256 ≤ (s.time - w.lastDispatch) * mgetD s.islands (s.coreOf w) 800 / 1000 →
    exec (.frameStarvationRaise wid) s = .next (close s (({ s with nextId := s.nextId + 1 } : State).setWarp wid
      { w with raised := max g.lr.prio w.raised + 1, raisedAt := s.nextId, lastDispatch := s.time })))

namespace Sys2Proof.Claims
open Sys2Proof.Machine

/-- The oldest accepted transaction of a module in a direction is `x`, of this type (R345). -/
def Head (s : State) (hall m : Nat) (up : Bool) (ty : TxnType) (x : Txn) : Prop := s.powered = true ∧ s.headTxn hall m up ty = some x
/-- A read or write transaction's answer: the same tracker number and line, with data and poisoned sectors. -/
def answer (x : Txn) (ty : TxnType) (data : Line) (pois : BitVec 4) : Txn := { x with type := ty, data := data, mask := 0, pois := pois }
/-- The answer is taken, and the tracker of its request is free (R313). -/
def freed (s : State) (hall m : Nat) (x : Txn) : State := (s.popTxn hall m false).updHall hall (fun h => h.answered (x.pa / 128) s.time)
/-- Flits put on the wires of a direction: the first one's header carries what the receiver of the other direction owes (R391). -/
def carried (o : Chan) : List Flit → List Flit
  | [] => []
  | f :: r => { f with ack := o.ackOwed, nak := o.nakOwed } :: r
/-- A module of a hall's link that carries traffic. -/
def LinkUp (s : State) (hall m : Nat) : Prop :=
  s.powered = true ∧ hall < 8 ∧ m < 12 ∧ (s.hall hall).fatal = false ∧ ((s.mod hall m).width = 1 ∨ (s.mod hall m).width = 2)

end Sys2Proof.Claims

/-! ## The hall links -/

/-- R304 to R306, R309 and R345. The stamps that a reader notes are log entry 4, waiting for a line of the host is log entry 37, and the codes
that tell a DISC, a CLEAN, a recipe line's DISC and a barrier command from a write and an atomic are log entry 40 (the model's choices). -/
def Obligations.HallTransactions : Prop :=
  (∀ (s : State) (hall m : Nat) (x : Txn), Head s hall m true .read x → s.hostAbsent (x.pa / 128) = false →
    let g := s.galFetch (x.pa / 128) x.key
    let r := (s.popTxn hall m true).galRoom (x.pa / 128)
    let s1 : State := { r with gal := mset r.gal (x.pa / 128) { g with ctx := x.ctx, used := s.tick, halls := sadd g.halls hall } }
    let s2 : State := match s1.byTag hall x.tag with
      | some (i, a) => s1.setAcc i { a with seen := s1.stamp }
      | none => s1
    (s.readTag hall x.tag = none → exec (.hlRead hall m) s = .next (close s (s2.sendDown hall (answer x .readData g.data g.pois)))) ∧
    ∀ q, s.readTag hall x.tag = some q →
      (q.who.codeLine = none → exec (.hlRead hall m) s = .next (close s
        ((s1.updHall hall (fun h => { h with reads := h.reads.map (fun y => if y.tag = x.tag then { y with seen := s1.stamp } else y) })).sendDown hall
          (answer x .readData g.data g.pois)))) ∧
      (q.who.codeLine.isSome = true →
        (∀ c, mget s.galIc (x.pa / 128) = some c → exec (.hlRead hall m) s = .next (close s
          (({ s.popTxn hall m true with galIc := mset s.galIc (x.pa / 128) { c with stamp := s.tick } } : State).sendDown hall (answer x .readData c.data c.pois)))) ∧
        (mget s.galIc (x.pa / 128) = none → ∃ t, exec (.hlRead hall m) s = .next t ∧
          (g.pois = 0 → ∃ c, mget t.galIc (x.pa / 128) = some c ∧ c.data = g.data ∧ c.pois = 0) ∧
          t = close s (((s.popTxn hall m true).galCode x.ctx (x.pa / 128) x.key).1.sendDown hall (answer x .readData g.data g.pois))))) ∧
  (∀ (s : State) (hall m : Nat) (x : Txn), Head s hall m true .write x → s.hostAbsent (x.pa / 128) = false → x.aop ≠ 1 → x.aop ≠ 2 → x.aop ≠ 3 →
    let g := s.galFetch (x.pa / 128) x.key
    ∃ t g1, exec (.hlWrite hall m) s = .next t ∧ mget t.gal (x.pa / 128) = some g1 ∧ g1.data = mergeLine g.data x.data x.mask ∧ g1.dirty = true ∧ g1.key = x.key ∧
      g1.ctx = x.ctx ∧ (∀ h ∈ g1.halls, h = hall) ∧ ((mget s.gal (x.pa / 128)).isSome = true → ∀ ln, ln ≠ x.pa / 128 → mget t.gal ln = mget s.gal ln) ∧
      t.wgs = s.wgs ∧ t.warps = s.warps ∧
      t = close s (((s.popTxn hall m true).galWriteP (some x.ctx) (x.pa / 128) x.key x.data x.mask x.pois (some hall)).sendDown hall (answer x .writeAck 0 0))) ∧
  (∀ (s : State) (hall m : Nat) (x : Txn), Head s hall m true .write x → s.hostAbsent (x.pa / 128) = false → x.aop = 1 →
    ∃ (t : State) (g1 : GLine), exec (.hlWrite hall m) s = .next t ∧ mget t.gal (x.pa / 128) = some g1 ∧ g1.data = 0 ∧ g1.pois = 0 ∧ g1.keep = [] ∧ g1.dirty = true ∧
      (∀ h, mget (t.hall h).cache (x.pa / 128) = none) ∧ (∀ c, mget (t.core c).l1 (x.pa / 128) = none) ∧ t.wgs = s.wgs ∧
      t = close s (((s.popTxn hall m true).zeroLine (some x.ctx) (x.pa / 128) x.key (some hall)).sendDown hall (answer x .writeAck 0 0))) ∧
  (∀ (s : State) (hall m : Nat) (x : Txn), Head s hall m true .write x → x.aop = 2 → s.tileAt (x.pa / 128) = none →
    exec (.hlWrite hall m) s = .next (close s (((s.popTxn hall m true).galClean (x.pa / 128)).sendDown hall (answer x .writeAck 0 0))) ∧
    ∀ g, mget s.gal (x.pa / 128) = some g → g.dirty = true → hostLine (x.pa / 128) = false →
      ∃ t, exec (.hlWrite hall m) s = .next t ∧ mget t.gal (x.pa / 128) = some { g with dirty := false } ∧ t.mem = drain s.mem (s.hbmq ++ [(x.pa / 128, g.data)]) ∧
        mget t.hlines (x.pa / 128) = some { key := g.key, gen := s.keyGen g.key, pois := g.pois }) ∧
  (∀ (s : State) (hall m : Nat) (x : Txn), Head s hall m true .write x → s.hostAbsent (x.pa / 128) = false → x.aop = 3 →
    exec (.hlWrite hall m) s = .next (close s (((s.popTxn hall m true).discTile (x.pa / 128)).sendDown hall (answer x .writeAck 0 0))) ∧
    ∀ c i k key r, s.tileAt (x.pa / 128) = some (c, i, k, key) → (mget s.ctxs c).bind (fun y => mget y.recipes i) = some r →
      ∃ t, exec (.hlWrite hall m) s = .next t ∧ mget t.gal (x.pa / 128) = none ∧
        ∃ r1, (mget t.ctxs c).bind (fun y => mget y.recipes i) = some r1 ∧ k ∉ r1.present ∧ mget r1.bytes k = none) ∧
  (∀ (s : State) (hall m : Nat) (x : Txn), Head s hall m true .atomic x → s.hostAbsent (x.pa / 128) = false → x.aop = 7 →
    exec (.hlAtomic hall m) s = .next (close s ((s.popTxn hall m true).barHome hall x))) ∧
  (∀ (s : State) (hall m : Nat) (x : Txn), Head s hall m true .atomic x → s.hostAbsent (x.pa / 128) = false → x.aop ≠ 7 → (x.pa % 128) + (if x.a64 then 8 else 4) ≤ 128 →
    let n := if x.a64 then 8 else 4
    let old := (s.galBytes x.pa n x.key).1
    let new := atomApply x.aop x.a64 x.acas x.af32 old (lineBytes x.data 0 8) (lineBytes x.data 8 8)
    let s1 := s.popTxn hall m true
    ((s.galBytes x.pa n x.key).2 = true → exec (.hlAtomic hall m) s = .next (close s (s1.sendDown hall (answer x .atomicResult 0 15)))) ∧
    ((s.galBytes x.pa n x.key).2 = false → ∃ t, exec (.hlAtomic hall m) s = .next t ∧ (t.galBytes x.pa n x.key).1 = new % 2 ^ (8 * n) ∧
      ((mget s.gal (x.pa / 128)).isSome = true → ∀ ln, ln ≠ x.pa / 128 → mget t.gal ln = mget s.gal ln) ∧
      t = close s ((s1.galWriteP (some x.ctx) (x.pa / 128) x.key (placeAt new (x.pa % 128)) (byteMask (x.pa % 128) n) 0 (some hall)).sendDown hall
        (answer x .atomicResult (placeAt old 0) 0)))) ∧
  (∀ (s : State) (hall m : Nat) (up : Bool) (x : Txn), up = true → (Head s hall m up .read x ∨ Head s hall m up .write x ∨ Head s hall m up .atomic x) →
    s.hostAbsent (x.pa / 128) = true → s.hostAsked (x.pa / 128) = false → ¬(x.type = .write ∧ x.aop = 2) →
    exec (match x.type with
      | .read => .hlRead hall m
      | .write => .hlWrite hall m
      | _ => .hlAtomic hall m) s = .next (close s (s.hostLineSend .load (x.pa / 128) x.ctx x.key 0 false))) ∧
  (∀ (s : State) (hall m aid : Nat) (x : Txn) (a : Access), Head s hall m false .readData x → s.readTag hall x.tag = none → s.byTag hall x.tag = some (aid, a) →
    ∃ t c, exec (.hlReadData hall m) s = .next t ∧ mget (t.hall hall).cache (x.pa / 128) = some c ∧ c.valid &&& x.sect = x.sect ∧
      mget t.accs aid = some { a with stat := .got c.data (c.pois &&& sectTouched (byteMask (x.pa % 128) a.pieceLen) != 0), seen := a.seen } ∧
      (mget (t.core (s.accCore a)).l1 (x.pa / 128)).isSome = true ∧ t.gal = s.gal) ∧
  (∀ (s : State) (hall m : Nat) (x : Txn) (q : HRead), Head s hall m false .readData x → s.readTag hall x.tag = some q →
    ∃ t, exec (.hlReadData hall m) s = .next t ∧ (∀ y ∈ (t.hall hall).reads, y.tag ≠ x.tag) ∧ t.gal = s.gal ∧
      (∀ c ln, q.who = .code c ln → (mget (t.hall hall).ic (x.pa / 128)).isSome = true ∧ ∀ f ∈ (t.cluster c).fills, f.line = x.pa / 128 → f.sent = true → f.got.isSome = true) ∧
      (q.who.codeLine = none → (mget (t.hall hall).cache (x.pa / 128)).isSome = true) ∧
      (∀ core, q.who = .pref (some core) → (mget (t.core core).l1 (x.pa / 128)).isSome = true) ∧
      (∀ id ln core ch y, q.who = .copy id ln → s.copyById id = some (core, ch, y) →
        ∃ z, mget (t.core core).chans ch = some z ∧ ∃ g ∈ z.got, g.1 = ln)) ∧
  (∀ (s : State) (hall m : Nat) (x : Txn), Head s hall m false .writeAck x →
    exec (.hlWriteAck hall m) s = .next (close s ((freed s hall m x).updHall hall (fun h => { h with pend := h.pend.filter (fun p => p.tag != x.tag) })))) ∧
  (∀ (s : State) (hall m aid : Nat) (x : Txn) (a : Access), Head s hall m false .atomicResult x → s.byTag hall x.tag = some (aid, a) →
    ∃ t, exec (.hlAtomicResult hall m) s = .next t ∧ mget t.accs aid = some { a with stat := .got x.data (x.pois != 0), seen := s.stamp } ∧
      mget (t.hall hall).cache (x.pa / 128) = none ∧ t.gal = s.gal) ∧
  (∀ (s : State) (hall m : Nat) (x : Txn), Head s hall m false .invalidate x →
    ∃ t, exec (.hlInvalidate hall m) s = .next t ∧ mget (t.hall hall).cache (x.pa / 128) = none ∧ t.gal = s.gal ∧ t.cores = s.cores ∧
      ∀ q ∈ t.invs, q ∈ s.invs) ∧
  (∀ (s : State) (hall m : Nat) (x : Txn), Head s hall m true .invalidateAck x → exec (.hlInvalidateAck hall m) s = .next (close s (s.popTxn hall m true)))

/-- R346, R347, R391 and R392. That flits in flight are lost at a retraining, and that the acknowledgements received before it are taken
first, is log entry 29 (the model's inference). -/
def Obligations.HallLinkFlits : Prop :=
  (∀ (s : State) (hall m : Nat) (up : Bool) (f : Flit) (rest : List Flit), LinkUp s hall m → ((s.mod hall m).chan up).flight = f :: rest →
    (f.txns ≠ [] → f.seq = ((s.mod hall m).chan up).expect → ∃ t, exec (.hlinkFlitReceive hall m up true) s = .next t ∧ ((t.mod hall m).chan up).flight = rest ∧
      ((t.mod hall m).chan up).accepted = ((s.mod hall m).chan up).accepted ++ f.txns ∧
      ((t.mod hall m).chan up).expect = (((s.mod hall m).chan up).expect + 1) % 1024 ∧ ((t.mod hall m).chan up).ackOwed = some f.seq ∧
      ((t.mod hall m).chan up).ackSince =
        (if ((s.mod hall m).chan up).ackOwed.isSome ∨ ((s.mod hall m).chan up).nakOwed.isSome then ((s.mod hall m).chan up).ackSince else s.time) ∧
      ((t.mod hall m).chan (!up)).acks = ((s.mod hall m).chan (!up)).acks ++ f.ack.toList ∧
      ((t.mod hall m).chan (!up)).naks = ((s.mod hall m).chan (!up)).naks ++ f.nak.toList ∧ t.gal = s.gal ∧ t.accs = s.accs) ∧
    (f.txns = [] → ∃ t, exec (.hlinkFlitReceive hall m up true) s = .next t ∧ ((t.mod hall m).chan up).flight = rest ∧
      ((t.mod hall m).chan up).accepted = ((s.mod hall m).chan up).accepted ∧ ((t.mod hall m).chan up).expect = ((s.mod hall m).chan up).expect ∧
      ((t.mod hall m).chan (!up)).acks = ((s.mod hall m).chan (!up)).acks ++ f.ack.toList ∧
      ((t.mod hall m).chan (!up)).naks = ((s.mod hall m).chan (!up)).naks ++ f.nak.toList) ∧
    (((s.mod hall m).crcTimes.filter (fun c => decide (s.time < c + 100000))).length < 7 →
      ∃ t, exec (.hlinkFlitReceive hall m up false) s = .next t ∧ ((t.mod hall m).chan up).flight = rest ∧
        ((t.mod hall m).chan up).accepted = ((s.mod hall m).chan up).accepted ∧ ((t.mod hall m).chan up).nakOwed = some ((s.mod hall m).chan up).expect ∧
        (t.mod hall m).crcTimes = (s.mod hall m).crcTimes.filter (fun c => decide (s.time < c + 100000)) ++ [s.time])) ∧
  (∀ (s : State) (hall m n : Nat) (up : Bool) (rest : List Nat), LinkUp s hall m → ((s.mod hall m).chan up).naks = n :: rest →
    (∃ f ∈ ((s.mod hall m).chan up).replay, seqDiff f.seq n ≤ 512) →
    ∃ t, exec (.hlinkNakReceived hall m up) s = .next t ∧ ((t.mod hall m).chan up).naks = rest ∧
      ((t.mod hall m).chan up).flight = ((s.mod hall m).chan up).flight ++
        carried ((s.mod hall m).chan (!up)) (((s.mod hall m).chan up).replay.filter (fun f => decide (seqDiff f.seq n ≤ 512))) ∧
      ((t.mod hall m).chan (!up)).ackOwed = none ∧ ((t.mod hall m).chan (!up)).nakOwed = none ∧
      ((t.mod hall m).chan up).replay = ((s.mod hall m).chan up).replay ∧ (t.hall hall).replays = min ((s.hall hall).replays + 1) 16777215) ∧
  (∀ (s : State) (hall m n : Nat) (up : Bool) (rest : List Nat), LinkUp s hall m → ((s.mod hall m).chan up).acks = n :: rest → ((s.mod hall m).chan up).waiting = [] →
    ∃ t, exec (.hlinkAckReceived hall m up) s = .next t ∧ ((t.mod hall m).chan up).acks = rest ∧
      ((t.mod hall m).chan up).replay = ((s.mod hall m).chan up).replay.filter (fun f => decide (1 ≤ seqDiff f.seq n ∧ seqDiff f.seq n ≤ 512))) ∧
  (∀ (s : State) (hall m : Nat) (up : Bool), LinkUp s hall m → ((s.mod hall m).chan up).ackOwed.isSome = true ∨ ((s.mod hall m).chan up).nakOwed.isSome = true → ((s.mod hall m).chan up).ackSince + 32 ≤ s.time →
    ∃ t, exec (.hlinkAckTimer hall m up) s = .next t ∧ ((t.mod hall m).chan up).ackOwed = none ∧ ((t.mod hall m).chan up).nakOwed = none ∧
      ((t.mod hall m).chan (!up)).flight = ((s.mod hall m).chan (!up)).flight ++
        [{ seq := 0, txns := [], ack := ((s.mod hall m).chan up).ackOwed, nak := ((s.mod hall m).chan up).nakOwed }]) ∧
  (∀ (s : State) (hall m : Nat) (up : Bool) (f : Flit) (rest : List Flit), LinkUp s hall m → ((s.mod hall m).chan up).replay = f :: rest →
    ((s.mod hall m).chan up).since + 1000 ≤ s.time →
    ∃ t, exec (.hlinkReplayTimeout hall m up) s = .next t ∧
      ((t.mod hall m).chan up).flight = ((s.mod hall m).chan up).flight ++
        carried ((s.mod hall m).chan (!up)) ((f :: rest).filter (fun g => decide (seqDiff g.seq f.seq ≤ 512))) ∧
      ((t.mod hall m).chan up).since = s.time ∧ (t.hall hall).replays = min ((s.hall hall).replays + 1) 16777215) ∧
  (∀ (s : State) (hall m : Nat), LinkUp s hall m → (s.mod hall m).width = 2 →
    ∃ t, exec (.hlinkLaneFailure hall m) s = .next t ∧ (t.mod hall m).width = 3 ∧ (t.mod hall m).up.flight = [] ∧ (t.mod hall m).down.flight = [] ∧
      (t.mod hall m).up.replay = (s.mod hall m).up.replay ∧ (t.mod hall m).up.expect = (s.mod hall m).up.expect ∧ (t.mod hall m).up.acks = (s.mod hall m).up.acks ∧ (t.mod hall m).down.acks = (s.mod hall m).down.acks ∧ (t.hall hall).fatal = false) ∧
  (∀ (s : State) (hall m : Nat), s.powered = true → hall < 8 → m < 12 → (s.hall hall).fatal = false → (s.mod hall m).width = 3 →
    (s.mod hall m).up.waiting = [] → (s.mod hall m).down.waiting = [] →
    let kept (c : Chan) : List Flit := c.acks.foldl (fun r n => r.filter (fun f => decide (1 ≤ seqDiff f.seq n ∧ seqDiff f.seq n ≤ 512))) c.replay
    ∃ t, exec (.hlinkRetrainDone hall m) s = .next t ∧ (t.mod hall m).width = 1 ∧
      (t.mod hall m).up.replay = kept (s.mod hall m).up ∧ (t.mod hall m).down.replay = kept (s.mod hall m).down ∧
      (t.mod hall m).up.flight = (s.mod hall m).up.flight ++ carried (s.mod hall m).down (kept (s.mod hall m).up) ∧
      (t.mod hall m).down.flight = (s.mod hall m).down.flight ++ carried (s.mod hall m).up (kept (s.mod hall m).down) ∧ (t.hall hall).retrains = min ((s.hall hall).retrains + 1) 255)

namespace Sys2Proof.Claims
open Sys2Proof.Machine

/-- A gang that its hall distributor tries, with its grid. -/
def TriedGang (s : State) (gang : Nat) (g : Gang) (gr : Grid) : Prop :=
  s.powered = true ∧ mget s.gangs gang = some g ∧ mget s.grids g.gid = some gr ∧ s.tried g gr = true
/-- The records that the on-die storage holds for the other queues (R308). -/
def onDieElse (s : State) (q : Nat) : Nat := ((s.queues.filter (fun p => p.1 != q)).map (fun p => p.2.onDie)).sum
/-- A queue and its context. -/
def QueueAt (s : State) (q : Nat) (x : Queue) : Prop := s.powered = true ∧ mget s.queues q = some x

end Sys2Proof.Claims

/-! ## Distribution and stage queues -/

/-- R321 to R326; entries 3 and 25 of the log say what the model chose in the order of gangs and in handing out identities. -/
def Obligations.Distribution : Prop :=
  (∀ (s : State) (q : Nat) (x : Queue) (a b : Rec64) (s1 t1 s2 t2 : Nat) (h1 h2 : Bool) (l : List QItem) (c : Ctx), QueueAt s q x →
    x.items = .rcd a s1 t1 h1 :: .rcd b s2 t2 h2 :: l → mget s.ctxs x.ctx = some c → x.role = .entry → c.stopped = false → s.nextEntry x.ctx c.rr = some q →
    s.queued x.ctx < Config.launchQueue →
    let v := a.toNat + b.toNat * 2 ^ 512
    let u : State := { s with queues := mset s.queues q { x with items := l }, ctxs := mset s.ctxs x.ctx { c with rr := q } }
    (launchInvalid v c.nextSeq = false → s.launchNoRoom (launchRecOf v) = false →
      ∃ t, exec (.entryQueueAccept q) s = .next t ∧ mget t.queues q = some { x with items := l } ∧
        mget t.ctxs x.ctx = some { c with rr := q, nextSeq := c.nextSeq + 1 } ∧
        mget t.grids s.nextId = some (gridNew x.ctx c.nextSeq .plain (launchRecOf v) (if h1 || h2 then 6 else max s1 s2))) ∧
    (launchInvalid v c.nextSeq = true → s.postRoom x.ctx = true → exec (.entryQueueAccept q) s = .next (close s (u.refuseLaunch x.ctx 1 q (launchRecOf v).entry)))) ∧
  (∀ (s : State) (gid : Nat) (g : Grid) (c : Ctx) (h : Nat) (hs : List Nat), s.powered = true → mget s.grids gid = some g → mget s.ctxs g.ctx = some c → g.kind = .plain →
    g.eligible = false → c.stopped = false → s.depDone g.ctx g.lr.dep0 g.lr.early = true → s.depDone g.ctx g.lr.dep1 g.lr.early = true →
    s.chooseHalls s.liveHalls g.lr.halls = h :: hs →
    ∃ t, exec (.gridEligible gid) s = .next t ∧ mget t.grids gid = some { g with eligible := true, halls := h :: hs, handed := g.lr.gangs } ∧
      t.nextId = s.nextId + g.lr.gangs ∧
      ∀ n < g.lr.gangs, ∃ gg, mget t.gangs (s.nextId + n) = some gg ∧ gg.gid = gid ∧ gg.num = n ∧ gg.hall = (h :: hs).getD (n % (h :: hs).length) 0 ∧ gg.stat = .pending) ∧
  (∀ (s : State) (gang cluster core base : Nat) (g : Gang) (gr : Grid), TriedGang s gang g gr → g.restoring = false → gr.kind = .plain → gr.lr.gang = 1 → gr.lr.hstore = 0 →
    s.gangFit gang g gr.lr = some (cluster, [(0, core, base)]) → (∀ x ∈ s.hallGangs g.hall, before x (gang, g, gr) = true → s.fits x = false) →
    ∃ t gg y, exec (.gangPlace gang) s = .next t ∧ mget t.gangs gang = some gg ∧ gg.stat = .placed ∧ gg.cluster = cluster ∧ gg.wgs = g.wgs ++ [s.nextId] ∧
      mget t.grids g.gid = some { gr with placedGangs := gr.placedGangs + 1 } ∧
      mget t.wgs s.nextId = some y ∧ y.core = core ∧ y.base = base ∧ y.gang = gang ∧ y.ctx = gr.ctx ∧ y.num = g.num ∧ y.rank = 0 ∧ y.size = gr.lr.scratch ∧ y.mem = WgMem.start ∧
      ∀ d < gr.lr.declared, mget t.warps (s.nextId + 1 + d) = some (warpStart gr.ctx s.nextId d gr.lr.width (s.modeOf gr.ctx) gr.lr.entry g.acqScope s.time [])) ∧
  (∀ (s : State) (gang : Nat) (g : Gang) (gr : Grid) (cs : List Nat), TriedGang s gang g gr → s.wouldReserve (gang, g, gr) = some cs → s.starving (gang, g, gr) = true →
    (∀ x ∈ s.hallGangs g.hall, before x (gang, g, gr) = true → s.starving x = true → s.wouldReserve x = none) →
    exec (.gangPatienceExpired gang) s = .next (close s (cs.foldl (fun (s : State) c => s.updCore c (fun k => { k with resv := some gang }))
      { s with gangs := mset s.gangs gang { g with resv := cs } }))) ∧
  (∀ (s : State) (gang : Nat) (g : Gang) (gr : Grid) (c : Ctx), TriedGang s gang g gr → mget s.ctxs gr.ctx = some c → g.told = false → g.restoring = false →
    c.cfg.ceiling ≤ s.time - g.since → s.postRoom gr.ctx = true →
    exec (.gangPlacementTimeout gang) s = .next (close s (({ s with gangs := mset s.gangs gang { g with told := true } } : State).post
      { ctx := gr.ctx, w0 := recWord0 1 cGangPlacementTimeout.toNat gr.ctx 0 0 0 0 gr.seq, info := BitVec.ofNat 64 gr.seq, block := BitVec.ofNat 64 g.num, handle := 0 }))) ∧
  (∀ (s : State) (gid : Nat) (g : Grid) (c : Ctx), s.powered = true → mget s.grids gid = some g → mget s.ctxs g.ctx = some c → c.stopped = false →
    s.gridEnded gid g = true → (∀ h ∈ g.halls, s.released h g.ctx (if g.lr.notify then 6 else 4) = true) →
    (g.lr.notify = false → exec (.gridComplete gid) s = .next (close s (s.gridGone gid))) ∧
    (∀ s1, g.lr.notify = true → s.completionWord g.ctx g.lr.caddr g.seq = .ok s1 → exec (.gridComplete gid) s = .next (close s (s1.gridGone gid))) ∧
    (∀ k, g.lr.notify = true → s.completionWord g.ctx g.lr.caddr g.seq = .error k → s.postRoom g.ctx = true →
      exec (.gridComplete gid) s = .next (close s ((s.gridGone gid).post
        { ctx := g.ctx, w0 := recWord0 6 k.toNat g.ctx 0 0 0 0 g.seq, info := BitVec.ofNat 64 g.lr.caddr, block := 0, handle := 0 }))))

/-- R241 to R248, R322, R323 and R331 to R334. The model's choices: a full batch held back launches through STAGE_LINGER_EXPIRED (log entry 25); a
host's put to a closed queue is discarded and counted (27); the watchdog's readings (35). What an allocation does to the number's earlier queue
is the model's inference (35). -/
def Obligations.StageQueueEvents : Prop :=
  (∀ (s s1 : State) (q : Nat) (x : Queue) (bd : Binding) (f : Rec64 × Nat × Nat) (l : List (Rec64 × Nat × Nat)), QueueAt s q x → x.batch = some bd →
    leadRecs x.items = f :: l → bd.batch ≤ l.length + 1 ∨ f.2.2 + bd.linger * 320 ≤ s.time → s.launchBatch q (min (l.length + 1) bd.batch) = some s1 →
    exec (.stageLingerExpired q) s = .next (close s (s1.batches q))) ∧
  (∀ (s : State) (q : Nat) (x : Queue) (b : Option Nat) (l : List QItem), QueueAt s q x → x.items = .mark b :: l →
    exec (.qbindMarkerHead q) s = .next (close s ((({ s with queues := mupd s.queues q (fun y => { y with items := y.items.drop 1 }) } : State).applyMark q b).batches q))) ∧
  (∀ (s : State) (ctx n : Nat) (c : Ctx) (g : Graph), s.powered = true → mget s.ctxs ctx = some c → mget c.graphs n = some g → c.stopped = false → c.savedHalls = [] →
    4 * g.started + 5 * g.interval ≤ 4 * s.time → (g.progress = true ∨ s.postRoom ctx = true ∨ (s.watchdog ctx n c g).frecs.length ≤ s.frecs.length) →
    exec (.stageWatchdog ctx n) s = .next (close s ((if g.progress then s else s.watchdog ctx n c g).updGraph ctx (some n) (fun g =>
      { g with started := s.time, progress := false, full := [], refused := [], accepted := [] })))) ∧
  (∀ (s : State) (core ctx scope : Nat) (c : Ctx) (r : Rec64) (l : List (Rec64 × Nat)), s.powered = true → (s.core core).alcBuf = (r, scope) :: l → s.alcCtx = some ctx →
    mget s.ctxs ctx = some c → (s.core core).alcWid = none → c.stopped = false → c.savedOn (hallOfCore core) = false → (s.hall (hallOfCore core)).fatal = false →
    (s.ctxsw.busy = false ∨ s.ctxsw.saving = false ∨ s.ctxsw.ctx ≠ ctx ∨ hallOfCore core ∉ s.ctxsw.halls) →
    exec (.alcoveRecordArrive core) s = .next (close s ((mkeys s.queues).foldl (fun (s : State) q => s.alcoveMoveAll q) (s.alcoveStart core ctx c r scope)))) ∧
  (∀ (s : State) (q : Nat) (x : Queue) (d : BitVec 1024), QueueAt s q x → s.fw.ok = true → x.role = .entry → x.closed = false → countRecs x.items + 2 ≤ x.cap →
    exec (.putWindowWrite q 0 128 d) s = .next (close s (s.append q x [d.extractLsb' 0 512, d.extractLsb' 512 512] 6 true))) ∧
  (∀ (s : State) (q off size : Nat) (x : Queue) (d : BitVec 1024), QueueAt s q x → s.fw.ok = true → x.role = .entry → x.closed = true ∨ off ≠ 0 ∨ size ≠ 128 ∨ x.cap < countRecs x.items + 2 →
    exec (.putWindowWrite q off size d) s = .next (close s { s with queues := mset s.queues q { x with drops := (x.drops + 1) % 2 ^ 64 } })) ∧
  (∀ (s : State) (q : Nat) (x : Queue) (d : Rec64), QueueAt s q x → s.fw.ok = true → x.role = .alcove → x.closed = false → countRecs x.items + 1 ≤ x.cap →
    exec (.alcovePutWindowWrite q 0 64 d) s = .next (close s (s.append q x [d] 6 true))) ∧
  (∀ (s : State) (q off size : Nat) (d : BitVec 1024) (r : Rec64), s.powered = true → s.fw.ok = false →
    exec (.putWindowWrite q off size d) s = .next (close s s) ∧ exec (.alcovePutWindowWrite q off size r) s = .next (close s s)) ∧
  (∀ (s : State) (q ctx cap : Nat) (role : QRole) (graph : Option Nat), s.powered = true → q < 1024 → (mget s.ctxs ctx).isSome = true → 0 < cap → onDieElse s q + cap ≤ 262144 →
    (∀ n, graph = some n → n < 64) →
    ∃ t x, exec (.queueAllocate q ctx role cap graph) s = .next t ∧ mget t.queues q = some x ∧ x.ctx = ctx ∧ x.role = role ∧ x.cap = cap ∧ x.onDie = cap ∧ x.graph = graph ∧
      x.closed = false ∧ x.spill = false ∧ x.items = [] ∧ x.bound = none ∧ (∀ k, k ≠ q → mget t.queues k = mget s.queues k) ∧
      ∀ y, mget s.queues q = some y →
        (∀ c, mget s.ctxs y.ctx = some c → ∃ d, mget t.ctxs y.ctx = some d ∧ d.spillUsed = c.spillUsed - 64 * (y.cap - y.onDie)) ∧
        ∀ b ∈ y.bindings, ∀ g, mget s.grids b.2.gid = some g → mget t.grids b.2.gid = some { g with unbound := true })

namespace Sys2Proof.Claims
open Sys2Proof.Machine

/-- A mailbox command that has begun and not been performed, on a part whose firmware is good (R355, R368). -/
def MbReady (s : State) (code : Nat) : Prop := s.powered = true ∧ s.mb.busy = true ∧ s.mb.performed = false ∧ s.mb.cmd = code ∧ s.fw.ok = true
/-- The mailbox after a command: its result code, and its result bytes in MB_DATA. -/
def answered (s : State) (code : Nat) (l : List (BitVec 8)) : State :=
  { s with mb := { s.mb with performed := true, result := code, len := l.length,
                             data := ((List.range l.length).zip l).foldl (fun m p => msetD m p.1 p.2 0) s.mb.data } }
/-- The codes of the commands (R355). -/
def mbCodeOf : Instr → Option Nat
  | .recRead => some 0x0101
  | .keyGen => some 0x0201
  | .keyClear => some 0x0202
  | .attestMake => some 0x0301
  | .attestRead => some 0x0302
  | .identRead => some 0x0303
  | .powerLimit => some 0x0401
  | .powerRead => some 0x0402
  | _ => none
/-- A port that carries traffic. -/
def PortUp (s : State) (port : Nat) : Prop := s.powered = true ∧ port < 64 ∧ (s.port port).lanes ≠ 0 ∧ (s.port port).training = false
/-- No parked access holds a translation. -/
def ParkedFree (s : State) : Prop := ∀ p ∈ s.accs, p.2.stat.parked = true → p.2.xl = []

end Sys2Proof.Claims

/-! ## Translation invalidation, context switch, mailbox, host port, links between packages, errors and power -/

/-- R317 and R397. -/
def Obligations.TranslationInvalidation : Prop :=
  (∀ (s : State) (v : Word), s.powered = true → s.xlinv.busy = false → ParkedFree s →
    (fld v 33 32 = 0 → ∃ t, exec (.xlinvPage v) s = .next t ∧ t.xlinv.busy = true ∧ t.xlinv.ctl = v ∧ t.mem = drain s.mem s.hbmq ∧
      ∀ core, t.tlbFind core (fld v 53 48) (65536 * fld s.xlinv.addr 56 16) = none) ∧
    (fld v 33 32 = 1 → ∃ t, exec (.xlinvRange v) s = .next t ∧ t.xlinv.busy = true ∧ t.xlinv.ctl = v ∧
      ∀ core a, 65536 * fld s.xlinv.addr 56 16 ≤ a → a < 65536 * fld s.xlinv.addr 56 16 + 65536 * fld v 31 0 → t.tlbFind core (fld v 53 48) a = none) ∧
    (fld v 33 32 = 2 → ∃ t, exec (.xlinvContext v) s = .next t ∧ t.xlinv.busy = true ∧ t.xlinv.ctl = v ∧
      (∀ core a, t.tlbFind core (fld v 53 48) a = none) ∧ ∀ core a k, k ≠ fld v 53 48 → t.tlbFind core k a = s.tlbFind core k a)) ∧
  (∀ (s : State) (v : Word), s.powered = true → s.xlinv.busy = true →
    (fld v 33 32 = 0 → exec (.xlinvPage v) s = .next (close s s)) ∧ (fld v 33 32 = 1 → exec (.xlinvRange v) s = .next (close s s)) ∧
    (fld v 33 32 = 2 → exec (.xlinvContext v) s = .next (close s s))) ∧
  (∀ (s : State), s.powered = true → s.xlinv.busy = true → (∀ a ∈ s.xlinv.accs, mget s.accs a = none) →
    (∀ i ∈ s.xlinv.copies, ∀ p ∈ s.cores, ∀ q ∈ p.2.chans, q.2.id ≠ i) → (∀ p ∈ s.warps, ∀ g ∈ p.2.stq, ∀ x ∈ g.sinks, x.stale = false) →
    (xlinvRange s.xlinv.base s.xlinv.ctl).pending s = false → s.staleBlocks = [] →
    exec .xlinvDone s = .next (close s { s with xlinv := { s.xlinv with busy := false, accs := [], copies := [] } }))

/-- R338 to R341 and R381; the image's bytes are free values (log entry 12). When a block is discarded (`blockWaits`, `blockStuck`) and that a
save waits for a copy's completion are the model's inference (log entry 28); the bytes that an area must have (`saveBytes`) count the warps
that live (log entry 32, the model's choice). -/
def Obligations.ContextSwitch : Prop :=
  (∀ (s : State) (v : Word), s.powered = true → fld v 55 54 = 0 →
    (s.ctxsw.busy = true → exec (.ctxswSave v) s = .next (close s s)) ∧
    (s.ctxsw.busy = false → mget s.ctxs (fld v 53 48) = none → exec (.ctxswSave v) s = .next (close s { s with ctxsw := { s.ctxsw with ctl := v, result := 2 } })) ∧
    (∀ c p l, s.ctxsw.busy = false → mget s.ctxs (fld v 53 48) = some c → s.wgsAt (fld v 53 48) (Sys2Proof.Machine.hallsOf v) = p :: l →
      (4096 * fld s.ctxsw.size 39 12 < s.saveBytes (fld v 53 48) (Sys2Proof.Machine.hallsOf v) →
        exec (.ctxswSave v) s = .next (close s { s with ctxsw := { s.ctxsw with ctl := v, result := 1 } })) ∧
      (s.saveBytes (fld v 53 48) (Sys2Proof.Machine.hallsOf v) ≤ 4096 * fld s.ctxsw.size 39 12 →
        ∃ t, exec (.ctxswSave v) s = .next t ∧ t.ctxsw.busy = true ∧ t.ctxsw.saving = true ∧ t.ctxsw.ctx = fld v 53 48 ∧
          t.ctxsw.halls = Sys2Proof.Machine.hallsOf v ∧ t.ctxsw.since = s.time ∧ t.ctxsw.area = s.ctxsw.area ∧
          (s.slices = [] → ∃ c', mget t.ctxs (fld v 53 48) = some c' ∧ ∀ h ∈ Sys2Proof.Machine.hallsOf v, c'.savedOn h = true)))) ∧
  (∀ (s : State) (wid : Nat) (w : Warp) (f : Frame), s.powered = true → s.ctxsw.busy = true → s.ctxsw.saving = true →
    s.savingWarps = [(wid, w)] → w.frame = some f → s.blockWaits wid f = true ∨ (s.ctxsw.since + 20000 ≤ s.time ∧ s.blockStuck wid f = true) → exec .saveBoundaryTimeout s = .next (close s (s.discardTop wid))) ∧
  (∀ (s : State), s.powered = true → s.ctxsw.busy = true → s.ctxsw.saving = true → (∀ p ∈ s.savingWarps, s.saveReady p = true) →
    s.alcoveRuns s.ctxsw.ctx s.ctxsw.halls = false → (s.saveImage s.ctxsw.ctx s.ctxsw.halls).copyLands = false →
    let i := s.saveImage s.ctxsw.ctx s.ctxsw.halls
    exec .ctxswSaveDone s = .next (close s { (s.takeOff i).writeImage i with ctxsw := { s.ctxsw with busy := false, saving := false, result := 0 } }) ∧
    ∀ p ∈ (s.takeOff i).warps, (mget s.savingWarps p.1).isNone = true) ∧
  (∀ (s : State) (v : Word), s.powered = true → fld v 55 54 = 1 → s.ctxsw.busy = false →
    (s.imageFor (fld v 53 48) (Sys2Proof.Machine.hallsOf v) = none →
      exec (.ctxswRestore v) s = .next (close s { s with ctxsw := { s.ctxsw with ctl := v, result := 3 } })) ∧
    (∀ c i, mget s.ctxs (fld v 53 48) = some c → s.imageFor (fld v 53 48) (Sys2Proof.Machine.hallsOf v) = some i →
      s.wgsAt (fld v 53 48) (Sys2Proof.Machine.hallsOf v) = [] → s.gangsAt (fld v 53 48) (Sys2Proof.Machine.hallsOf v) .pending = [] →
      ∃ t, exec (.ctxswRestore v) s = .next t ∧ t.ctxsw.busy = true ∧ t.ctxsw.saving = false ∧ t.ctxsw.image = i.id ∧ t.ctxsw.ctx = fld v 53 48 ∧ t.ctxsw.halls = Sys2Proof.Machine.hallsOf v ∧
        ∀ k g, i.gangs = [(k, g)] → (mget s.gangs k).isSome = true →
          t.ctxsw.restoring = [k] ∧ mget t.gangs k = some { g with stat := .pending, restoring := true, since := s.time, resv := [] }) ∧
    (∀ i, s.imageFor (fld v 53 48) (Sys2Proof.Machine.hallsOf v) = some i → i ∈ s.images ∧ i.ctx = fld v 53 48 ∧ i.halls = Sys2Proof.Machine.hallsOf v ∧
      ∀ k < i.lines, (s.galFetch (4096 * fld s.ctxsw.area 56 12 / 128 + k) 0).data = Config.imageLine i.id k)) ∧
  (∀ (s : State), s.powered = true → s.ctxsw.busy = true → s.ctxsw.saving = false → (∀ g ∈ s.ctxsw.restoring, ∀ x, mget s.gangs g = some x → x.stat ≠ .pending) →
    s.queues = [] →
    ∃ t, exec .ctxswRestoreDone s = .next t ∧ t.ctxsw.busy = false ∧ t.ctxsw.result = 0 ∧ t.ctxsw.restoring = [] ∧ (∀ i ∈ t.images, i.id ≠ s.ctxsw.image) ∧
      (∀ c, mget t.ctxs s.ctxsw.ctx = some c → ∀ h ∈ s.ctxsw.halls, c.savedOn h = false) ∧ t.wgs = s.wgs ∧ t.warps = s.warps) ∧
  (∀ (s : State) (ctx : Nat) (cfg : CtxConfig), s.powered = true → ctx < 64 → mget s.ctxs ctx = none →
    ∃ t c, exec (.contextCreate ctx cfg) s = .next t ∧ mget t.ctxs ctx = some c ∧ c.cfg = cfg ∧ c.keys = [] ∧ c.drophint = 0 ∧ c.nextSeq = 1 ∧ c.recipes = [] ∧
      c.stopped = false ∧ ∀ k, k ≠ ctx → mget t.ctxs k = mget s.ctxs k) ∧
  (∀ (s : State) (ctx : Nat), s.powered = true → (mget s.ctxs ctx).isSome = true →
    ∃ t, exec (.contextDestroy ctx) s = .next t ∧ mget t.ctxs ctx = none ∧ (∀ k, k ≠ ctx → mget t.ctxs k = mget s.ctxs k) ∧
      (∀ p ∈ t.warps, p.2.ctx ≠ ctx) ∧ (∀ p ∈ t.wgs, p.2.ctx ≠ ctx) ∧ (∀ p ∈ t.grids, p.2.ctx ≠ ctx) ∧ (∀ p ∈ t.queues, p.2.ctx ≠ ctx) ∧ t.mem = drain s.mem s.hbmq)

/-- R355 and R367 to R373; the signature and the chain are free values of the module's seed. The model's choices: a key command leaves no line
under its key, clean ones too, and ATTEST_READ before any report gives no bytes (log entry 29); the public key is 1,952 bytes, filled with
zero (log entry 34). -/
def Obligations.Mailbox : Prop :=
  (∀ (s : State), MbReady s 0x0101 → fld (s.mb.arg 0) 3 0 ≤ 8 → exec .recRead s = .next (close s (answered s 0
    ((((((mgetD s.recorders (fld (s.mb.arg 0) 3 0) Recorder.empty).events.filter (fun e => decide (fld (s.mb.arg 0) 63 8 ≤ e.seq))).reverse).take 64).map
      (fun e => bytesOf256 e.bytes)).flatten)))) ∧
  (∀ (s : State), MbReady s 0x0201 → 1 ≤ (s.mb.arg 0).toNat → (s.mb.arg 0).toNat ≤ 255 →
    ∃ t, exec .keyGen s = .next t ∧ mget t.keys (s.mb.arg 0).toNat = some s.nextKeyGen ∧ t.nextKeyGen = s.nextKeyGen + 1 ∧ t.mb.key = some (s.mb.arg 0).toNat ∧ t.mb.performed = true ∧ t.mb.result = 0 ∧
      ∀ ln g, mget t.gal ln = some g → g.key ≠ (s.mb.arg 0).toNat) ∧
  (∀ (s : State), MbReady s 0x0202 → 1 ≤ (s.mb.arg 0).toNat → (s.mb.arg 0).toNat ≤ 255 →
    ∃ t, exec .keyClear s = .next t ∧ mget t.keys (s.mb.arg 0).toNat = none ∧ t.nextKeyGen = s.nextKeyGen ∧ t.mb.key = some (s.mb.arg 0).toNat ∧ t.mb.performed = true ∧ t.mb.result = 0 ∧
      ∀ ln g, mget t.gal ln = some g → g.key ≠ (s.mb.arg 0).toNat) ∧
  (∀ (s : State), MbReady s 0x0301 → (s.mb.arg 32).getLsbD 8 = false →
    ∃ t, exec .attestMake s = .next t ∧ t.mb.performed = true ∧ t.mb.result = 0 ∧ t.fw.report.take 48 = (wordBytes 0x1000000000000 ++ wordBytes (BitVec.ofNat 64 s.time) ++ s.mb.bytes 0 32) ∧
      t.fw.report.length = (s.reportHead (s.mb.bytes 0 32) none).length + 3309) ∧
  (∀ (s : State), MbReady s 0x0302 → (s.mb.arg 0).toNat ≤ 3452 →
    exec .attestRead s = .next (close s (answered s 0 ((s.fw.report.drop (s.mb.arg 0).toNat).take 2048)))) ∧
  (∀ (s : State), MbReady s 0x0303 →
    let l := (List.range 1952).map (fun i => (Config.mldsaPublic s.fuses.seed).getD i 0) ++ Config.identChain s.fuses.seed
    ((s.mb.arg 0).toNat < l.length → exec .identRead s = .next (close s (answered s 0 ((l.drop (s.mb.arg 0).toNat).take 2048)))) ∧
    (l.length ≤ (s.mb.arg 0).toNat → exec .identRead s = .next (close s (answered s 2 [])))) ∧
  (∀ (s : State), MbReady s 0x0401 →
    (400 ≤ (s.mb.arg 0).toNat → (s.mb.arg 0).toNat ≤ 2800 → exec .powerLimit s = .next (close s (answered { s with powerLimit := (s.mb.arg 0).toNat } 0 []))) ∧
    ((s.mb.arg 0).toNat < 400 ∨ 2800 < (s.mb.arg 0).toNat → exec .powerLimit s = .next (close s (answered s 2 [])))) ∧
  (∀ (s : State), MbReady s 0x0402 → exec .powerRead s = .next (close s (answered s 0
    (wordBytes (BitVec.ofNat 64 ((mvals s.sensors).foldl (fun a p => a + p.2) 0)) ++ wordBytes (BitVec.ofNat 64 ((mvals s.sensors).foldl (fun a p => max a p.1) 0)))))) ∧
  (∀ (s : State), s.powered = true → s.mb.busy = true → s.mb.performed = false → (∀ i c, mbCodeOf i = some c → s.mb.cmd ≠ c) → s.fw.ok = true →
    exec .mbUnknownCommand s = .next (close s (answered s 1 []))) ∧
  (∀ (s : State) (i : Instr) (c : Nat), mbCodeOf i = some c → s.powered = true → s.mb.busy = true → s.mb.performed = false → s.mb.cmd = c → s.fw.ok = false →
    exec i s = .next (close s (answered s 3 []))) ∧
  (∀ (s : State), s.powered = true → s.mb.busy = true → s.mb.performed = true → (∀ a ∈ s.mb.accs, mget s.accs a = none) →
    (∀ p ∈ s.mb.pends, ∀ q ∈ (s.hall p.1).pend, q.tag ≠ p.2) → (∀ p ∈ s.mb.reads, ∀ q ∈ (s.hall p.1).reads, q.tag ≠ p.2) →
    (∀ i ∈ s.mb.copies, ∀ p ∈ s.cores, ∀ q ∈ p.2.chans, q.2.id ≠ i) → (∀ i ∈ s.mb.remote, ∀ p ∈ s.ports, ∀ m ∈ p.2.accepted, m.1 ≠ i) →
    let freed (t : State) : State := { t with mb := { s.mb with busy := false, performed := false, accs := [], pends := [], copies := [], reads := [], remote := [], key := none } }
    (s.mb.key = none → exec .mbCommandDone s = .next (close s ((freed s).msix 64))) ∧
    (∀ k, s.mb.key = some k → (∀ w ∈ s.warps, ∀ g ∈ w.2.stq, ∀ x ∈ g.sinks, ∀ y ∈ x.xl, y.key ≠ k) →
      exec .mbCommandDone s = .next (close s ((freed (s.dropKeyed k)).msix 64)) ∧
      ∀ h ln c, mget ((s.dropKeyed k).hall h).cache ln = some c → (∀ g, mget s.gal ln = some g → g.key ≠ k) ∧ ∀ x, mget s.hlines ln = some x → x.key ≠ k))

/-- R335 and R349 to R356. The model's choices: the lines that the host holds and back-invalidation, and that a write of the load-store domain
drops every translation (log entry 37); CXL.mem runs under key ID 0 (log entry 29); the record of a context's stop waits for room (log
entry 41). -/
def Obligations.HostPort : Prop :=
  (∀ (s : State) (addr size data : Nat), s.powered = true → 0 < size →
    (s.fw.ok = true → addr + size ≤ 0x9000000000 →
      exec (.hostBar4Access false addr size data) s = .next (close s { s with out := s.out ++ [.readDone (s.barRead addr size)] }) ∧
      (addr % 128 + size ≤ 128 → ∃ t, exec (.hostBar4Access true addr size data) s = .next t ∧ (t.galBytes addr size 0).1 = data % 2 ^ (8 * size) ∧
        ((mget s.gal (addr / 128)).isSome = true → ∀ ln, ln ≠ addr / 128 → mget t.gal ln = mget s.gal ln))) ∧
    (0x9000000000 < addr + size → ∀ wr, exec (.hostBar4Access wr addr size data) s = .next (close s { s with out := s.out ++ [.unsupported] }))) ∧
  (∀ (s : State) (v : Word), s.powered = true →
    exec (.registerWrite 0x10 v) s = .next (close s { s with xlinv := { s.xlinv with addr := BitVec.ofNat 64 (65536 * fld v 56 16) } }) ∧
    exec (.registerWrite 0x30 v) s = .next (close s { s with
      domain := BitVec.ofNat 64 (2 ^ 63 * fld v 63 63 + 2 ^ 16 * fld v 25 16 + fld v 9 0), walkCache := [],
      cores := s.cores.map (fun p => (p.1, { p.2 with tlb := [] })), clusters := s.clusters.map (fun p => (p.1, { p.2 with tlb := [] })),
      halls := s.halls.map (fun p => (p.1, { p.2 with tlb := [] })) }) ∧
    (s.ctxsw.busy = false → exec (.registerWrite 0x20 v) s = .next (close s { s with ctxsw := { s.ctxsw with area := BitVec.ofNat 64 (4096 * fld v 56 12) } })) ∧
    (s.ctxsw.busy = false → exec (.registerWrite 0x38 v) s = .next (close s { s with ctxsw := { s.ctxsw with size := BitVec.ofNat 64 (4096 * fld v 39 12) } })) ∧
    (s.mb.busy = false → exec (.registerWrite 0x400 v) s = .next (close s { s with mb := { s.mb with busy := true, performed := false, result := 0, len := fld v 43 32, cmd := fld v 15 0 } })) ∧
    (∀ off, (off < 0x800 ∧ off ∉ [0x10, 0x18, 0x20, 0x28, 0x30, 0x38, 0x400]) ∨ (0x1000 ≤ off ∧ off < 0x2000) ∨ 0x2530 ≤ off → exec (.registerWrite off v) s = .next (close s s))) ∧
  (∀ (s : State) (ln : Nat) (data : Line), s.powered = true → s.cxl = true → s.fw.ok = true → 128 * ln + 128 ≤ 0x9000000000 →
    (∃ t g l, exec (.cxlMemRequest true (128 * ln) data) s = .next t ∧ mget t.gal ln = some g ∧ g.data = data ∧ ln ∉ t.hostHeld ∧
      t.out = s.out ++ l ++ [.writeDone] ∧ ((mget s.gal ln).isSome = true → l = [])) ∧
    (∃ t l, exec (.cxlMemRequest false (128 * ln) data) s = .next t ∧ ln ∈ t.hostHeld ∧
      t.out = s.out ++ l ++ [.lineRead (s.galFetch ln 0).data] ∧ ((mget s.gal ln).isSome = true → l = []))) ∧
  (∀ (s : State) (r : FRec) (l m : List FRec) (c : Ctx), s.powered = true → s.frecs = l ++ r :: m → mget s.ctxs r.ctx = some c → s.ringRoom c = true →
    (∀ q ∈ l, ∀ d, mget s.ctxs q.ctx = some d → s.ringRoom d = false) →
    let w := (({ s with frecs := l ++ m } : State).writeRecord r).postStops
    exec .faultRecordDrain s = .next (close s ((mkeys w.queues).foldl (fun (s : State) q => s.alcoveMoveAll q) w)) ∧
    (w.queues = [] → exec .faultRecordDrain s = .next (close s w))) ∧
  (∀ (s : State), s.powered = true → s.frecs = [] → s.stopsFit ≠ [] → s.queues = [] → exec .faultRecordDrain s = .next (close s s.postStops)) ∧
  (∀ (s : State) (ctx : Nat) (c : Ctx) (r : FRec), mget s.ctxs ctx = some c → c.stopRec = some r → r.ctx = ctx → s.frecs = [] → s.stopsFit = [ctx] →
    ∃ y, mget s.postStops.ctxs ctx = some y ∧ y.stopRec = none ∧ (s.ringRoom c = false → s.postStops.frecs = [r])) ∧
  (∀ (s : State) (ctx : Nat) (c : Ctx), s.powered = true → mget s.ctxs ctx = some c → c.msixDue = true → (∀ x, c.msixAt = some x → x + 2000 ≤ s.time) →
    exec (.msixRateTimer ctx) s = .next (close s (({ s with ctxs := mset s.ctxs ctx { c with msixDue := false, msixAt := some s.time } } : State).msix ctx)))

/-- R357 and R358. That a port trains first and narrows in a second event is log entry 29 (the model's inference); that a DISC and a CLEAN travel
as requests of their own is log entry 40 (the model's choice). -/
def Obligations.PackageLinks : Prop :=
  (∀ (s : State) (port : Nat) (f : HFlit), PortUp s port →
    (f.msgs ≠ [] → f.seq = (s.port port).expect → f.ack = none → f.nak = none → (∀ m ∈ (s.port port).accepted, isAnswer m.2 = false) → (∀ m ∈ f.msgs, isAnswer m = false) →
      ∃ t, exec (.hslFlitReceive port f true) s = .next t ∧ (t.port port).accepted = (s.port port).accepted ++ f.msgs.map (fun m => (s.nextId, m)) ∧ t.nextId = s.nextId + 1 ∧
        (t.port port).expect = ((s.port port).expect + 1) % 1024 ∧ (t.port port).ackOwed = none) ∧
    exec (.hslFlitReceive port f false) s = .next (close s (s.setPort port { s.port port with
      sent := (s.port port).sent ++ [{ seq := 0, msgs := [], ack := none, nak := some (s.port port).expect }] }))) ∧
  (∀ (s : State) (port : Nat), s.powered = true → port < 64 →
    ((s.port port).lanes ≠ 0 → (s.port port).training = false → exec (.hslPortDegrade port) s = .next (close s (s.setPort port { s.port port with training := true }))) ∧
    ((s.port port).lanes = 4 → (s.port port).training = true → ∃ t, exec (.hslPortDegrade port) s = .next t ∧ (t.port port).lanes = 2 ∧ (t.port port).training = false) ∧
    ((s.port port).lanes = 1 → (s.port port).training = true → (s.port port).replay = [] → (s.port port).waiting = [] → (s.port port).held = [] →
      ∃ t, exec (.hslPortDegrade port) s = .next t ∧ (t.port port).lanes = 0 ∧ (t.port port).training = false)) ∧
  (∀ (s : State) (port : Nat) (o : Nat) (m : HMsg) (l : List (Nat × HMsg)), s.powered = true → (s.port port).accepted = (o, m) :: l → m.pa < 0x9000000000 →
    (∀ p ∈ s.ports, ∀ q ∈ p.2.accepted, q.1 < o → q.2.src = m.src → q.2.pa / 128 = m.pa / 128 → False) →
    (m.kind = .store → ∃ t g, exec (.remoteRequest port) s = .next t ∧ mget t.gal (m.pa / 128) = some g ∧
      g.data = mergeLine (s.galFetch (m.pa / 128) m.key).data m.data m.mask ∧ g.dirty = true ∧ (t.port port).accepted = l ∧
      ((mget s.gal (m.pa / 128)).isSome = true → ∀ ln, ln ≠ m.pa / 128 → mget t.gal ln = mget s.gal ln)) ∧
    (m.kind = .load → ∃ t, exec (.remoteRequest port) s = .next t ∧ (t.port port).accepted = l ∧
      t = close s ((((s.setPort port { s.port port with accepted := l }).galRead (some m.ctx) (m.pa / 128) m.key none).1).sendMsg
        { m with kind := .loadDone, src := fld s.domain 9 0, dst := m.src, data := (s.galFetch (m.pa / 128) m.key).data,
                 poisoned := ((s.galFetch (m.pa / 128) m.key).pois &&& sectTouched m.mask) != 0 })) ∧
    (m.kind = .disc → ∃ t g, exec (.remoteRequest port) s = .next t ∧ mget t.gal (m.pa / 128) = some g ∧ g.data = 0 ∧ g.pois = 0 ∧ g.keep = [] ∧ (t.port port).accepted = l ∧
      (∀ h, mget (t.hall h).cache (m.pa / 128) = none) ∧ ∀ c, mget (t.core c).l1 (m.pa / 128) = none) ∧
    (m.kind = .clean → s.tileAt (m.pa / 128) = none → ∀ g, mget s.gal (m.pa / 128) = some g → g.dirty = true →
      ∃ t, exec (.remoteRequest port) s = .next t ∧ mget t.gal (m.pa / 128) = some { g with dirty := false } ∧ t.mem = drain s.mem (s.hbmq ++ [(m.pa / 128, g.data)]) ∧ (t.port port).accepted = l) ∧
    (m.kind = .atomic → (m.pa % 128) + m.size ≤ 128 →
      ((s.galBytes m.pa m.size m.key).2 = true → ∃ t, exec (.remoteRequest port) s = .next t ∧ t.gal = s.gal) ∧
      ((s.galBytes m.pa m.size m.key).2 = false → ∃ t, exec (.remoteRequest port) s = .next t ∧ (t.port port).accepted = l ∧
        (t.galBytes m.pa m.size m.key).1 =
          atomApply m.aop (m.size == 8) m.acas m.af32 (s.galBytes m.pa m.size m.key).1 (lineBytes m.data 0 8) (lineBytes m.data 8 8) % 2 ^ (8 * m.size)))) ∧
  (∀ (s : State) (tag : Nat) (r : ExtReq), s.powered = true → mget s.ext tag = some r → r.host = false → r.since + s.timeout ≤ s.time → s.postRoom r.msg.ctx = true →
    (s.port r.port).training = false → (∀ p ∈ s.ports, tag ∉ p.2.unsent) →
    (∀ aid a, r.msg.kind = .load ∨ r.msg.kind = .atomic → r.aid = some aid → mget s.accs aid = some a → a.stat = .outside tag →
      exec (.remoteCompletionTimeout tag) s = .next (close s ((({ s with ext := mdel s.ext tag } : State).portFree r.port).accFail aid 0x17 (BitVec.ofNat 64 a.va)))) ∧
    (∀ p, r.msg.kind = .store → r.hall < 8 → (s.hall r.hall).pend.find? (fun p => p.tag == r.wtag) = some p →
      exec (.remoteCompletionTimeout tag) s = .next (close s (((({ s with ext := mdel s.ext tag } : State).portFree r.port).updHall r.hall (fun h =>
        { h with pend := h.pend.filter (fun p => p.tag != r.wtag) })).post
        { ctx := p.ctx, w0 := recWord0 5 0x17 p.ctx p.level p.mode p.slot p.lane p.seq, info := BitVec.ofNat 64 p.va, block := p.blk, handle := 0 }))))

/-- R183, R335, R343, R360 to R366, R368, R373 and R374; what HBM and the recorders keep over a reset is log entries 28 and 29. The model's
choices of log entry 34: steps of 25 MHz under throttle, a clock raised only within the sensed power, the islands of a die, the clocks
after a reset, the keys kept over it, and the facts of an image that is powered on with; that the record of a stop waits for room is log
entry 41. -/
def Obligations.ErrorsAndPower : Prop :=
  (∀ (s : State) (hall cause : Nat), s.powered = true → hall < 8 → (s.hall hall).fatal = false → cause = 2 ∨ cause = 3 →
    exec (.hallFatalError hall cause) s = .next (close s (s.hallFatal hall cause)) ∧
    (s.ctxs = [] → s.wgs = [] → s.bars = [] → ((s.hallFatal hall cause).hall hall).fatal = true ∧ ((s.hallFatal hall cause).hall hall).cache = [] ∧
      ((s.hallFatal hall cause).hall hall).stores = [] ∧ ((s.hallFatal hall cause).hall hall).pend = [] ∧
      ((s.hallFatal hall cause).hall hall).reads = [] ∧ ((s.hallFatal hall cause).hall hall).busy = [] ∧ ((s.hallFatal hall cause).hall hall).held = [] ∧ ∀ p ∈ (s.hallFatal hall cause).gal, hall ∉ p.2.halls) ∧
    (s.slices = [] → (∀ p ∈ s.wgs, p.2.alcove = false) →
      (∀ core, hallOfCore core = hall → ((s.hallFatal hall cause).core core).chans = [] ∧ ((s.hallFatal hall cause).core core).mres = []) ∧
      (∀ c x, mget s.ctxs c = some x → x.stopped = false → (∃ p ∈ s.wgs, p.2.ctx = c ∧ hallOfCore p.2.core = hall ∧ p.2.ended = false) →
        (∃ y, mget (s.hallFatal hall cause).ctxs c = some y ∧ y.stopped = true) ∧ (∀ p ∈ (s.hallFatal hall cause).warps, p.2.ctx ≠ c) ∧
        (∀ p ∈ (s.hallFatal hall cause).wgs, p.2.ctx ≠ c) ∧
        (s.ctxs = [(c, x)] → (s.hallFatal hall cause).frecs = (s.contextStop c 0x3F 0x3F 0 0 hall 0).frecs)) ∧
      (s.ctxs = [] → s.wgs = [] → ∀ pa key, s.bars = [(pa, key)] → pa % 128 + 16 ≤ 128 →
        ((s.hallFatal hall cause).galBytes pa 16 key).1 = breakIn hall (s.galBytes pa 16 key).1 % 2 ^ 128))) ∧
  (∀ (s : State) (ctx : Nat) (code cause : BitVec 8) (w0lo : Nat) (block : Word) (r unit : Nat) (c : Ctx), mget s.ctxs ctx = some c → c.stopped = false →
    let u := s.contextStop ctx code cause w0lo block r unit
    let q : FRec := { ctx := ctx, w0 := recWord0 4 code.toNat ctx 0 0 0 0 0 ||| BitVec.ofNat 64 w0lo, info := cause.zeroExtend 64, block := block, handle := 0 }
    (∃ y, mget u.ctxs ctx = some y ∧ y.stopped = true) ∧ (∀ p ∈ u.warps, p.2.ctx ≠ ctx) ∧ (∀ p ∈ u.wgs, p.2.ctx ≠ ctx) ∧ (∀ x ∈ u.slices, x.ctx ≠ ctx) ∧
    (c.recipes = [] → s.ringRoom c = false →
      (s.frecs.length < 4096 → u.frecs = s.frecs ++ [q]) ∧
      (4096 ≤ s.frecs.length → u.frecs = s.frecs ∧ ∃ y, mget u.ctxs ctx = some y ∧ y.stopRec = some q)) ∧
    (c.recipes = [] → s.ringRoom c = true → (∀ x ∈ s.frecs, x.ctx ≠ ctx) → c.cfg.faultCtl % 128 + 8 ≤ 128 →
      u.frecs = s.frecs ∧ u.faultProd c = (s.faultProd c + 1) % 2 ^ 64)) ∧
  (∀ (s : State) (ctx wid : Nat) (w : Warp) (c : Ctx), s.powered = true → s.warp wid = some w → mget s.ctxs ctx = some c → w.ctx = ctx → c.stopped = false →
    exec (.contextFatalError ctx wid) s = .next (close s (s.contextStop ctx 0x17 0x17 (s.recOf w 0 0 0 0).toNat ((w.top.map (·.pc)).getD 0) (s.hallOf w)
      (s.coreOf w / 8 % 13 * 256 + s.coreOf w % 8)))) ∧
  (∀ (s : State) (wg k : Nat) (g : Wg), s.powered = true → mget s.wgs wg = some g → 8 * k < g.size →
    ∃ t, exec (.uncorrectedError (.scratch wg k)) s = .next t ∧ (t.memOf wg).scrPois (8 * k) 8 = true ∧ (∀ a n, (t.memOf wg).scr a n = (s.memOf wg).scr a n)) ∧
  (∀ (s : State) (ln sec : Nat), s.powered = true → sec < 4 → 128 * ln < 0x9000000000 →
    ∃ t, exec (.uncorrectedError (.hbm ln sec)) s = .next t ∧
      (s.tileAt ln = none → t.gal = s.gal ∧ t.mem = drain s.mem s.hbmq ∧ ∃ h, mget t.hlines ln = some h ∧ h.pois.getLsbD sec = true)) ∧
  (∀ (s : State) (r unit addr : Nat), s.powered = true → r < 9 → (∀ p ∈ s.corr, ¬(p.1 = r ∧ p.2.1 = unit)) →
    ∃ t, exec (.correctedError r unit addr) s = .next t ∧ t.corr = s.corr ++ [(r, unit, 0, s.time)] ∧
      ((mgetD t.recorders r Recorder.empty).events.head?).map (·.code) = some 1) ∧
  (∀ (s : State) (island mhz : Nat), s.powered = true → island < 1024 → (island < 832 → 400 ≤ mhz ∧ mhz ≤ 1050 ∧ mhz % 25 = 0) →
    mhz ≤ mgetD s.islands island 800 ∨ (dieOf island ∉ s.throttled ∧ (mvals s.sensors).foldl (fun a p => a + p.2) 0 ≤ 1000 * s.powerLimit) →
    ∃ t, exec (.islandClockChange island mhz) s = .next t ∧ mget t.islands island = some mhz ∧
      (island < 832 → (t.core island).clkBase = (s.clock island).toNat ∧ (t.core island).clkSince = s.time) ∧
      ∀ k, k ≠ island → mget t.islands k = mget s.islands k) ∧
  (∀ (s : State) (die : Nat), s.powered = true →
    (die ∉ s.throttled → 100000 ≤ s.dieTemp die → ∃ t, exec (.thermalThrottleEnter die) s = .next t ∧ die ∈ t.throttled ∧
      ∀ i, i < 1024 → mgetD t.islands i 800 = if dieOf i = die ∧ 400 < mgetD s.islands i 800 then max 400 (mgetD s.islands i 800 - 25) else mgetD s.islands i 800) ∧
    (die ∈ s.throttled → s.dieTemp die ≤ 95000 → ∃ t, exec (.thermalThrottleExit die) s = .next t ∧ die ∉ t.throttled)) ∧
  (∀ (s : State), s.powered = true → (∃ p ∈ s.sensors, 110000 ≤ p.2.1) →
    ∃ t, exec .thermalPowerOff s = .next t ∧ t.powered = false ∧ t.keys = [] ∧ t.ctxs = [] ∧ t.warps = []) ∧
  (∀ (s : State), s.powered = true → ∃ t, exec .packageReset s = .next t ∧ t.powered = true ∧ t.ctxs = [] ∧ t.warps = [] ∧ t.wgs = [] ∧ t.gal = [] ∧ t.halls = [] ∧ t.cores = [] ∧
    t.time = s.time ∧ t.mem = drain s.mem s.hbmq ∧ t.keys = s.keys ∧ t.recorders = s.recorders ∧ t.domain = 0 ∧ t.islands = [] ∧ t.throttled = [] ∧ t.resetAt = s.time ∧ t.xlinv = Xlinv.reset ∧ t.ctxsw = Ctxsw.reset) ∧
  (∀ (s : State) (img : List (BitVec 8)), s.powered = false →
    ∃ t, exec (.powerOn img (Config.imageSecver img) (Config.imageSigned img) (Config.imageRaise img)) s = .next t ∧ t.powered = true ∧ t.time = 0 ∧ t.ctxs = [] ∧ t.warps = [] ∧ t.keys = [(0, s.nextKeyGen)] ∧ t.fuses = s.fuses ∧
      (t.fw.ok = true ↔ Config.imageSigned img = true ∧ Config.imageKeyDigest img = s.fuses.keyDigest ∧ s.fw.secMin ≤ (Config.imageSecver img).toNat) ∧
      (t.fw.ok = true → t.fw.secver = (Config.imageSecver img).toNat ∧ t.fw.secMin = max s.fw.secMin ((Config.imageRaise img).getD 0).toNat) ∧
      (t.fw.ok = false → t.fw.secMin = s.fw.secMin ∧ t.fw.hash = 0))
end

