-- ==== Sys2Proof/Laws/Maps.lean ====
section
/-!
SUPPORT. Sys2Proof/Laws/Maps.lean: reading a keyed list after it was written, sets of lanes, and what keeps keys rising.
-/
namespace Sys2Proof.Machine

variable {α : Type}

/-! ## Reading after writing -/

@[simp] theorem mget_nil (k : Nat) : mget ([] : NMap α) k = none := rfl

theorem mget_mset (m : NMap α) (k : Nat) (v : α) (j : Nat) : mget (mset m k v) j = if j = k then some v else mget m j := by
  induction m with
  | nil => simp [mset, mget, eq_comm]
  | cons p r ih =>
    obtain ⟨a, w⟩ := p
    unfold mset
    split
    · simp only [mget]
      by_cases h : j = k
      · subst h; simp
      · rw [if_neg (fun e => h e.symm), if_neg h]
    · split
      · rename_i h; subst h
        simp only [mget]
        by_cases h : j = k
        · subst h; simp
        · simp [if_neg h, if_neg (fun e => h (Eq.symm e))]
      · simp only [mget, ih]
        by_cases h : a = j
        · subst h
          rename_i h2
          simp [Ne.symm h2]
        · simp [h]

@[simp] theorem mget_mset_self (m : NMap α) (k : Nat) (v : α) : mget (mset m k v) k = some v := by
  rw [mget_mset, if_pos rfl]

theorem mget_mset_other (m : NMap α) {k j : Nat} (v : α) (h : j ≠ k) : mget (mset m k v) j = mget m j := by
  rw [mget_mset, if_neg h]

theorem mget_mdel (m : NMap α) (k j : Nat) : mget (mdel m k) j = if j = k then none else mget m j := by
  induction m with
  | nil => simp [mdel]
  | cons p r ih =>
    obtain ⟨a, w⟩ := p
    unfold mdel at ih ⊢
    by_cases h : a = k
    · subst h
      simp only [List.filter_cons, bne_self_eq_false, Bool.false_eq_true, if_false, ih, mget]
      by_cases h2 : j = a
      · simp [h2]
      · simp [h2, Ne.symm h2]
    · have hb : (a != k) = true := by simpa using h
      simp only [List.filter_cons, hb, if_true, mget, ih]
      by_cases h2 : a = j
      · subst h2; simp [h]
      · simp [h2]

theorem mget_mupd (m : NMap α) (k : Nat) (f : α → α) (j : Nat) : mget (mupd m k f) j = if j = k then (mget m j).map f else mget m j := by
  induction m with
  | nil => simp [mupd]
  | cons p r ih =>
    obtain ⟨a, w⟩ := p
    have e : mupd ((a, w) :: r) k f = (if a = k then (a, f w) else (a, w)) :: mupd r k f := rfl
    rw [e]
    by_cases h : a = k
    · subst h
      simp only [if_true, mget, ih]
      by_cases h2 : a = j
      · subst h2; simp
      · simp [h2]
    · simp only [if_neg h, mget, ih]
      by_cases h2 : a = j
      · subst h2; simp [h]
      · simp [h2]

theorem mgetD_mset (m : NMap α) (k : Nat) (v : α) (j : Nat) (d : α) :
    mgetD (mset m k v) j d = if j = k then v else mgetD m j d := by
  unfold mgetD
  rw [mget_mset]
  split <;> rfl

@[simp] theorem mgetD_mset_self (m : NMap α) (k : Nat) (v d : α) : mgetD (mset m k v) k d = v := by rw [mgetD_mset, if_pos rfl]

theorem mgetD_msetD [DecidableEq α] (m : NMap α) (k : Nat) (v d : α) (j : Nat) :
    mgetD (msetD m k v d) j d = if j = k then v else mgetD m j d := by
  unfold msetD
  split
  · rename_i h; subst h
    unfold mgetD
    rw [mget_mdel]
    split <;> rfl
  · exact mgetD_mset m k v j d

/-! ## Keys stay rising -/

theorem mwf_cons {p : Nat × α} {r : NMap α} : mwf (p :: r) = true ↔ (∀ q ∈ r, p.1 < q.1) ∧ mwf r = true := by
  induction r generalizing p with
  | nil => simp [mwf]
  | cons q r ih =>
    obtain ⟨a, v⟩ := p
    obtain ⟨b, w⟩ := q
    have e : mwf ((a, v) :: (b, w) :: r) = (decide (a < b) && mwf ((b, w) :: r)) := rfl
    rw [e, Bool.and_eq_true, decide_eq_true_iff]
    constructor
    · rintro ⟨h1, h2⟩
      refine ⟨?_, h2⟩
      intro q hq
      rcases List.mem_cons.1 hq with rfl | hq
      · exact h1
      · exact Nat.lt_trans h1 ((ih.1 h2).1 q hq)
    · rintro ⟨h1, h2⟩
      exact ⟨h1 _ (List.mem_cons_self ..), h2⟩

theorem mem_mset {m : NMap α} {k : Nat} {v : α} {q : Nat × α} (h : q ∈ mset m k v) : q = (k, v) ∨ q ∈ m := by
  induction m with
  | nil => simpa [mset] using h
  | cons p r ih =>
    obtain ⟨a, w⟩ := p
    unfold mset at h
    split at h
    · rcases List.mem_cons.1 h with h | h
      · exact .inl h
      · exact .inr h
    · split at h
      · rcases List.mem_cons.1 h with h | h
        · exact .inl h
        · exact .inr (List.mem_cons_of_mem _ h)
      · rcases List.mem_cons.1 h with h | h
        · exact .inr (h ▸ List.mem_cons_self ..)
        · rcases ih h with h | h
          · exact .inl h
          · exact .inr (List.mem_cons_of_mem _ h)

theorem mwf_mset (m : NMap α) (k : Nat) (v : α) (h : mwf m = true) : mwf (mset m k v) = true := by
  induction m with
  | nil => rfl
  | cons p r ih =>
    obtain ⟨a, w⟩ := p
    obtain ⟨h1, h2⟩ := mwf_cons.1 h
    unfold mset
    split
    · rename_i hk
      refine mwf_cons.2 ⟨?_, h⟩
      intro q hq
      rcases List.mem_cons.1 hq with rfl | hq
      · exact hk
      · exact Nat.lt_trans hk (h1 q hq)
    · split
      · rename_i hk; subst hk
        exact mwf_cons.2 ⟨h1, h2⟩
      · rename_i hk1 hk2
        refine mwf_cons.2 ⟨?_, ih h2⟩
        intro q hq
        rcases mem_mset hq with rfl | hq
        · show a < k
          omega
        · exact h1 q hq

theorem mwf_filter (m : NMap α) (p : Nat × α → Bool) (h : mwf m = true) : mwf (m.filter p) = true := by
  induction m with
  | nil => rfl
  | cons q r ih =>
    obtain ⟨h1, h2⟩ := mwf_cons.1 h
    rw [List.filter_cons]
    split
    · exact mwf_cons.2 ⟨fun x hx => h1 x (List.mem_filter.1 hx).1, ih h2⟩
    · exact ih h2

theorem mwf_mdel (m : NMap α) (k : Nat) (h : mwf m = true) : mwf (mdel m k) = true := mwf_filter m _ h

/-! ## Lanes -/

theorem mem_lanesOf {m : Lanes} {l : Nat} : l ∈ lanesOf m ↔ l < 64 ∧ m.getLsbD l = true := by
  simp [lanesOf, List.mem_filter]

theorem lanesOf_nodup (m : Lanes) : (lanesOf m).Nodup := List.nodup_range.sublist List.filter_sublist

theorem hasLane_or_laneBit (m : Lanes) (l j : Nat) (hj : j < 64) : hasLane (m ||| laneBit l) j = (hasLane m j || decide (j = l)) := by
  simp only [hasLane, laneBit, BitVec.getLsbD_or, BitVec.getLsbD_shiftLeft]
  congr 1
  by_cases h : j = l
  · subst h; simp [hj]
  · simp [h]
    intros
    omega

end Sys2Proof.Machine
end

