-- ==== Sys2Proof/Laws/Memory.lean ====
section
/-!
SUPPORT. Sys2Proof/Laws/Memory.lean: HBM keeps its canonical form, and a byte reads as it was last written (log entry 6).
-/
namespace Sys2Proof.Machine

theorem Memory.wf_cons {p : Host.Cell} {r : List Host.Cell} :
    Memory.wf (p :: r) = true ↔ p.2 ≠ 0 ∧ (∀ q ∈ r, p.1 < q.1) ∧ Memory.wf r = true := by
  induction r generalizing p with
  | nil => obtain ⟨a, v⟩ := p; simp [Memory.wf]
  | cons q r ih =>
    obtain ⟨a, v⟩ := p
    obtain ⟨b, w⟩ := q
    have e : Memory.wf ((a, v) :: (b, w) :: r) = (decide (a < b) && v != 0 && Memory.wf ((b, w) :: r)) := rfl
    rw [e, Bool.and_eq_true, Bool.and_eq_true, decide_eq_true_iff, bne_iff_ne]
    constructor
    · rintro ⟨⟨h1, h0⟩, h2⟩
      refine ⟨h0, ?_, h2⟩
      intro q hq
      rcases List.mem_cons.1 hq with rfl | hq
      · exact h1
      · exact Nat.lt_trans h1 ((ih.1 h2).2.1 q hq)
    · rintro ⟨h0, h1, h2⟩
      exact ⟨⟨h1 _ (List.mem_cons_self ..), h0⟩, h2⟩

theorem Memory.wf_filter (m : List Host.Cell) (p : Host.Cell → Bool) (h : Memory.wf m = true) : Memory.wf (m.filter p) = true := by
  induction m with
  | nil => rfl
  | cons q r ih =>
    obtain ⟨h0, h1, h2⟩ := Memory.wf_cons.1 h
    rw [List.filter_cons]
    split
    · exact Memory.wf_cons.2 ⟨h0, fun x hx => h1 x (List.mem_filter.1 hx).1, ih h2⟩
    · exact ih h2

theorem Memory.wf_append {a b : List Host.Cell} (ha : Memory.wf a = true) (hb : Memory.wf b = true)
    (h : ∀ x ∈ a, ∀ y ∈ b, x.1 < y.1) : Memory.wf (a ++ b) = true := by
  induction a with
  | nil => exact hb
  | cons q r ih =>
    obtain ⟨h0, h1, h2⟩ := Memory.wf_cons.1 ha
    refine Memory.wf_cons.2 ⟨h0, ?_, ih h2 (fun x hx => h x (List.mem_cons_of_mem _ hx))⟩
    intro x hx
    rcases List.mem_append.1 hx with hx | hx
    · exact h1 x hx
    · exact h q (List.mem_cons_self ..) x hx

theorem lineCells_range (l : Line) (a n : Nat) : ∀ x ∈ lineCells l a n, a ≤ x.1 ∧ x.1 < a + n := by
  induction n generalizing a with
  | zero => intro x hx; simp [lineCells] at hx
  | succ n ih =>
    intro x hx
    unfold lineCells at hx
    split at hx
    · have := ih _ x hx; omega
    · rcases List.mem_cons.1 hx with rfl | hx
      · simp
      · have := ih _ x hx; omega

theorem lineCells_wf (l : Line) (a n : Nat) : Memory.wf (lineCells l a n) = true := by
  induction n generalizing a with
  | zero => rfl
  | succ n ih =>
    unfold lineCells
    split
    · exact ih _
    · rename_i h
      refine Memory.wf_cons.2 ⟨h, ?_, ih _⟩
      intro q hq
      have := lineCells_range l (a + 1) n q hq
      show a < q.1
      omega

/-- Writing a line keeps the canonical form. -/
theorem memSetLine_wf (m : List Host.Cell) (ln : Nat) (l : Line) (h : Memory.wf m = true) : Memory.wf (memSetLine m ln l) = true := by
  unfold memSetLine
  refine Memory.wf_append (Memory.wf_append (Memory.wf_filter _ _ h) (lineCells_wf ..) ?_) (Memory.wf_filter _ _ h) ?_
  · intro x hx y hy
    have h1 := (List.mem_filter.1 hx).2
    have h2 := lineCells_range _ _ _ y hy
    simp only [decide_eq_true_eq] at h1
    omega
  · intro x hx y hy
    have h1 := (List.mem_filter.1 hy).2
    simp only [decide_eq_true_eq] at h1
    rcases List.mem_append.1 hx with hx | hx
    · have h2 := (List.mem_filter.1 hx).2
      simp only [decide_eq_true_eq] at h2
      omega
    · have h2 := lineCells_range _ _ _ x hx
      omega

/-- The lines that a step writes keep the canonical form. -/
theorem drain_wf (m : List Host.Cell) (q : List (Nat × Line)) (h : Memory.wf m = true) : Memory.wf (drain m q) = true := by
  unfold drain
  induction q generalizing m with
  | nil => exact h
  | cons p r ih => exact ih _ (memSetLine_wf m p.1 p.2 h)

@[simp] theorem drain_nil (m : List Host.Cell) : drain m [] = m := rfl

/-! ## Reading one byte -/

theorem mget_filter_ge (m : List Host.Cell) (p : Host.Cell → Bool) (a : Nat) (h : ∀ x ∈ m, x.1 = a → p x = true) : mget (m.filter p) a = mget m a := by
  induction m with
  | nil => rfl
  | cons q r ih =>
    obtain ⟨b, w⟩ := q
    have ih := ih (fun x hx => h x (List.mem_cons_of_mem _ hx))
    rw [List.filter_cons]
    by_cases hb : b = a
    · rw [if_pos (h _ (List.mem_cons_self ..) hb)]; simp [mget, hb]
    · split
      · simp [mget, hb, ih]
      · simp [mget, hb, ih]

theorem mget_filter_none (m : List Host.Cell) (p : Host.Cell → Bool) (a : Nat) (h : ∀ x ∈ m, x.1 = a → p x = false) : mget (m.filter p) a = none := by
  induction m with
  | nil => rfl
  | cons q r ih =>
    obtain ⟨b, w⟩ := q
    have ih := ih (fun x hx => h x (List.mem_cons_of_mem _ hx))
    rw [List.filter_cons]
    by_cases hb : b = a
    · rw [if_neg (by rw [h _ (List.mem_cons_self ..) hb]; decide)]; exact ih
    · split
      · simp [mget, hb, ih]
      · exact ih

theorem mget_append (x y : List Host.Cell) (a : Nat) : mget (x ++ y) a = (mget x a).or (mget y a) := by
  induction x with
  | nil => rfl
  | cons q r ih =>
    obtain ⟨b, w⟩ := q
    simp only [List.cons_append, mget]
    split
    · rfl
    · exact ih

theorem mget_lineCells (l : Line) (a n k : Nat) (hn : n ≤ 128) (hk : k < n) :
    (mget (lineCells l a n) (a + k)).getD 0 = lineByte l (128 - n + k) := by
  induction n generalizing a k with
  | zero => omega
  | succ n ih =>
    unfold lineCells
    cases k with
    | zero =>
      have e : 128 - (n + 1) + 0 = 127 - n := by omega
      rw [e]
      split
      · rename_i h
        rw [h]
        have : mget (lineCells l (a + 1) n) (a + 0) = none := by
          cases hm : mget (lineCells l (a + 1) n) (a + 0) with
          | none => rfl
          | some v =>
            exfalso
            have hx : (a, v) ∈ lineCells l (a + 1) n := by
              have : ∀ (m : List Host.Cell) (k : Nat) (v : BitVec 8), mget m k = some v → (k, v) ∈ m := by
                intro m k v
                induction m with
                | nil => simp [mget]
                | cons p r ih =>
                  obtain ⟨b, w⟩ := p
                  unfold mget
                  split
                  · rename_i e; subst e
                    intro h; cases h; exact List.mem_cons_self ..
                  · intro h; exact List.mem_cons_of_mem _ (ih h)
              exact this _ _ _ hm
            have := lineCells_range _ _ _ _ hx
            simp only at this
            omega
        rw [this]; rfl
      · simp [mget]
    | succ k =>
      have e1 : a + (k + 1) = a + 1 + k := by omega
      have e2 : 128 - (n + 1) + (k + 1) = 128 - n + k := by omega
      rw [e1, e2]
      split
      · exact ih _ _ (by omega) (by omega)
      · have : a ≠ a + 1 + k := by omega
        simp only [mget, if_neg this]
        exact ih _ _ (by omega) (by omega)

theorem mget_lineCells_other (l : Line) (a n b : Nat) (h : b < a ∨ a + n ≤ b) : mget (lineCells l a n) b = none := by
  induction n generalizing a with
  | zero => rfl
  | succ n ih =>
    unfold lineCells
    split
    · exact ih _ (by omega)
    · have : a ≠ b := by omega
      simp only [mget, if_neg this]
      exact ih _ (by omega)

/-- One byte of HBM: a listed one, or zero (log entry 6). -/
theorem mgetD_memSetLine (m : List Host.Cell) (ln : Nat) (l : Line) (a : Nat) :
    mgetD (memSetLine m ln l) a 0 = if a / 128 = ln then lineByte l (a % 128) else mgetD m a 0 := by
  unfold memSetLine mgetD
  rw [mget_append, mget_append]
  by_cases h : a / 128 = ln
  · rw [if_pos h]
    have e : a = 128 * ln + a % 128 := by omega
    have hl : a % 128 < 128 := Nat.mod_lt _ (by decide)
    rw [mget_filter_none _ _ _ (by intro x _ hx; simp only [decide_eq_false_iff_not]; omega)]
    rw [mget_filter_none _ _ _ (by intro x _ hx; simp only [decide_eq_false_iff_not]; omega)]
    have := mget_lineCells l (128 * ln) 128 (a % 128) (Nat.le_refl _) hl
    rw [← e] at this
    simpa using this
  · rw [if_neg h, mget_lineCells_other _ _ _ _ (by omega)]
    by_cases h2 : a < 128 * ln
    · rw [mget_filter_ge _ _ _ (by intro x _ hx; simp only [decide_eq_true_eq]; omega)]
      rw [mget_filter_none _ _ _ (by intro x _ hx; simp only [decide_eq_false_iff_not]; omega)]
      simp
    · rw [mget_filter_none _ _ _ (by intro x _ hx; simp only [decide_eq_false_iff_not]; omega)]
      rw [mget_filter_ge _ _ _ (by intro x _ hx; simp only [decide_eq_true_eq]; omega)]
      simp

theorem memGet_eq (m : List Host.Cell) (a : Nat) : memGet m a = mgetD m a 0 := by
  induction m with
  | nil => rfl
  | cons q r ih =>
    obtain ⟨b, w⟩ := q
    unfold memGet mgetD mget
    split
    · rfl
    · exact ih

theorem memGet_memSetLine (m : List Host.Cell) (ln : Nat) (l : Line) (a : Nat) :
    memGet (memSetLine m ln l) a = if a / 128 = ln then lineByte l (a % 128) else memGet m a := by
  rw [memGet_eq, memGet_eq, mgetD_memSetLine]

end Sys2Proof.Machine
end

