-- ==== Sys2Proof/Laws/State.lean ====
section
/-!
SUPPORT. Sys2Proof/Laws/State.lean: what each update of the state leaves, one lemma for each field.
-/
namespace Sys2Proof.Machine

@[simp] theorem State.setWarp_time (s : State) (wid : Nat) (w : Warp) : (s.setWarp wid w).time = s.time := rfl
@[simp] theorem State.setWarp_fuses (s : State) (wid : Nat) (w : Warp) : (s.setWarp wid w).fuses = s.fuses := rfl
@[simp] theorem State.setWarp_mem (s : State) (wid : Nat) (w : Warp) : (s.setWarp wid w).mem = s.mem := rfl
@[simp] theorem State.setWarp_hbmq (s : State) (wid : Nat) (w : Warp) : (s.setWarp wid w).hbmq = s.hbmq := rfl
@[simp] theorem State.setWarp_hlines (s : State) (wid : Nat) (w : Warp) : (s.setWarp wid w).hlines = s.hlines := rfl
@[simp] theorem State.setWarp_cur (s : State) (wid : Nat) (w : Warp) : (s.setWarp wid w).cur = s.cur := rfl
@[simp] theorem State.setWarp_inbox (s : State) (wid : Nat) (w : Warp) : (s.setWarp wid w).inbox = s.inbox := rfl
@[simp] theorem State.setWarp_tick (s : State) (wid : Nat) (w : Warp) : (s.setWarp wid w).tick = s.tick := rfl
@[simp] theorem State.setWarp_due (s : State) (wid : Nat) (w : Warp) : (s.setWarp wid w).due = s.due := rfl
@[simp] theorem State.setWarp_slack (s : State) (wid : Nat) (w : Warp) : (s.setWarp wid w).slack = s.slack := rfl
@[simp] theorem State.setWarp_nextId (s : State) (wid : Nat) (w : Warp) : (s.setWarp wid w).nextId = s.nextId := rfl
@[simp] theorem State.setWarp_stamp (s : State) (wid : Nat) (w : Warp) : (s.setWarp wid w).stamp = s.stamp := rfl
@[simp] theorem State.setWarp_powered (s : State) (wid : Nat) (w : Warp) : (s.setWarp wid w).powered = s.powered := rfl
@[simp] theorem State.setWarp_fw (s : State) (wid : Nat) (w : Warp) : (s.setWarp wid w).fw = s.fw := rfl
@[simp] theorem State.setWarp_ctxs (s : State) (wid : Nat) (w : Warp) : (s.setWarp wid w).ctxs = s.ctxs := rfl
@[simp] theorem State.setWarp_grids (s : State) (wid : Nat) (w : Warp) : (s.setWarp wid w).grids = s.grids := rfl
@[simp] theorem State.setWarp_gangs (s : State) (wid : Nat) (w : Warp) : (s.setWarp wid w).gangs = s.gangs := rfl
@[simp] theorem State.setWarp_wgs (s : State) (wid : Nat) (w : Warp) : (s.setWarp wid w).wgs = s.wgs := rfl
@[simp] theorem State.setWarp_warps (s : State) (wid : Nat) (w : Warp) : (s.setWarp wid w).warps = mset s.warps wid w := rfl
@[simp] theorem State.setWarp_accs (s : State) (wid : Nat) (w : Warp) : (s.setWarp wid w).accs = s.accs := rfl
@[simp] theorem State.setWarp_cores (s : State) (wid : Nat) (w : Warp) : (s.setWarp wid w).cores = s.cores := rfl
@[simp] theorem State.setWarp_clusters (s : State) (wid : Nat) (w : Warp) : (s.setWarp wid w).clusters = s.clusters := rfl
@[simp] theorem State.setWarp_halls (s : State) (wid : Nat) (w : Warp) : (s.setWarp wid w).halls = s.halls := rfl
@[simp] theorem State.setWarp_gal (s : State) (wid : Nat) (w : Warp) : (s.setWarp wid w).gal = s.gal := rfl
@[simp] theorem State.setWarp_invs (s : State) (wid : Nat) (w : Warp) : (s.setWarp wid w).invs = s.invs := rfl
@[simp] theorem State.setWarp_galIc (s : State) (wid : Nat) (w : Warp) : (s.setWarp wid w).galIc = s.galIc := rfl
@[simp] theorem State.setWarp_walkCache (s : State) (wid : Nat) (w : Warp) : (s.setWarp wid w).walkCache = s.walkCache := rfl
@[simp] theorem State.setWarp_walks (s : State) (wid : Nat) (w : Warp) : (s.setWarp wid w).walks = s.walks := rfl
@[simp] theorem State.setWarp_queues (s : State) (wid : Nat) (w : Warp) : (s.setWarp wid w).queues = s.queues := rfl
@[simp] theorem State.setWarp_bars (s : State) (wid : Nat) (w : Warp) : (s.setWarp wid w).bars = s.bars := rfl
@[simp] theorem State.setWarp_slices (s : State) (wid : Nat) (w : Warp) : (s.setWarp wid w).slices = s.slices := rfl
@[simp] theorem State.setWarp_frecs (s : State) (wid : Nat) (w : Warp) : (s.setWarp wid w).frecs = s.frecs := rfl
@[simp] theorem State.setWarp_recorders (s : State) (wid : Nat) (w : Warp) : (s.setWarp wid w).recorders = s.recorders := rfl
@[simp] theorem State.setWarp_ports (s : State) (wid : Nat) (w : Warp) : (s.setWarp wid w).ports = s.ports := rfl
@[simp] theorem State.setWarp_routes (s : State) (wid : Nat) (w : Warp) : (s.setWarp wid w).routes = s.routes := rfl
@[simp] theorem State.setWarp_ext (s : State) (wid : Nat) (w : Warp) : (s.setWarp wid w).ext = s.ext := rfl
@[simp] theorem State.setWarp_timeout (s : State) (wid : Nat) (w : Warp) : (s.setWarp wid w).timeout = s.timeout := rfl
@[simp] theorem State.setWarp_out (s : State) (wid : Nat) (w : Warp) : (s.setWarp wid w).out = s.out := rfl
@[simp] theorem State.setWarp_xlinv (s : State) (wid : Nat) (w : Warp) : (s.setWarp wid w).xlinv = s.xlinv := rfl
@[simp] theorem State.setWarp_ctxsw (s : State) (wid : Nat) (w : Warp) : (s.setWarp wid w).ctxsw = s.ctxsw := rfl
@[simp] theorem State.setWarp_domain (s : State) (wid : Nat) (w : Warp) : (s.setWarp wid w).domain = s.domain := rfl
@[simp] theorem State.setWarp_mb (s : State) (wid : Nat) (w : Warp) : (s.setWarp wid w).mb = s.mb := rfl
@[simp] theorem State.setWarp_msixTable (s : State) (wid : Nat) (w : Warp) : (s.setWarp wid w).msixTable = s.msixTable := rfl
@[simp] theorem State.setWarp_msixPend (s : State) (wid : Nat) (w : Warp) : (s.setWarp wid w).msixPend = s.msixPend := rfl
@[simp] theorem State.setWarp_keys (s : State) (wid : Nat) (w : Warp) : (s.setWarp wid w).keys = s.keys := rfl
@[simp] theorem State.setWarp_nextKeyGen (s : State) (wid : Nat) (w : Warp) : (s.setWarp wid w).nextKeyGen = s.nextKeyGen := rfl
@[simp] theorem State.setWarp_images (s : State) (wid : Nat) (w : Warp) : (s.setWarp wid w).images = s.images := rfl
@[simp] theorem State.setWarp_islands (s : State) (wid : Nat) (w : Warp) : (s.setWarp wid w).islands = s.islands := rfl
@[simp] theorem State.setWarp_sensors (s : State) (wid : Nat) (w : Warp) : (s.setWarp wid w).sensors = s.sensors := rfl
@[simp] theorem State.setWarp_throttled (s : State) (wid : Nat) (w : Warp) : (s.setWarp wid w).throttled = s.throttled := rfl
@[simp] theorem State.setWarp_powerLimit (s : State) (wid : Nat) (w : Warp) : (s.setWarp wid w).powerLimit = s.powerLimit := rfl
@[simp] theorem State.setWarp_cxl (s : State) (wid : Nat) (w : Warp) : (s.setWarp wid w).cxl = s.cxl := rfl
@[simp] theorem State.setWarp_hostHeld (s : State) (wid : Nat) (w : Warp) : (s.setWarp wid w).hostHeld = s.hostHeld := rfl
@[simp] theorem State.setWarp_resetAt (s : State) (wid : Nat) (w : Warp) : (s.setWarp wid w).resetAt = s.resetAt := rfl
@[simp] theorem State.setWarp_alcCtx (s : State) (wid : Nat) (w : Warp) : (s.setWarp wid w).alcCtx = s.alcCtx := rfl
@[simp] theorem State.setWarp_corr (s : State) (wid : Nat) (w : Warp) : (s.setWarp wid w).corr = s.corr := rfl

@[simp] theorem State.setCore_time (s : State) (c : Nat) (x : Core) : (s.setCore c x).time = s.time := rfl
@[simp] theorem State.setCore_fuses (s : State) (c : Nat) (x : Core) : (s.setCore c x).fuses = s.fuses := rfl
@[simp] theorem State.setCore_mem (s : State) (c : Nat) (x : Core) : (s.setCore c x).mem = s.mem := rfl
@[simp] theorem State.setCore_hbmq (s : State) (c : Nat) (x : Core) : (s.setCore c x).hbmq = s.hbmq := rfl
@[simp] theorem State.setCore_hlines (s : State) (c : Nat) (x : Core) : (s.setCore c x).hlines = s.hlines := rfl
@[simp] theorem State.setCore_cur (s : State) (c : Nat) (x : Core) : (s.setCore c x).cur = s.cur := rfl
@[simp] theorem State.setCore_inbox (s : State) (c : Nat) (x : Core) : (s.setCore c x).inbox = s.inbox := rfl
@[simp] theorem State.setCore_tick (s : State) (c : Nat) (x : Core) : (s.setCore c x).tick = s.tick := rfl
@[simp] theorem State.setCore_due (s : State) (c : Nat) (x : Core) : (s.setCore c x).due = s.due := rfl
@[simp] theorem State.setCore_slack (s : State) (c : Nat) (x : Core) : (s.setCore c x).slack = s.slack := rfl
@[simp] theorem State.setCore_nextId (s : State) (c : Nat) (x : Core) : (s.setCore c x).nextId = s.nextId := rfl
@[simp] theorem State.setCore_stamp (s : State) (c : Nat) (x : Core) : (s.setCore c x).stamp = s.stamp := rfl
@[simp] theorem State.setCore_powered (s : State) (c : Nat) (x : Core) : (s.setCore c x).powered = s.powered := rfl
@[simp] theorem State.setCore_fw (s : State) (c : Nat) (x : Core) : (s.setCore c x).fw = s.fw := rfl
@[simp] theorem State.setCore_ctxs (s : State) (c : Nat) (x : Core) : (s.setCore c x).ctxs = s.ctxs := rfl
@[simp] theorem State.setCore_grids (s : State) (c : Nat) (x : Core) : (s.setCore c x).grids = s.grids := rfl
@[simp] theorem State.setCore_gangs (s : State) (c : Nat) (x : Core) : (s.setCore c x).gangs = s.gangs := rfl
@[simp] theorem State.setCore_wgs (s : State) (c : Nat) (x : Core) : (s.setCore c x).wgs = s.wgs := rfl
@[simp] theorem State.setCore_warps (s : State) (c : Nat) (x : Core) : (s.setCore c x).warps = s.warps := rfl
@[simp] theorem State.setCore_accs (s : State) (c : Nat) (x : Core) : (s.setCore c x).accs = s.accs := rfl
@[simp] theorem State.setCore_cores (s : State) (c : Nat) (x : Core) : (s.setCore c x).cores = mset s.cores c x := rfl
@[simp] theorem State.setCore_clusters (s : State) (c : Nat) (x : Core) : (s.setCore c x).clusters = s.clusters := rfl
@[simp] theorem State.setCore_halls (s : State) (c : Nat) (x : Core) : (s.setCore c x).halls = s.halls := rfl
@[simp] theorem State.setCore_gal (s : State) (c : Nat) (x : Core) : (s.setCore c x).gal = s.gal := rfl
@[simp] theorem State.setCore_invs (s : State) (c : Nat) (x : Core) : (s.setCore c x).invs = s.invs := rfl
@[simp] theorem State.setCore_galIc (s : State) (c : Nat) (x : Core) : (s.setCore c x).galIc = s.galIc := rfl
@[simp] theorem State.setCore_walkCache (s : State) (c : Nat) (x : Core) : (s.setCore c x).walkCache = s.walkCache := rfl
@[simp] theorem State.setCore_walks (s : State) (c : Nat) (x : Core) : (s.setCore c x).walks = s.walks := rfl
@[simp] theorem State.setCore_queues (s : State) (c : Nat) (x : Core) : (s.setCore c x).queues = s.queues := rfl
@[simp] theorem State.setCore_bars (s : State) (c : Nat) (x : Core) : (s.setCore c x).bars = s.bars := rfl
@[simp] theorem State.setCore_slices (s : State) (c : Nat) (x : Core) : (s.setCore c x).slices = s.slices := rfl
@[simp] theorem State.setCore_frecs (s : State) (c : Nat) (x : Core) : (s.setCore c x).frecs = s.frecs := rfl
@[simp] theorem State.setCore_recorders (s : State) (c : Nat) (x : Core) : (s.setCore c x).recorders = s.recorders := rfl
@[simp] theorem State.setCore_ports (s : State) (c : Nat) (x : Core) : (s.setCore c x).ports = s.ports := rfl
@[simp] theorem State.setCore_routes (s : State) (c : Nat) (x : Core) : (s.setCore c x).routes = s.routes := rfl
@[simp] theorem State.setCore_ext (s : State) (c : Nat) (x : Core) : (s.setCore c x).ext = s.ext := rfl
@[simp] theorem State.setCore_timeout (s : State) (c : Nat) (x : Core) : (s.setCore c x).timeout = s.timeout := rfl
@[simp] theorem State.setCore_out (s : State) (c : Nat) (x : Core) : (s.setCore c x).out = s.out := rfl
@[simp] theorem State.setCore_xlinv (s : State) (c : Nat) (x : Core) : (s.setCore c x).xlinv = s.xlinv := rfl
@[simp] theorem State.setCore_ctxsw (s : State) (c : Nat) (x : Core) : (s.setCore c x).ctxsw = s.ctxsw := rfl
@[simp] theorem State.setCore_domain (s : State) (c : Nat) (x : Core) : (s.setCore c x).domain = s.domain := rfl
@[simp] theorem State.setCore_mb (s : State) (c : Nat) (x : Core) : (s.setCore c x).mb = s.mb := rfl
@[simp] theorem State.setCore_msixTable (s : State) (c : Nat) (x : Core) : (s.setCore c x).msixTable = s.msixTable := rfl
@[simp] theorem State.setCore_msixPend (s : State) (c : Nat) (x : Core) : (s.setCore c x).msixPend = s.msixPend := rfl
@[simp] theorem State.setCore_keys (s : State) (c : Nat) (x : Core) : (s.setCore c x).keys = s.keys := rfl
@[simp] theorem State.setCore_nextKeyGen (s : State) (c : Nat) (x : Core) : (s.setCore c x).nextKeyGen = s.nextKeyGen := rfl
@[simp] theorem State.setCore_images (s : State) (c : Nat) (x : Core) : (s.setCore c x).images = s.images := rfl
@[simp] theorem State.setCore_islands (s : State) (c : Nat) (x : Core) : (s.setCore c x).islands = s.islands := rfl
@[simp] theorem State.setCore_sensors (s : State) (c : Nat) (x : Core) : (s.setCore c x).sensors = s.sensors := rfl
@[simp] theorem State.setCore_throttled (s : State) (c : Nat) (x : Core) : (s.setCore c x).throttled = s.throttled := rfl
@[simp] theorem State.setCore_powerLimit (s : State) (c : Nat) (x : Core) : (s.setCore c x).powerLimit = s.powerLimit := rfl
@[simp] theorem State.setCore_cxl (s : State) (c : Nat) (x : Core) : (s.setCore c x).cxl = s.cxl := rfl
@[simp] theorem State.setCore_hostHeld (s : State) (c : Nat) (x : Core) : (s.setCore c x).hostHeld = s.hostHeld := rfl
@[simp] theorem State.setCore_resetAt (s : State) (c : Nat) (x : Core) : (s.setCore c x).resetAt = s.resetAt := rfl
@[simp] theorem State.setCore_alcCtx (s : State) (c : Nat) (x : Core) : (s.setCore c x).alcCtx = s.alcCtx := rfl
@[simp] theorem State.setCore_corr (s : State) (c : Nat) (x : Core) : (s.setCore c x).corr = s.corr := rfl

@[simp] theorem State.updCore_time (s : State) (c : Nat) (f : Core → Core) : (s.updCore c f).time = s.time := rfl
@[simp] theorem State.updCore_fuses (s : State) (c : Nat) (f : Core → Core) : (s.updCore c f).fuses = s.fuses := rfl
@[simp] theorem State.updCore_mem (s : State) (c : Nat) (f : Core → Core) : (s.updCore c f).mem = s.mem := rfl
@[simp] theorem State.updCore_hbmq (s : State) (c : Nat) (f : Core → Core) : (s.updCore c f).hbmq = s.hbmq := rfl
@[simp] theorem State.updCore_hlines (s : State) (c : Nat) (f : Core → Core) : (s.updCore c f).hlines = s.hlines := rfl
@[simp] theorem State.updCore_cur (s : State) (c : Nat) (f : Core → Core) : (s.updCore c f).cur = s.cur := rfl
@[simp] theorem State.updCore_inbox (s : State) (c : Nat) (f : Core → Core) : (s.updCore c f).inbox = s.inbox := rfl
@[simp] theorem State.updCore_tick (s : State) (c : Nat) (f : Core → Core) : (s.updCore c f).tick = s.tick := rfl
@[simp] theorem State.updCore_due (s : State) (c : Nat) (f : Core → Core) : (s.updCore c f).due = s.due := rfl
@[simp] theorem State.updCore_slack (s : State) (c : Nat) (f : Core → Core) : (s.updCore c f).slack = s.slack := rfl
@[simp] theorem State.updCore_nextId (s : State) (c : Nat) (f : Core → Core) : (s.updCore c f).nextId = s.nextId := rfl
@[simp] theorem State.updCore_stamp (s : State) (c : Nat) (f : Core → Core) : (s.updCore c f).stamp = s.stamp := rfl
@[simp] theorem State.updCore_powered (s : State) (c : Nat) (f : Core → Core) : (s.updCore c f).powered = s.powered := rfl
@[simp] theorem State.updCore_fw (s : State) (c : Nat) (f : Core → Core) : (s.updCore c f).fw = s.fw := rfl
@[simp] theorem State.updCore_ctxs (s : State) (c : Nat) (f : Core → Core) : (s.updCore c f).ctxs = s.ctxs := rfl
@[simp] theorem State.updCore_grids (s : State) (c : Nat) (f : Core → Core) : (s.updCore c f).grids = s.grids := rfl
@[simp] theorem State.updCore_gangs (s : State) (c : Nat) (f : Core → Core) : (s.updCore c f).gangs = s.gangs := rfl
@[simp] theorem State.updCore_wgs (s : State) (c : Nat) (f : Core → Core) : (s.updCore c f).wgs = s.wgs := rfl
@[simp] theorem State.updCore_warps (s : State) (c : Nat) (f : Core → Core) : (s.updCore c f).warps = s.warps := rfl
@[simp] theorem State.updCore_accs (s : State) (c : Nat) (f : Core → Core) : (s.updCore c f).accs = s.accs := rfl
@[simp] theorem State.updCore_cores (s : State) (c : Nat) (f : Core → Core) : (s.updCore c f).cores = mset s.cores c (f (s.core c)) := rfl
@[simp] theorem State.updCore_clusters (s : State) (c : Nat) (f : Core → Core) : (s.updCore c f).clusters = s.clusters := rfl
@[simp] theorem State.updCore_halls (s : State) (c : Nat) (f : Core → Core) : (s.updCore c f).halls = s.halls := rfl
@[simp] theorem State.updCore_gal (s : State) (c : Nat) (f : Core → Core) : (s.updCore c f).gal = s.gal := rfl
@[simp] theorem State.updCore_invs (s : State) (c : Nat) (f : Core → Core) : (s.updCore c f).invs = s.invs := rfl
@[simp] theorem State.updCore_galIc (s : State) (c : Nat) (f : Core → Core) : (s.updCore c f).galIc = s.galIc := rfl
@[simp] theorem State.updCore_walkCache (s : State) (c : Nat) (f : Core → Core) : (s.updCore c f).walkCache = s.walkCache := rfl
@[simp] theorem State.updCore_walks (s : State) (c : Nat) (f : Core → Core) : (s.updCore c f).walks = s.walks := rfl
@[simp] theorem State.updCore_queues (s : State) (c : Nat) (f : Core → Core) : (s.updCore c f).queues = s.queues := rfl
@[simp] theorem State.updCore_bars (s : State) (c : Nat) (f : Core → Core) : (s.updCore c f).bars = s.bars := rfl
@[simp] theorem State.updCore_slices (s : State) (c : Nat) (f : Core → Core) : (s.updCore c f).slices = s.slices := rfl
@[simp] theorem State.updCore_frecs (s : State) (c : Nat) (f : Core → Core) : (s.updCore c f).frecs = s.frecs := rfl
@[simp] theorem State.updCore_recorders (s : State) (c : Nat) (f : Core → Core) : (s.updCore c f).recorders = s.recorders := rfl
@[simp] theorem State.updCore_ports (s : State) (c : Nat) (f : Core → Core) : (s.updCore c f).ports = s.ports := rfl
@[simp] theorem State.updCore_routes (s : State) (c : Nat) (f : Core → Core) : (s.updCore c f).routes = s.routes := rfl
@[simp] theorem State.updCore_ext (s : State) (c : Nat) (f : Core → Core) : (s.updCore c f).ext = s.ext := rfl
@[simp] theorem State.updCore_timeout (s : State) (c : Nat) (f : Core → Core) : (s.updCore c f).timeout = s.timeout := rfl
@[simp] theorem State.updCore_out (s : State) (c : Nat) (f : Core → Core) : (s.updCore c f).out = s.out := rfl
@[simp] theorem State.updCore_xlinv (s : State) (c : Nat) (f : Core → Core) : (s.updCore c f).xlinv = s.xlinv := rfl
@[simp] theorem State.updCore_ctxsw (s : State) (c : Nat) (f : Core → Core) : (s.updCore c f).ctxsw = s.ctxsw := rfl
@[simp] theorem State.updCore_domain (s : State) (c : Nat) (f : Core → Core) : (s.updCore c f).domain = s.domain := rfl
@[simp] theorem State.updCore_mb (s : State) (c : Nat) (f : Core → Core) : (s.updCore c f).mb = s.mb := rfl
@[simp] theorem State.updCore_msixTable (s : State) (c : Nat) (f : Core → Core) : (s.updCore c f).msixTable = s.msixTable := rfl
@[simp] theorem State.updCore_msixPend (s : State) (c : Nat) (f : Core → Core) : (s.updCore c f).msixPend = s.msixPend := rfl
@[simp] theorem State.updCore_keys (s : State) (c : Nat) (f : Core → Core) : (s.updCore c f).keys = s.keys := rfl
@[simp] theorem State.updCore_nextKeyGen (s : State) (c : Nat) (f : Core → Core) : (s.updCore c f).nextKeyGen = s.nextKeyGen := rfl
@[simp] theorem State.updCore_images (s : State) (c : Nat) (f : Core → Core) : (s.updCore c f).images = s.images := rfl
@[simp] theorem State.updCore_islands (s : State) (c : Nat) (f : Core → Core) : (s.updCore c f).islands = s.islands := rfl
@[simp] theorem State.updCore_sensors (s : State) (c : Nat) (f : Core → Core) : (s.updCore c f).sensors = s.sensors := rfl
@[simp] theorem State.updCore_throttled (s : State) (c : Nat) (f : Core → Core) : (s.updCore c f).throttled = s.throttled := rfl
@[simp] theorem State.updCore_powerLimit (s : State) (c : Nat) (f : Core → Core) : (s.updCore c f).powerLimit = s.powerLimit := rfl
@[simp] theorem State.updCore_cxl (s : State) (c : Nat) (f : Core → Core) : (s.updCore c f).cxl = s.cxl := rfl
@[simp] theorem State.updCore_hostHeld (s : State) (c : Nat) (f : Core → Core) : (s.updCore c f).hostHeld = s.hostHeld := rfl
@[simp] theorem State.updCore_resetAt (s : State) (c : Nat) (f : Core → Core) : (s.updCore c f).resetAt = s.resetAt := rfl
@[simp] theorem State.updCore_alcCtx (s : State) (c : Nat) (f : Core → Core) : (s.updCore c f).alcCtx = s.alcCtx := rfl
@[simp] theorem State.updCore_corr (s : State) (c : Nat) (f : Core → Core) : (s.updCore c f).corr = s.corr := rfl

@[simp] theorem State.setHall_time (s : State) (h : Nat) (x : Hall) : (s.setHall h x).time = s.time := rfl
@[simp] theorem State.setHall_fuses (s : State) (h : Nat) (x : Hall) : (s.setHall h x).fuses = s.fuses := rfl
@[simp] theorem State.setHall_mem (s : State) (h : Nat) (x : Hall) : (s.setHall h x).mem = s.mem := rfl
@[simp] theorem State.setHall_hbmq (s : State) (h : Nat) (x : Hall) : (s.setHall h x).hbmq = s.hbmq := rfl
@[simp] theorem State.setHall_hlines (s : State) (h : Nat) (x : Hall) : (s.setHall h x).hlines = s.hlines := rfl
@[simp] theorem State.setHall_cur (s : State) (h : Nat) (x : Hall) : (s.setHall h x).cur = s.cur := rfl
@[simp] theorem State.setHall_inbox (s : State) (h : Nat) (x : Hall) : (s.setHall h x).inbox = s.inbox := rfl
@[simp] theorem State.setHall_tick (s : State) (h : Nat) (x : Hall) : (s.setHall h x).tick = s.tick := rfl
@[simp] theorem State.setHall_due (s : State) (h : Nat) (x : Hall) : (s.setHall h x).due = s.due := rfl
@[simp] theorem State.setHall_slack (s : State) (h : Nat) (x : Hall) : (s.setHall h x).slack = s.slack := rfl
@[simp] theorem State.setHall_nextId (s : State) (h : Nat) (x : Hall) : (s.setHall h x).nextId = s.nextId := rfl
@[simp] theorem State.setHall_stamp (s : State) (h : Nat) (x : Hall) : (s.setHall h x).stamp = s.stamp := rfl
@[simp] theorem State.setHall_powered (s : State) (h : Nat) (x : Hall) : (s.setHall h x).powered = s.powered := rfl
@[simp] theorem State.setHall_fw (s : State) (h : Nat) (x : Hall) : (s.setHall h x).fw = s.fw := rfl
@[simp] theorem State.setHall_ctxs (s : State) (h : Nat) (x : Hall) : (s.setHall h x).ctxs = s.ctxs := rfl
@[simp] theorem State.setHall_grids (s : State) (h : Nat) (x : Hall) : (s.setHall h x).grids = s.grids := rfl
@[simp] theorem State.setHall_gangs (s : State) (h : Nat) (x : Hall) : (s.setHall h x).gangs = s.gangs := rfl
@[simp] theorem State.setHall_wgs (s : State) (h : Nat) (x : Hall) : (s.setHall h x).wgs = s.wgs := rfl
@[simp] theorem State.setHall_warps (s : State) (h : Nat) (x : Hall) : (s.setHall h x).warps = s.warps := rfl
@[simp] theorem State.setHall_accs (s : State) (h : Nat) (x : Hall) : (s.setHall h x).accs = s.accs := rfl
@[simp] theorem State.setHall_cores (s : State) (h : Nat) (x : Hall) : (s.setHall h x).cores = s.cores := rfl
@[simp] theorem State.setHall_clusters (s : State) (h : Nat) (x : Hall) : (s.setHall h x).clusters = s.clusters := rfl
@[simp] theorem State.setHall_halls (s : State) (h : Nat) (x : Hall) : (s.setHall h x).halls = mset s.halls h x := rfl
@[simp] theorem State.setHall_gal (s : State) (h : Nat) (x : Hall) : (s.setHall h x).gal = s.gal := rfl
@[simp] theorem State.setHall_invs (s : State) (h : Nat) (x : Hall) : (s.setHall h x).invs = s.invs := rfl
@[simp] theorem State.setHall_galIc (s : State) (h : Nat) (x : Hall) : (s.setHall h x).galIc = s.galIc := rfl
@[simp] theorem State.setHall_walkCache (s : State) (h : Nat) (x : Hall) : (s.setHall h x).walkCache = s.walkCache := rfl
@[simp] theorem State.setHall_walks (s : State) (h : Nat) (x : Hall) : (s.setHall h x).walks = s.walks := rfl
@[simp] theorem State.setHall_queues (s : State) (h : Nat) (x : Hall) : (s.setHall h x).queues = s.queues := rfl
@[simp] theorem State.setHall_bars (s : State) (h : Nat) (x : Hall) : (s.setHall h x).bars = s.bars := rfl
@[simp] theorem State.setHall_slices (s : State) (h : Nat) (x : Hall) : (s.setHall h x).slices = s.slices := rfl
@[simp] theorem State.setHall_frecs (s : State) (h : Nat) (x : Hall) : (s.setHall h x).frecs = s.frecs := rfl
@[simp] theorem State.setHall_recorders (s : State) (h : Nat) (x : Hall) : (s.setHall h x).recorders = s.recorders := rfl
@[simp] theorem State.setHall_ports (s : State) (h : Nat) (x : Hall) : (s.setHall h x).ports = s.ports := rfl
@[simp] theorem State.setHall_routes (s : State) (h : Nat) (x : Hall) : (s.setHall h x).routes = s.routes := rfl
@[simp] theorem State.setHall_ext (s : State) (h : Nat) (x : Hall) : (s.setHall h x).ext = s.ext := rfl
@[simp] theorem State.setHall_timeout (s : State) (h : Nat) (x : Hall) : (s.setHall h x).timeout = s.timeout := rfl
@[simp] theorem State.setHall_out (s : State) (h : Nat) (x : Hall) : (s.setHall h x).out = s.out := rfl
@[simp] theorem State.setHall_xlinv (s : State) (h : Nat) (x : Hall) : (s.setHall h x).xlinv = s.xlinv := rfl
@[simp] theorem State.setHall_ctxsw (s : State) (h : Nat) (x : Hall) : (s.setHall h x).ctxsw = s.ctxsw := rfl
@[simp] theorem State.setHall_domain (s : State) (h : Nat) (x : Hall) : (s.setHall h x).domain = s.domain := rfl
@[simp] theorem State.setHall_mb (s : State) (h : Nat) (x : Hall) : (s.setHall h x).mb = s.mb := rfl
@[simp] theorem State.setHall_msixTable (s : State) (h : Nat) (x : Hall) : (s.setHall h x).msixTable = s.msixTable := rfl
@[simp] theorem State.setHall_msixPend (s : State) (h : Nat) (x : Hall) : (s.setHall h x).msixPend = s.msixPend := rfl
@[simp] theorem State.setHall_keys (s : State) (h : Nat) (x : Hall) : (s.setHall h x).keys = s.keys := rfl
@[simp] theorem State.setHall_nextKeyGen (s : State) (h : Nat) (x : Hall) : (s.setHall h x).nextKeyGen = s.nextKeyGen := rfl
@[simp] theorem State.setHall_images (s : State) (h : Nat) (x : Hall) : (s.setHall h x).images = s.images := rfl
@[simp] theorem State.setHall_islands (s : State) (h : Nat) (x : Hall) : (s.setHall h x).islands = s.islands := rfl
@[simp] theorem State.setHall_sensors (s : State) (h : Nat) (x : Hall) : (s.setHall h x).sensors = s.sensors := rfl
@[simp] theorem State.setHall_throttled (s : State) (h : Nat) (x : Hall) : (s.setHall h x).throttled = s.throttled := rfl
@[simp] theorem State.setHall_powerLimit (s : State) (h : Nat) (x : Hall) : (s.setHall h x).powerLimit = s.powerLimit := rfl
@[simp] theorem State.setHall_cxl (s : State) (h : Nat) (x : Hall) : (s.setHall h x).cxl = s.cxl := rfl
@[simp] theorem State.setHall_hostHeld (s : State) (h : Nat) (x : Hall) : (s.setHall h x).hostHeld = s.hostHeld := rfl
@[simp] theorem State.setHall_resetAt (s : State) (h : Nat) (x : Hall) : (s.setHall h x).resetAt = s.resetAt := rfl
@[simp] theorem State.setHall_alcCtx (s : State) (h : Nat) (x : Hall) : (s.setHall h x).alcCtx = s.alcCtx := rfl
@[simp] theorem State.setHall_corr (s : State) (h : Nat) (x : Hall) : (s.setHall h x).corr = s.corr := rfl

@[simp] theorem State.updHall_time (s : State) (h : Nat) (f : Hall → Hall) : (s.updHall h f).time = s.time := rfl
@[simp] theorem State.updHall_fuses (s : State) (h : Nat) (f : Hall → Hall) : (s.updHall h f).fuses = s.fuses := rfl
@[simp] theorem State.updHall_mem (s : State) (h : Nat) (f : Hall → Hall) : (s.updHall h f).mem = s.mem := rfl
@[simp] theorem State.updHall_hbmq (s : State) (h : Nat) (f : Hall → Hall) : (s.updHall h f).hbmq = s.hbmq := rfl
@[simp] theorem State.updHall_hlines (s : State) (h : Nat) (f : Hall → Hall) : (s.updHall h f).hlines = s.hlines := rfl
@[simp] theorem State.updHall_cur (s : State) (h : Nat) (f : Hall → Hall) : (s.updHall h f).cur = s.cur := rfl
@[simp] theorem State.updHall_inbox (s : State) (h : Nat) (f : Hall → Hall) : (s.updHall h f).inbox = s.inbox := rfl
@[simp] theorem State.updHall_tick (s : State) (h : Nat) (f : Hall → Hall) : (s.updHall h f).tick = s.tick := rfl
@[simp] theorem State.updHall_due (s : State) (h : Nat) (f : Hall → Hall) : (s.updHall h f).due = s.due := rfl
@[simp] theorem State.updHall_slack (s : State) (h : Nat) (f : Hall → Hall) : (s.updHall h f).slack = s.slack := rfl
@[simp] theorem State.updHall_nextId (s : State) (h : Nat) (f : Hall → Hall) : (s.updHall h f).nextId = s.nextId := rfl
@[simp] theorem State.updHall_stamp (s : State) (h : Nat) (f : Hall → Hall) : (s.updHall h f).stamp = s.stamp := rfl
@[simp] theorem State.updHall_powered (s : State) (h : Nat) (f : Hall → Hall) : (s.updHall h f).powered = s.powered := rfl
@[simp] theorem State.updHall_fw (s : State) (h : Nat) (f : Hall → Hall) : (s.updHall h f).fw = s.fw := rfl
@[simp] theorem State.updHall_ctxs (s : State) (h : Nat) (f : Hall → Hall) : (s.updHall h f).ctxs = s.ctxs := rfl
@[simp] theorem State.updHall_grids (s : State) (h : Nat) (f : Hall → Hall) : (s.updHall h f).grids = s.grids := rfl
@[simp] theorem State.updHall_gangs (s : State) (h : Nat) (f : Hall → Hall) : (s.updHall h f).gangs = s.gangs := rfl
@[simp] theorem State.updHall_wgs (s : State) (h : Nat) (f : Hall → Hall) : (s.updHall h f).wgs = s.wgs := rfl
@[simp] theorem State.updHall_warps (s : State) (h : Nat) (f : Hall → Hall) : (s.updHall h f).warps = s.warps := rfl
@[simp] theorem State.updHall_accs (s : State) (h : Nat) (f : Hall → Hall) : (s.updHall h f).accs = s.accs := rfl
@[simp] theorem State.updHall_cores (s : State) (h : Nat) (f : Hall → Hall) : (s.updHall h f).cores = s.cores := rfl
@[simp] theorem State.updHall_clusters (s : State) (h : Nat) (f : Hall → Hall) : (s.updHall h f).clusters = s.clusters := rfl
@[simp] theorem State.updHall_halls (s : State) (h : Nat) (f : Hall → Hall) : (s.updHall h f).halls = mset s.halls h (f (s.hall h)) := rfl
@[simp] theorem State.updHall_gal (s : State) (h : Nat) (f : Hall → Hall) : (s.updHall h f).gal = s.gal := rfl
@[simp] theorem State.updHall_invs (s : State) (h : Nat) (f : Hall → Hall) : (s.updHall h f).invs = s.invs := rfl
@[simp] theorem State.updHall_galIc (s : State) (h : Nat) (f : Hall → Hall) : (s.updHall h f).galIc = s.galIc := rfl
@[simp] theorem State.updHall_walkCache (s : State) (h : Nat) (f : Hall → Hall) : (s.updHall h f).walkCache = s.walkCache := rfl
@[simp] theorem State.updHall_walks (s : State) (h : Nat) (f : Hall → Hall) : (s.updHall h f).walks = s.walks := rfl
@[simp] theorem State.updHall_queues (s : State) (h : Nat) (f : Hall → Hall) : (s.updHall h f).queues = s.queues := rfl
@[simp] theorem State.updHall_bars (s : State) (h : Nat) (f : Hall → Hall) : (s.updHall h f).bars = s.bars := rfl
@[simp] theorem State.updHall_slices (s : State) (h : Nat) (f : Hall → Hall) : (s.updHall h f).slices = s.slices := rfl
@[simp] theorem State.updHall_frecs (s : State) (h : Nat) (f : Hall → Hall) : (s.updHall h f).frecs = s.frecs := rfl
@[simp] theorem State.updHall_recorders (s : State) (h : Nat) (f : Hall → Hall) : (s.updHall h f).recorders = s.recorders := rfl
@[simp] theorem State.updHall_ports (s : State) (h : Nat) (f : Hall → Hall) : (s.updHall h f).ports = s.ports := rfl
@[simp] theorem State.updHall_routes (s : State) (h : Nat) (f : Hall → Hall) : (s.updHall h f).routes = s.routes := rfl
@[simp] theorem State.updHall_ext (s : State) (h : Nat) (f : Hall → Hall) : (s.updHall h f).ext = s.ext := rfl
@[simp] theorem State.updHall_timeout (s : State) (h : Nat) (f : Hall → Hall) : (s.updHall h f).timeout = s.timeout := rfl
@[simp] theorem State.updHall_out (s : State) (h : Nat) (f : Hall → Hall) : (s.updHall h f).out = s.out := rfl
@[simp] theorem State.updHall_xlinv (s : State) (h : Nat) (f : Hall → Hall) : (s.updHall h f).xlinv = s.xlinv := rfl
@[simp] theorem State.updHall_ctxsw (s : State) (h : Nat) (f : Hall → Hall) : (s.updHall h f).ctxsw = s.ctxsw := rfl
@[simp] theorem State.updHall_domain (s : State) (h : Nat) (f : Hall → Hall) : (s.updHall h f).domain = s.domain := rfl
@[simp] theorem State.updHall_mb (s : State) (h : Nat) (f : Hall → Hall) : (s.updHall h f).mb = s.mb := rfl
@[simp] theorem State.updHall_msixTable (s : State) (h : Nat) (f : Hall → Hall) : (s.updHall h f).msixTable = s.msixTable := rfl
@[simp] theorem State.updHall_msixPend (s : State) (h : Nat) (f : Hall → Hall) : (s.updHall h f).msixPend = s.msixPend := rfl
@[simp] theorem State.updHall_keys (s : State) (h : Nat) (f : Hall → Hall) : (s.updHall h f).keys = s.keys := rfl
@[simp] theorem State.updHall_nextKeyGen (s : State) (h : Nat) (f : Hall → Hall) : (s.updHall h f).nextKeyGen = s.nextKeyGen := rfl
@[simp] theorem State.updHall_images (s : State) (h : Nat) (f : Hall → Hall) : (s.updHall h f).images = s.images := rfl
@[simp] theorem State.updHall_islands (s : State) (h : Nat) (f : Hall → Hall) : (s.updHall h f).islands = s.islands := rfl
@[simp] theorem State.updHall_sensors (s : State) (h : Nat) (f : Hall → Hall) : (s.updHall h f).sensors = s.sensors := rfl
@[simp] theorem State.updHall_throttled (s : State) (h : Nat) (f : Hall → Hall) : (s.updHall h f).throttled = s.throttled := rfl
@[simp] theorem State.updHall_powerLimit (s : State) (h : Nat) (f : Hall → Hall) : (s.updHall h f).powerLimit = s.powerLimit := rfl
@[simp] theorem State.updHall_cxl (s : State) (h : Nat) (f : Hall → Hall) : (s.updHall h f).cxl = s.cxl := rfl
@[simp] theorem State.updHall_hostHeld (s : State) (h : Nat) (f : Hall → Hall) : (s.updHall h f).hostHeld = s.hostHeld := rfl
@[simp] theorem State.updHall_resetAt (s : State) (h : Nat) (f : Hall → Hall) : (s.updHall h f).resetAt = s.resetAt := rfl
@[simp] theorem State.updHall_alcCtx (s : State) (h : Nat) (f : Hall → Hall) : (s.updHall h f).alcCtx = s.alcCtx := rfl
@[simp] theorem State.updHall_corr (s : State) (h : Nat) (f : Hall → Hall) : (s.updHall h f).corr = s.corr := rfl

@[simp] theorem State.setCluster_time (s : State) (c : Nat) (x : Cluster) : (s.setCluster c x).time = s.time := rfl
@[simp] theorem State.setCluster_fuses (s : State) (c : Nat) (x : Cluster) : (s.setCluster c x).fuses = s.fuses := rfl
@[simp] theorem State.setCluster_mem (s : State) (c : Nat) (x : Cluster) : (s.setCluster c x).mem = s.mem := rfl
@[simp] theorem State.setCluster_hbmq (s : State) (c : Nat) (x : Cluster) : (s.setCluster c x).hbmq = s.hbmq := rfl
@[simp] theorem State.setCluster_hlines (s : State) (c : Nat) (x : Cluster) : (s.setCluster c x).hlines = s.hlines := rfl
@[simp] theorem State.setCluster_cur (s : State) (c : Nat) (x : Cluster) : (s.setCluster c x).cur = s.cur := rfl
@[simp] theorem State.setCluster_inbox (s : State) (c : Nat) (x : Cluster) : (s.setCluster c x).inbox = s.inbox := rfl
@[simp] theorem State.setCluster_tick (s : State) (c : Nat) (x : Cluster) : (s.setCluster c x).tick = s.tick := rfl
@[simp] theorem State.setCluster_due (s : State) (c : Nat) (x : Cluster) : (s.setCluster c x).due = s.due := rfl
@[simp] theorem State.setCluster_slack (s : State) (c : Nat) (x : Cluster) : (s.setCluster c x).slack = s.slack := rfl
@[simp] theorem State.setCluster_nextId (s : State) (c : Nat) (x : Cluster) : (s.setCluster c x).nextId = s.nextId := rfl
@[simp] theorem State.setCluster_stamp (s : State) (c : Nat) (x : Cluster) : (s.setCluster c x).stamp = s.stamp := rfl
@[simp] theorem State.setCluster_powered (s : State) (c : Nat) (x : Cluster) : (s.setCluster c x).powered = s.powered := rfl
@[simp] theorem State.setCluster_fw (s : State) (c : Nat) (x : Cluster) : (s.setCluster c x).fw = s.fw := rfl
@[simp] theorem State.setCluster_ctxs (s : State) (c : Nat) (x : Cluster) : (s.setCluster c x).ctxs = s.ctxs := rfl
@[simp] theorem State.setCluster_grids (s : State) (c : Nat) (x : Cluster) : (s.setCluster c x).grids = s.grids := rfl
@[simp] theorem State.setCluster_gangs (s : State) (c : Nat) (x : Cluster) : (s.setCluster c x).gangs = s.gangs := rfl
@[simp] theorem State.setCluster_wgs (s : State) (c : Nat) (x : Cluster) : (s.setCluster c x).wgs = s.wgs := rfl
@[simp] theorem State.setCluster_warps (s : State) (c : Nat) (x : Cluster) : (s.setCluster c x).warps = s.warps := rfl
@[simp] theorem State.setCluster_accs (s : State) (c : Nat) (x : Cluster) : (s.setCluster c x).accs = s.accs := rfl
@[simp] theorem State.setCluster_cores (s : State) (c : Nat) (x : Cluster) : (s.setCluster c x).cores = s.cores := rfl
@[simp] theorem State.setCluster_clusters (s : State) (c : Nat) (x : Cluster) : (s.setCluster c x).clusters = mset s.clusters c x := rfl
@[simp] theorem State.setCluster_halls (s : State) (c : Nat) (x : Cluster) : (s.setCluster c x).halls = s.halls := rfl
@[simp] theorem State.setCluster_gal (s : State) (c : Nat) (x : Cluster) : (s.setCluster c x).gal = s.gal := rfl
@[simp] theorem State.setCluster_invs (s : State) (c : Nat) (x : Cluster) : (s.setCluster c x).invs = s.invs := rfl
@[simp] theorem State.setCluster_galIc (s : State) (c : Nat) (x : Cluster) : (s.setCluster c x).galIc = s.galIc := rfl
@[simp] theorem State.setCluster_walkCache (s : State) (c : Nat) (x : Cluster) : (s.setCluster c x).walkCache = s.walkCache := rfl
@[simp] theorem State.setCluster_walks (s : State) (c : Nat) (x : Cluster) : (s.setCluster c x).walks = s.walks := rfl
@[simp] theorem State.setCluster_queues (s : State) (c : Nat) (x : Cluster) : (s.setCluster c x).queues = s.queues := rfl
@[simp] theorem State.setCluster_bars (s : State) (c : Nat) (x : Cluster) : (s.setCluster c x).bars = s.bars := rfl
@[simp] theorem State.setCluster_slices (s : State) (c : Nat) (x : Cluster) : (s.setCluster c x).slices = s.slices := rfl
@[simp] theorem State.setCluster_frecs (s : State) (c : Nat) (x : Cluster) : (s.setCluster c x).frecs = s.frecs := rfl
@[simp] theorem State.setCluster_recorders (s : State) (c : Nat) (x : Cluster) : (s.setCluster c x).recorders = s.recorders := rfl
@[simp] theorem State.setCluster_ports (s : State) (c : Nat) (x : Cluster) : (s.setCluster c x).ports = s.ports := rfl
@[simp] theorem State.setCluster_routes (s : State) (c : Nat) (x : Cluster) : (s.setCluster c x).routes = s.routes := rfl
@[simp] theorem State.setCluster_ext (s : State) (c : Nat) (x : Cluster) : (s.setCluster c x).ext = s.ext := rfl
@[simp] theorem State.setCluster_timeout (s : State) (c : Nat) (x : Cluster) : (s.setCluster c x).timeout = s.timeout := rfl
@[simp] theorem State.setCluster_out (s : State) (c : Nat) (x : Cluster) : (s.setCluster c x).out = s.out := rfl
@[simp] theorem State.setCluster_xlinv (s : State) (c : Nat) (x : Cluster) : (s.setCluster c x).xlinv = s.xlinv := rfl
@[simp] theorem State.setCluster_ctxsw (s : State) (c : Nat) (x : Cluster) : (s.setCluster c x).ctxsw = s.ctxsw := rfl
@[simp] theorem State.setCluster_domain (s : State) (c : Nat) (x : Cluster) : (s.setCluster c x).domain = s.domain := rfl
@[simp] theorem State.setCluster_mb (s : State) (c : Nat) (x : Cluster) : (s.setCluster c x).mb = s.mb := rfl
@[simp] theorem State.setCluster_msixTable (s : State) (c : Nat) (x : Cluster) : (s.setCluster c x).msixTable = s.msixTable := rfl
@[simp] theorem State.setCluster_msixPend (s : State) (c : Nat) (x : Cluster) : (s.setCluster c x).msixPend = s.msixPend := rfl
@[simp] theorem State.setCluster_keys (s : State) (c : Nat) (x : Cluster) : (s.setCluster c x).keys = s.keys := rfl
@[simp] theorem State.setCluster_nextKeyGen (s : State) (c : Nat) (x : Cluster) : (s.setCluster c x).nextKeyGen = s.nextKeyGen := rfl
@[simp] theorem State.setCluster_images (s : State) (c : Nat) (x : Cluster) : (s.setCluster c x).images = s.images := rfl
@[simp] theorem State.setCluster_islands (s : State) (c : Nat) (x : Cluster) : (s.setCluster c x).islands = s.islands := rfl
@[simp] theorem State.setCluster_sensors (s : State) (c : Nat) (x : Cluster) : (s.setCluster c x).sensors = s.sensors := rfl
@[simp] theorem State.setCluster_throttled (s : State) (c : Nat) (x : Cluster) : (s.setCluster c x).throttled = s.throttled := rfl
@[simp] theorem State.setCluster_powerLimit (s : State) (c : Nat) (x : Cluster) : (s.setCluster c x).powerLimit = s.powerLimit := rfl
@[simp] theorem State.setCluster_cxl (s : State) (c : Nat) (x : Cluster) : (s.setCluster c x).cxl = s.cxl := rfl
@[simp] theorem State.setCluster_hostHeld (s : State) (c : Nat) (x : Cluster) : (s.setCluster c x).hostHeld = s.hostHeld := rfl
@[simp] theorem State.setCluster_resetAt (s : State) (c : Nat) (x : Cluster) : (s.setCluster c x).resetAt = s.resetAt := rfl
@[simp] theorem State.setCluster_alcCtx (s : State) (c : Nat) (x : Cluster) : (s.setCluster c x).alcCtx = s.alcCtx := rfl
@[simp] theorem State.setCluster_corr (s : State) (c : Nat) (x : Cluster) : (s.setCluster c x).corr = s.corr := rfl

@[simp] theorem State.updCluster_time (s : State) (c : Nat) (f : Cluster → Cluster) : (s.updCluster c f).time = s.time := rfl
@[simp] theorem State.updCluster_fuses (s : State) (c : Nat) (f : Cluster → Cluster) : (s.updCluster c f).fuses = s.fuses := rfl
@[simp] theorem State.updCluster_mem (s : State) (c : Nat) (f : Cluster → Cluster) : (s.updCluster c f).mem = s.mem := rfl
@[simp] theorem State.updCluster_hbmq (s : State) (c : Nat) (f : Cluster → Cluster) : (s.updCluster c f).hbmq = s.hbmq := rfl
@[simp] theorem State.updCluster_hlines (s : State) (c : Nat) (f : Cluster → Cluster) : (s.updCluster c f).hlines = s.hlines := rfl
@[simp] theorem State.updCluster_cur (s : State) (c : Nat) (f : Cluster → Cluster) : (s.updCluster c f).cur = s.cur := rfl
@[simp] theorem State.updCluster_inbox (s : State) (c : Nat) (f : Cluster → Cluster) : (s.updCluster c f).inbox = s.inbox := rfl
@[simp] theorem State.updCluster_tick (s : State) (c : Nat) (f : Cluster → Cluster) : (s.updCluster c f).tick = s.tick := rfl
@[simp] theorem State.updCluster_due (s : State) (c : Nat) (f : Cluster → Cluster) : (s.updCluster c f).due = s.due := rfl
@[simp] theorem State.updCluster_slack (s : State) (c : Nat) (f : Cluster → Cluster) : (s.updCluster c f).slack = s.slack := rfl
@[simp] theorem State.updCluster_nextId (s : State) (c : Nat) (f : Cluster → Cluster) : (s.updCluster c f).nextId = s.nextId := rfl
@[simp] theorem State.updCluster_stamp (s : State) (c : Nat) (f : Cluster → Cluster) : (s.updCluster c f).stamp = s.stamp := rfl
@[simp] theorem State.updCluster_powered (s : State) (c : Nat) (f : Cluster → Cluster) : (s.updCluster c f).powered = s.powered := rfl
@[simp] theorem State.updCluster_fw (s : State) (c : Nat) (f : Cluster → Cluster) : (s.updCluster c f).fw = s.fw := rfl
@[simp] theorem State.updCluster_ctxs (s : State) (c : Nat) (f : Cluster → Cluster) : (s.updCluster c f).ctxs = s.ctxs := rfl
@[simp] theorem State.updCluster_grids (s : State) (c : Nat) (f : Cluster → Cluster) : (s.updCluster c f).grids = s.grids := rfl
@[simp] theorem State.updCluster_gangs (s : State) (c : Nat) (f : Cluster → Cluster) : (s.updCluster c f).gangs = s.gangs := rfl
@[simp] theorem State.updCluster_wgs (s : State) (c : Nat) (f : Cluster → Cluster) : (s.updCluster c f).wgs = s.wgs := rfl
@[simp] theorem State.updCluster_warps (s : State) (c : Nat) (f : Cluster → Cluster) : (s.updCluster c f).warps = s.warps := rfl
@[simp] theorem State.updCluster_accs (s : State) (c : Nat) (f : Cluster → Cluster) : (s.updCluster c f).accs = s.accs := rfl
@[simp] theorem State.updCluster_cores (s : State) (c : Nat) (f : Cluster → Cluster) : (s.updCluster c f).cores = s.cores := rfl
@[simp] theorem State.updCluster_clusters (s : State) (c : Nat) (f : Cluster → Cluster) : (s.updCluster c f).clusters = mset s.clusters c (f (s.cluster c)) := rfl
@[simp] theorem State.updCluster_halls (s : State) (c : Nat) (f : Cluster → Cluster) : (s.updCluster c f).halls = s.halls := rfl
@[simp] theorem State.updCluster_gal (s : State) (c : Nat) (f : Cluster → Cluster) : (s.updCluster c f).gal = s.gal := rfl
@[simp] theorem State.updCluster_invs (s : State) (c : Nat) (f : Cluster → Cluster) : (s.updCluster c f).invs = s.invs := rfl
@[simp] theorem State.updCluster_galIc (s : State) (c : Nat) (f : Cluster → Cluster) : (s.updCluster c f).galIc = s.galIc := rfl
@[simp] theorem State.updCluster_walkCache (s : State) (c : Nat) (f : Cluster → Cluster) : (s.updCluster c f).walkCache = s.walkCache := rfl
@[simp] theorem State.updCluster_walks (s : State) (c : Nat) (f : Cluster → Cluster) : (s.updCluster c f).walks = s.walks := rfl
@[simp] theorem State.updCluster_queues (s : State) (c : Nat) (f : Cluster → Cluster) : (s.updCluster c f).queues = s.queues := rfl
@[simp] theorem State.updCluster_bars (s : State) (c : Nat) (f : Cluster → Cluster) : (s.updCluster c f).bars = s.bars := rfl
@[simp] theorem State.updCluster_slices (s : State) (c : Nat) (f : Cluster → Cluster) : (s.updCluster c f).slices = s.slices := rfl
@[simp] theorem State.updCluster_frecs (s : State) (c : Nat) (f : Cluster → Cluster) : (s.updCluster c f).frecs = s.frecs := rfl
@[simp] theorem State.updCluster_recorders (s : State) (c : Nat) (f : Cluster → Cluster) : (s.updCluster c f).recorders = s.recorders := rfl
@[simp] theorem State.updCluster_ports (s : State) (c : Nat) (f : Cluster → Cluster) : (s.updCluster c f).ports = s.ports := rfl
@[simp] theorem State.updCluster_routes (s : State) (c : Nat) (f : Cluster → Cluster) : (s.updCluster c f).routes = s.routes := rfl
@[simp] theorem State.updCluster_ext (s : State) (c : Nat) (f : Cluster → Cluster) : (s.updCluster c f).ext = s.ext := rfl
@[simp] theorem State.updCluster_timeout (s : State) (c : Nat) (f : Cluster → Cluster) : (s.updCluster c f).timeout = s.timeout := rfl
@[simp] theorem State.updCluster_out (s : State) (c : Nat) (f : Cluster → Cluster) : (s.updCluster c f).out = s.out := rfl
@[simp] theorem State.updCluster_xlinv (s : State) (c : Nat) (f : Cluster → Cluster) : (s.updCluster c f).xlinv = s.xlinv := rfl
@[simp] theorem State.updCluster_ctxsw (s : State) (c : Nat) (f : Cluster → Cluster) : (s.updCluster c f).ctxsw = s.ctxsw := rfl
@[simp] theorem State.updCluster_domain (s : State) (c : Nat) (f : Cluster → Cluster) : (s.updCluster c f).domain = s.domain := rfl
@[simp] theorem State.updCluster_mb (s : State) (c : Nat) (f : Cluster → Cluster) : (s.updCluster c f).mb = s.mb := rfl
@[simp] theorem State.updCluster_msixTable (s : State) (c : Nat) (f : Cluster → Cluster) : (s.updCluster c f).msixTable = s.msixTable := rfl
@[simp] theorem State.updCluster_msixPend (s : State) (c : Nat) (f : Cluster → Cluster) : (s.updCluster c f).msixPend = s.msixPend := rfl
@[simp] theorem State.updCluster_keys (s : State) (c : Nat) (f : Cluster → Cluster) : (s.updCluster c f).keys = s.keys := rfl
@[simp] theorem State.updCluster_nextKeyGen (s : State) (c : Nat) (f : Cluster → Cluster) : (s.updCluster c f).nextKeyGen = s.nextKeyGen := rfl
@[simp] theorem State.updCluster_images (s : State) (c : Nat) (f : Cluster → Cluster) : (s.updCluster c f).images = s.images := rfl
@[simp] theorem State.updCluster_islands (s : State) (c : Nat) (f : Cluster → Cluster) : (s.updCluster c f).islands = s.islands := rfl
@[simp] theorem State.updCluster_sensors (s : State) (c : Nat) (f : Cluster → Cluster) : (s.updCluster c f).sensors = s.sensors := rfl
@[simp] theorem State.updCluster_throttled (s : State) (c : Nat) (f : Cluster → Cluster) : (s.updCluster c f).throttled = s.throttled := rfl
@[simp] theorem State.updCluster_powerLimit (s : State) (c : Nat) (f : Cluster → Cluster) : (s.updCluster c f).powerLimit = s.powerLimit := rfl
@[simp] theorem State.updCluster_cxl (s : State) (c : Nat) (f : Cluster → Cluster) : (s.updCluster c f).cxl = s.cxl := rfl
@[simp] theorem State.updCluster_hostHeld (s : State) (c : Nat) (f : Cluster → Cluster) : (s.updCluster c f).hostHeld = s.hostHeld := rfl
@[simp] theorem State.updCluster_resetAt (s : State) (c : Nat) (f : Cluster → Cluster) : (s.updCluster c f).resetAt = s.resetAt := rfl
@[simp] theorem State.updCluster_alcCtx (s : State) (c : Nat) (f : Cluster → Cluster) : (s.updCluster c f).alcCtx = s.alcCtx := rfl
@[simp] theorem State.updCluster_corr (s : State) (c : Nat) (f : Cluster → Cluster) : (s.updCluster c f).corr = s.corr := rfl

@[simp] theorem State.putFrame_time (s : State) (e : Env) (f : Frame) : (s.putFrame e f).time = s.time := rfl
@[simp] theorem State.putFrame_fuses (s : State) (e : Env) (f : Frame) : (s.putFrame e f).fuses = s.fuses := rfl
@[simp] theorem State.putFrame_mem (s : State) (e : Env) (f : Frame) : (s.putFrame e f).mem = s.mem := rfl
@[simp] theorem State.putFrame_hbmq (s : State) (e : Env) (f : Frame) : (s.putFrame e f).hbmq = s.hbmq := rfl
@[simp] theorem State.putFrame_hlines (s : State) (e : Env) (f : Frame) : (s.putFrame e f).hlines = s.hlines := rfl
@[simp] theorem State.putFrame_cur (s : State) (e : Env) (f : Frame) : (s.putFrame e f).cur = s.cur := rfl
@[simp] theorem State.putFrame_inbox (s : State) (e : Env) (f : Frame) : (s.putFrame e f).inbox = s.inbox := rfl
@[simp] theorem State.putFrame_tick (s : State) (e : Env) (f : Frame) : (s.putFrame e f).tick = s.tick := rfl
@[simp] theorem State.putFrame_due (s : State) (e : Env) (f : Frame) : (s.putFrame e f).due = s.due := rfl
@[simp] theorem State.putFrame_slack (s : State) (e : Env) (f : Frame) : (s.putFrame e f).slack = s.slack := rfl
@[simp] theorem State.putFrame_nextId (s : State) (e : Env) (f : Frame) : (s.putFrame e f).nextId = s.nextId := rfl
@[simp] theorem State.putFrame_stamp (s : State) (e : Env) (f : Frame) : (s.putFrame e f).stamp = s.stamp := rfl
@[simp] theorem State.putFrame_powered (s : State) (e : Env) (f : Frame) : (s.putFrame e f).powered = s.powered := rfl
@[simp] theorem State.putFrame_fw (s : State) (e : Env) (f : Frame) : (s.putFrame e f).fw = s.fw := rfl
@[simp] theorem State.putFrame_ctxs (s : State) (e : Env) (f : Frame) : (s.putFrame e f).ctxs = s.ctxs := rfl
@[simp] theorem State.putFrame_grids (s : State) (e : Env) (f : Frame) : (s.putFrame e f).grids = s.grids := rfl
@[simp] theorem State.putFrame_gangs (s : State) (e : Env) (f : Frame) : (s.putFrame e f).gangs = s.gangs := rfl
@[simp] theorem State.putFrame_wgs (s : State) (e : Env) (f : Frame) : (s.putFrame e f).wgs = s.wgs := rfl
@[simp] theorem State.putFrame_warps (s : State) (e : Env) (f : Frame) : (s.putFrame e f).warps = mset s.warps e.wid { (e.w.setFrame f) with lastDispatch := s.time, raised := 0 } := rfl
@[simp] theorem State.putFrame_accs (s : State) (e : Env) (f : Frame) : (s.putFrame e f).accs = s.accs := rfl
@[simp] theorem State.putFrame_cores (s : State) (e : Env) (f : Frame) : (s.putFrame e f).cores = s.cores := rfl
@[simp] theorem State.putFrame_clusters (s : State) (e : Env) (f : Frame) : (s.putFrame e f).clusters = s.clusters := rfl
@[simp] theorem State.putFrame_halls (s : State) (e : Env) (f : Frame) : (s.putFrame e f).halls = s.halls := rfl
@[simp] theorem State.putFrame_gal (s : State) (e : Env) (f : Frame) : (s.putFrame e f).gal = s.gal := rfl
@[simp] theorem State.putFrame_invs (s : State) (e : Env) (f : Frame) : (s.putFrame e f).invs = s.invs := rfl
@[simp] theorem State.putFrame_galIc (s : State) (e : Env) (f : Frame) : (s.putFrame e f).galIc = s.galIc := rfl
@[simp] theorem State.putFrame_walkCache (s : State) (e : Env) (f : Frame) : (s.putFrame e f).walkCache = s.walkCache := rfl
@[simp] theorem State.putFrame_walks (s : State) (e : Env) (f : Frame) : (s.putFrame e f).walks = s.walks := rfl
@[simp] theorem State.putFrame_queues (s : State) (e : Env) (f : Frame) : (s.putFrame e f).queues = s.queues := rfl
@[simp] theorem State.putFrame_bars (s : State) (e : Env) (f : Frame) : (s.putFrame e f).bars = s.bars := rfl
@[simp] theorem State.putFrame_slices (s : State) (e : Env) (f : Frame) : (s.putFrame e f).slices = s.slices := rfl
@[simp] theorem State.putFrame_frecs (s : State) (e : Env) (f : Frame) : (s.putFrame e f).frecs = s.frecs := rfl
@[simp] theorem State.putFrame_recorders (s : State) (e : Env) (f : Frame) : (s.putFrame e f).recorders = s.recorders := rfl
@[simp] theorem State.putFrame_ports (s : State) (e : Env) (f : Frame) : (s.putFrame e f).ports = s.ports := rfl
@[simp] theorem State.putFrame_routes (s : State) (e : Env) (f : Frame) : (s.putFrame e f).routes = s.routes := rfl
@[simp] theorem State.putFrame_ext (s : State) (e : Env) (f : Frame) : (s.putFrame e f).ext = s.ext := rfl
@[simp] theorem State.putFrame_timeout (s : State) (e : Env) (f : Frame) : (s.putFrame e f).timeout = s.timeout := rfl
@[simp] theorem State.putFrame_out (s : State) (e : Env) (f : Frame) : (s.putFrame e f).out = s.out := rfl
@[simp] theorem State.putFrame_xlinv (s : State) (e : Env) (f : Frame) : (s.putFrame e f).xlinv = s.xlinv := rfl
@[simp] theorem State.putFrame_ctxsw (s : State) (e : Env) (f : Frame) : (s.putFrame e f).ctxsw = s.ctxsw := rfl
@[simp] theorem State.putFrame_domain (s : State) (e : Env) (f : Frame) : (s.putFrame e f).domain = s.domain := rfl
@[simp] theorem State.putFrame_mb (s : State) (e : Env) (f : Frame) : (s.putFrame e f).mb = s.mb := rfl
@[simp] theorem State.putFrame_msixTable (s : State) (e : Env) (f : Frame) : (s.putFrame e f).msixTable = s.msixTable := rfl
@[simp] theorem State.putFrame_msixPend (s : State) (e : Env) (f : Frame) : (s.putFrame e f).msixPend = s.msixPend := rfl
@[simp] theorem State.putFrame_keys (s : State) (e : Env) (f : Frame) : (s.putFrame e f).keys = s.keys := rfl
@[simp] theorem State.putFrame_nextKeyGen (s : State) (e : Env) (f : Frame) : (s.putFrame e f).nextKeyGen = s.nextKeyGen := rfl
@[simp] theorem State.putFrame_images (s : State) (e : Env) (f : Frame) : (s.putFrame e f).images = s.images := rfl
@[simp] theorem State.putFrame_islands (s : State) (e : Env) (f : Frame) : (s.putFrame e f).islands = s.islands := rfl
@[simp] theorem State.putFrame_sensors (s : State) (e : Env) (f : Frame) : (s.putFrame e f).sensors = s.sensors := rfl
@[simp] theorem State.putFrame_throttled (s : State) (e : Env) (f : Frame) : (s.putFrame e f).throttled = s.throttled := rfl
@[simp] theorem State.putFrame_powerLimit (s : State) (e : Env) (f : Frame) : (s.putFrame e f).powerLimit = s.powerLimit := rfl
@[simp] theorem State.putFrame_cxl (s : State) (e : Env) (f : Frame) : (s.putFrame e f).cxl = s.cxl := rfl
@[simp] theorem State.putFrame_hostHeld (s : State) (e : Env) (f : Frame) : (s.putFrame e f).hostHeld = s.hostHeld := rfl
@[simp] theorem State.putFrame_resetAt (s : State) (e : Env) (f : Frame) : (s.putFrame e f).resetAt = s.resetAt := rfl
@[simp] theorem State.putFrame_alcCtx (s : State) (e : Env) (f : Frame) : (s.putFrame e f).alcCtx = s.alcCtx := rfl
@[simp] theorem State.putFrame_corr (s : State) (e : Env) (f : Frame) : (s.putFrame e f).corr = s.corr := rfl

/-! ## The end of a step -/

@[simp] theorem close_time (s t : State) : (close s t).time = s.time := rfl
@[simp] theorem close_fuses (s t : State) : (close s t).fuses = s.fuses := rfl
@[simp] theorem close_mem (s t : State) : (close s t).mem = drain s.mem t.hbmq := rfl
@[simp] theorem close_hbmq (s t : State) : (close s t).hbmq = [] := rfl
@[simp] theorem close_hlines (s t : State) : (close s t).hlines = t.hlines := rfl
@[simp] theorem close_cur (s t : State) : (close s t).cur = none := rfl
@[simp] theorem close_inbox (s t : State) : (close s t).inbox = s.inbox := rfl
@[simp] theorem close_tick (s t : State) : (close s t).tick = t.tick := rfl
@[simp] theorem close_due (s t : State) : (close s t).due = t.due := rfl
@[simp] theorem close_slack (s t : State) : (close s t).slack = t.slack := rfl
@[simp] theorem close_nextId (s t : State) : (close s t).nextId = t.nextId := rfl
@[simp] theorem close_stamp (s t : State) : (close s t).stamp = t.stamp := rfl
@[simp] theorem close_powered (s t : State) : (close s t).powered = t.powered := rfl
@[simp] theorem close_fw (s t : State) : (close s t).fw = t.fw := rfl
@[simp] theorem close_ctxs (s t : State) : (close s t).ctxs = t.ctxs := rfl
@[simp] theorem close_grids (s t : State) : (close s t).grids = t.grids := rfl
@[simp] theorem close_gangs (s t : State) : (close s t).gangs = t.gangs := rfl
@[simp] theorem close_wgs (s t : State) : (close s t).wgs = t.wgs := rfl
@[simp] theorem close_warps (s t : State) : (close s t).warps = t.warps := rfl
@[simp] theorem close_accs (s t : State) : (close s t).accs = t.accs := rfl
@[simp] theorem close_cores (s t : State) : (close s t).cores = t.cores := rfl
@[simp] theorem close_clusters (s t : State) : (close s t).clusters = t.clusters := rfl
@[simp] theorem close_halls (s t : State) : (close s t).halls = t.halls := rfl
@[simp] theorem close_gal (s t : State) : (close s t).gal = t.gal := rfl
@[simp] theorem close_invs (s t : State) : (close s t).invs = t.invs := rfl
@[simp] theorem close_galIc (s t : State) : (close s t).galIc = t.galIc := rfl
@[simp] theorem close_walkCache (s t : State) : (close s t).walkCache = t.walkCache := rfl
@[simp] theorem close_walks (s t : State) : (close s t).walks = t.walks := rfl
@[simp] theorem close_queues (s t : State) : (close s t).queues = t.queues := rfl
@[simp] theorem close_bars (s t : State) : (close s t).bars = t.bars := rfl
@[simp] theorem close_slices (s t : State) : (close s t).slices = t.slices := rfl
@[simp] theorem close_frecs (s t : State) : (close s t).frecs = t.frecs := rfl
@[simp] theorem close_recorders (s t : State) : (close s t).recorders = t.recorders := rfl
@[simp] theorem close_ports (s t : State) : (close s t).ports = t.ports := rfl
@[simp] theorem close_routes (s t : State) : (close s t).routes = t.routes := rfl
@[simp] theorem close_ext (s t : State) : (close s t).ext = t.ext := rfl
@[simp] theorem close_timeout (s t : State) : (close s t).timeout = t.timeout := rfl
@[simp] theorem close_out (s t : State) : (close s t).out = t.out := rfl
@[simp] theorem close_xlinv (s t : State) : (close s t).xlinv = t.xlinv := rfl
@[simp] theorem close_ctxsw (s t : State) : (close s t).ctxsw = t.ctxsw := rfl
@[simp] theorem close_domain (s t : State) : (close s t).domain = t.domain := rfl
@[simp] theorem close_mb (s t : State) : (close s t).mb = t.mb := rfl
@[simp] theorem close_msixTable (s t : State) : (close s t).msixTable = t.msixTable := rfl
@[simp] theorem close_msixPend (s t : State) : (close s t).msixPend = t.msixPend := rfl
@[simp] theorem close_keys (s t : State) : (close s t).keys = t.keys := rfl
@[simp] theorem close_nextKeyGen (s t : State) : (close s t).nextKeyGen = t.nextKeyGen := rfl
@[simp] theorem close_images (s t : State) : (close s t).images = t.images := rfl
@[simp] theorem close_islands (s t : State) : (close s t).islands = t.islands := rfl
@[simp] theorem close_sensors (s t : State) : (close s t).sensors = t.sensors := rfl
@[simp] theorem close_throttled (s t : State) : (close s t).throttled = t.throttled := rfl
@[simp] theorem close_powerLimit (s t : State) : (close s t).powerLimit = t.powerLimit := rfl
@[simp] theorem close_cxl (s t : State) : (close s t).cxl = t.cxl := rfl
@[simp] theorem close_hostHeld (s t : State) : (close s t).hostHeld = t.hostHeld := rfl
@[simp] theorem close_resetAt (s t : State) : (close s t).resetAt = t.resetAt := rfl
@[simp] theorem close_alcCtx (s t : State) : (close s t).alcCtx = t.alcCtx := rfl
@[simp] theorem close_corr (s t : State) : (close s t).corr = t.corr := rfl

end Sys2Proof.Machine
end

