-- ==== Sys2Proof/Laws/Ops.lean ====
section
/-!
SUPPORT. Sys2Proof/Laws/Ops.lean: what each shared operation can do, said once: the end of a step, sending tokens, and a class L slot
lane by lane (R77 to R81).
-/
namespace Sys2Proof.Machine

/-! ## Outcomes -/

theorem ran_powered {s : State} (h : s.powered = true) (t : State) : ran s t = .next (close s t) := by unfold ran; rw [if_pos h]

theorem ran_next {s t u : State} (h : ran s t = .next u) : s.powered = true ∧ u = close s t := by
  unfold ran at h
  split at h
  · rename_i hp; exact ⟨hp, by cases h; rfl⟩
  · cases h

theorem event_next {s t u : State} {n : String} {ok : Bool} (h : event s n ok t = .next u) : ok = true ∧ s.powered = true ∧ u = close s t := by
  unfold event at h
  split at h
  · rename_i ho; exact ⟨ho, ran_next h⟩
  · cases h

theorem event_go {s : State} (n : String) {ok : Bool} (t : State) (ho : ok = true) (hp : s.powered = true) :
    event s n ok t = .next (close s t) := by
  unfold event; rw [if_pos ho, ran_powered hp]

/-! ## The slot under the cursor -/

theorem env?_some {s : State} {e : Env} (h : s.env? = some e) :
    s.cur = some ⟨e.wid, e.slot⟩ ∧ s.warp e.wid = some e.w ∧ e.w.levels.head? = some e.lv ∧ e.lv.frame = some e.f ∧ e.f.vec = none ∧
      e.w.stat = .ready ∧ e.slot < e.f.blk.nslot := by
  unfold State.env? at h
  split at h
  · cases h
  · rename_i c hc
    split at h
    · cases h
    · rename_i w hw
      split at h
      · cases h
      · rename_i lv r hl
        split at h
        · cases h
        · rename_i f hf
          split at h
          · rename_i hk
            cases h
            simp only [Bool.and_eq_true, Option.isNone_iff_eq_none, decide_eq_true_eq] at hk
            exact ⟨hc, hw, by rw [hl]; rfl, hf, hk.1.1, hk.1.2, hk.2⟩
          · cases h

/-- The frame that a slot's meaning puts back is the frame of the warp afterwards. -/
theorem putFrame_frame (s : State) (e : Env) (f : Frame) (h : e.w.levels.head? = some e.lv) :
    ((s.putFrame e f).warp e.wid).bind Warp.frame = some f := by
  unfold State.warp
  rw [State.putFrame_warps, mget_mset_self]
  unfold Warp.setFrame Warp.setTop
  cases hl : e.w.levels with
  | nil => rw [hl] at h; cases h
  | cons lv r => rfl

/-- The frame that a slot made is the frame of the warp afterwards, whether or not it dispatched. -/
theorem dispatch_frame (s : State) (e : Env) (f : Frame) (hw : s.warp e.wid = some e.w) (h : e.w.levels.head? = some e.lv) (hf : e.lv.frame = some e.f) :
    ((s.dispatch e f).warp e.wid).bind Warp.frame = some f := by
  unfold State.dispatch
  split
  · rename_i he
    rw [hw, he]
    show Warp.frame e.w = some e.f
    unfold Warp.frame
    cases hl : e.w.levels with
    | nil => rw [hl] at h; cases h
    | cons lv r => rw [hl] at h; cases h; exact hf
  · exact putFrame_frame s e f h

/-! ## Tokens and done marks, lane by lane -/

/-- Two frames agree on what lane `l` sees: its tokens and which slots it has resolved. -/
def Frame.LaneEq (l : Nat) (f g : Frame) : Prop :=
  (∀ port sl, f.tok port sl l = g.tok port sl l) ∧ (∀ sl, f.doneIn sl l = g.doneIn sl l)

theorem Frame.LaneEq.refl (l : Nat) (f : Frame) : f.LaneEq l f := ⟨fun _ _ => rfl, fun _ => rfl⟩
theorem Frame.LaneEq.trans {l : Nat} {f g h : Frame} (a : f.LaneEq l g) (b : g.LaneEq l h) : f.LaneEq l h :=
  ⟨fun p s => (a.1 p s).trans (b.1 p s), fun s => (a.2 s).trans (b.2 s)⟩
theorem Frame.LaneEq.symm {l : Nat} {f g : Frame} (a : f.LaneEq l g) : g.LaneEq l f :=
  ⟨fun p s => (a.1 p s).symm, fun s => (a.2 s).symm⟩

theorem tokKey_lane {p s l p' s' l' : Nat} (hl : l < 64) (hl' : l' < 64) (h : tokKey p s l = tokKey p' s' l') : l = l' ∧ p * 64 + s = p' * 64 + s' := by
  unfold tokKey at h; omega

theorem Frame.send1_tok (f : Frame) (l : Nat) (t : Tok) (d : Nat) (tg : BitVec 9) (p s j : Nat) :
    (f.send1 l t d tg).tok p s j = match tgtPort tg with
      | none => f.tok p s j
      | some q => if tokKey p s j = tokKey q.1 q.2 l then some t else f.tok p s j := by
  unfold Frame.send1
  cases tgtPort tg with
  | none => rfl
  | some q => exact mget_mset ..

theorem Frame.send1_other (f : Frame) {l j : Nat} (t : Tok) (d : Nat) (tg : BitVec 9) (hl : l < 64) (hj : j < 64) (h : j ≠ l) :
    (f.send1 l t d tg).LaneEq j f := by
  constructor
  · intro p s
    rw [Frame.send1_tok]
    cases tgtPort tg with
    | none => rfl
    | some q => exact if_neg (fun e => h (tokKey_lane hj hl e).1)
  · intro s
    unfold Frame.send1
    cases tgtPort tg <;> rfl

theorem Frame.send1_done (f : Frame) (l : Nat) (t : Tok) (d : Nat) (tg : BitVec 9) (s j : Nat) : (f.send1 l t d tg).doneIn s j = f.doneIn s j := by
  unfold Frame.send1
  cases tgtPort tg <;> rfl

theorem Frame.send_done (f : Frame) (ts : List (BitVec 9)) (l : Nat) (t : Tok) (d s j : Nat) : (f.send ts l t d).doneIn s j = f.doneIn s j := by
  unfold Frame.send
  induction ts generalizing f with
  | nil => rfl
  | cons x r ih => exact (ih _).trans (Frame.send1_done ..)

theorem Frame.send_other (f : Frame) (ts : List (BitVec 9)) {l j : Nat} (t : Tok) (d : Nat) (hl : l < 64) (hj : j < 64) (h : j ≠ l) :
    (f.send ts l t d).LaneEq j f := by
  unfold Frame.send
  induction ts generalizing f with
  | nil => exact Frame.LaneEq.refl ..
  | cons x r ih => exact (ih _).trans (Frame.send1_other f t d x hl hj h)

/-- A token that is at a named place stays there while the same token is sent on. -/
theorem Frame.send_keep (f : Frame) (ts : List (BitVec 9)) (l : Nat) (t : Tok) (d : Nat) (p s : Nat) (h : f.tok p s l = some t) :
    (f.send ts l t d).tok p s l = some t := by
  unfold Frame.send
  induction ts generalizing f with
  | nil => exact h
  | cons x r ih =>
    refine ih _ ?_
    rw [Frame.send1_tok]
    cases tgtPort x with
    | none => exact h
    | some q =>
      show (if _ then _ else _) = _
      split
      · rfl
      · exact h

/-- Every target of a send holds the token. -/
theorem Frame.send_tok (f : Frame) (ts : List (BitVec 9)) (l : Nat) (t : Tok) (d : Nat) {tg : BitVec 9} (hm : tg ∈ ts) {q : Nat × Nat}
    (hq : tgtPort tg = some q) : (f.send ts l t d).tok q.1 q.2 l = some t := by
  unfold Frame.send
  induction ts generalizing f with
  | nil => cases hm
  | cons x r ih =>
    rcases List.mem_cons.1 hm with rfl | hm
    · refine Frame.send_keep _ r l t d _ _ ?_
      rw [Frame.send1_tok, hq]
      exact if_pos rfl
    · exact ih _ hm

/-- What no target names keeps its token. -/
theorem Frame.send_else (f : Frame) (ts : List (BitVec 9)) (l : Nat) (t : Tok) (d : Nat) (k : Nat)
    (h : ∀ tg ∈ ts, ∀ q, tgtPort tg = some q → k ≠ tokKey q.1 q.2 l) : mget (f.send ts l t d).toks k = mget f.toks k := by
  unfold Frame.send
  induction ts generalizing f with
  | nil => rfl
  | cons x r ih =>
    refine (ih _ (fun tg hm => h tg (List.mem_cons_of_mem _ hm))).trans ?_
    show mget (f.send1 l t d x).toks k = _
    unfold Frame.send1
    cases hx : tgtPort x with
    | none => rfl
    | some q => exact mget_mset_other _ _ (h x (List.mem_cons_self ..) q hx)

theorem Frame.markDone_tok (f : Frame) (s l p sl j : Nat) : (f.markDone s l).tok p sl j = f.tok p sl j := rfl
theorem Frame.markFired_tok (f : Frame) (s l p sl j : Nat) : (f.markFired s l).tok p sl j = f.tok p sl j := rfl
theorem Frame.markFired_done (f : Frame) (s l sl j : Nat) : (f.markFired s l).doneIn sl j = f.doneIn sl j := rfl
theorem Frame.poisonSink_tok (f : Frame) (s l : Nat) (t : Tok) (p sl j : Nat) : (f.poisonSink s l t).tok p sl j = f.tok p sl j := rfl
theorem Frame.poisonSink_done (f : Frame) (s l : Nat) (t : Tok) (sl j : Nat) : (f.poisonSink s l t).doneIn sl j = f.doneIn sl j := rfl

theorem Frame.markDone_done (f : Frame) (s l sl j : Nat) (hj : j < 64) : (f.markDone s l).doneIn sl j = (f.doneIn sl j || (decide (sl = s) && decide (j = l))) := by
  unfold Frame.markDone Frame.doneIn
  show hasLane (mgetD (mset f.done s (mgetD f.done s 0 ||| laneBit l)) sl 0) j = _
  rw [mgetD_mset]
  by_cases h : sl = s
  · subst h; rw [if_pos rfl, hasLane_or_laneBit _ _ _ hj]; simp
  · rw [if_neg h]; simp [h]

theorem Frame.markDone_other (f : Frame) (s : Nat) {l j : Nat} (hj : j < 64) (h : j ≠ l) : (f.markDone s l).LaneEq j f :=
  ⟨fun _ _ => rfl, fun sl => by rw [Frame.markDone_done _ _ _ _ _ hj]; simp [h]⟩

theorem Frame.put_other (f : Frame) (slot : Nat) {l j : Nat} (ts : List (BitVec 9)) (snk : Bool) (d : Nat) (o : LaneOut) (hl : l < 64) (hj : j < 64)
    (h : j ≠ l) : (f.put slot l ts snk d o).LaneEq j f := by
  have e := Frame.send_other f ts (l := l) (j := j)
  cases o with
  | out t =>
    unfold Frame.put
    show Frame.LaneEq j (if snk && t.isPoison then (f.send ts l t d).poisonSink slot l t else f.send ts l t d) f
    split
    · exact e t d hl hj h
    · exact e t d hl hj h
  | branch b link => exact e link d hl hj h
  | swreg n v => exact Frame.LaneEq.refl ..
  | resume w => exact Frame.LaneEq.refl ..
  | sample v => exact e (.value v) d hl hj h
  | fail t => exact Frame.LaneEq.refl ..

theorem Frame.put_done (f : Frame) (slot l : Nat) (ts : List (BitVec 9)) (snk : Bool) (d : Nat) (o : LaneOut) (s j : Nat) :
    (f.put slot l ts snk d o).doneIn s j = f.doneIn s j := by
  cases o with
  | out t =>
    unfold Frame.put
    show Frame.doneIn (if snk && t.isPoison then (f.send ts l t d).poisonSink slot l t else f.send ts l t d) s j = _
    split <;> exact Frame.send_done ..
  | branch b link => exact Frame.send_done f ts l link d s j
  | swreg n v => rfl
  | resume w => rfl
  | sample v => exact Frame.send_done f ts l (.value v) d s j
  | fail t => rfl

theorem Frame.put_out_tok (f : Frame) (slot l : Nat) (ts : List (BitVec 9)) (snk : Bool) (d : Nat) (t : Tok) (p s j : Nat) :
    (f.put slot l ts snk d (.out t)).tok p s j = (f.send ts l t d).tok p s j := by
  unfold Frame.put
  show Frame.tok (if snk && t.isPoison then (f.send ts l t d).poisonSink slot l t else f.send ts l t d) p s j = _
  split <;> rfl

/-! ## What a lane of a slot sees -/

theorem Frame.LaneEq.laneGoP {l : Nat} {f g : Frame} (h : f.LaneEq l g) (slot : Nat) (ports : List Nat) (pm : BitVec 2) :
    f.laneGoP slot ports pm l = g.laneGoP slot ports pm l := by
  unfold Frame.laneGoP
  simp only [h.1, h.2]
theorem Frame.LaneEq.laneGo {l : Nat} {f g : Frame} (h : f.LaneEq l g) (slot nops : Nat) (pm : BitVec 2) :
    f.laneGo slot nops pm l = g.laneGo slot nops pm l := h.laneGoP ..
theorem Frame.LaneEq.ops {l : Nat} {f g : Frame} (h : f.LaneEq l g) (slot nops : Nat) : f.ops slot nops l = g.ops slot nops l := by
  unfold Frame.ops
  simp only [h.1]
theorem Frame.LaneEq.opVal {l : Nat} {f g : Frame} (h : f.LaneEq l g) (port slot : Nat) : f.opVal port slot l = g.opVal port slot l := by
  unfold Frame.opVal
  rw [h.1]

theorem Frame.fireLane_other (f : Frame) (slot nops : Nat) (pm : BitVec 2) (ts : List (BitVec 9)) (snk : Bool)
    (fn : Frame → Nat → Word → Word → Word → LaneOut) {l j : Nat} (hl : l < 64) (hj : j < 64) (h : j ≠ l) :
    (f.fireLane slot nops pm ts snk fn l).LaneEq j f := by
  unfold Frame.fireLane
  split
  · exact Frame.LaneEq.refl ..
  · exact (Frame.markDone_other _ _ hj h).trans (Frame.send_other f ts _ _ hl hj h)
  · exact (Frame.markDone_other _ _ hj h).trans (Frame.put_other f slot ts _ _ _ hl hj h)
  · have e : ((f.markFired slot l).markDone slot l).LaneEq j f :=
      (Frame.markDone_other _ _ hj h).trans ⟨fun _ _ => rfl, fun _ => rfl⟩
    dsimp only
    split
    · exact (Frame.put_other _ slot ts _ _ _ hl hj h).trans e
    · split
      · exact (Frame.send_other _ ts _ _ hl hj h).trans e
      · exact (Frame.put_other _ slot ts _ _ _ hl hj h).trans e

/-- The token that a class L slot makes in a lane where it resolves, from the lane's predicate and operands (R79, R80). -/
def Frame.laneTok (f : Frame) (slot nops : Nat) (pm : BitVec 2) (l : Nat) (v : Word → Word → Word → Tok) : Option Tok :=
  match f.laneGo slot nops pm l with
  | .wait => none
  | .off => some .null
  | .pois t => some t
  | .fire => some (kindRule (f.ops slot nops l) (v (f.opVal 0 slot l) (f.opVal 1 slot l) (f.opVal 2 slot l)))

/-- A class L slot that makes one token from values: in each lane where it resolves, every target holds that lane's token and the lane
is done; in a lane where it waits nothing changes. -/
theorem Frame.fireLane_self (f : Frame) (slot nops : Nat) (pm : BitVec 2) (ts : List (BitVec 9)) (snk : Bool) (v : Word → Word → Word → Tok)
    (fn : Frame → Nat → Word → Word → Word → LaneOut) (l : Nat) (hl : l < 64) (hv : ∀ a b c, fn f l a b c = .out (v a b c)) :
    match f.laneTok slot nops pm l v with
    | none => f.fireLane slot nops pm ts snk fn l = f
    | some t => (f.fireLane slot nops pm ts snk fn l).doneIn slot l = true ∧
        (∀ p sl, (f.fireLane slot nops pm ts snk fn l).tok p sl l = (f.send ts l t 0).tok p sl l) := by
  have hs : ∀ (g : Frame) (t : Tok) (d d' p sl : Nat), (∀ p sl, g.tok p sl l = f.tok p sl l) → (g.send ts l t d).tok p sl l = (f.send ts l t d').tok p sl l := by
    intro g t d d' p sl hg
    unfold Frame.send
    generalize f = f at hg ⊢
    induction ts generalizing g f with
    | nil => exact hg p sl
    | cons x r ih =>
      refine ih _ _ ?_
      intro p sl
      rw [Frame.send1_tok, Frame.send1_tok, hg]
  unfold Frame.laneTok Frame.fireLane
  cases hg : f.laneGo slot nops pm l with
  | wait => rfl
  | off =>
    refine ⟨?_, fun p sl => hs f _ _ _ p sl (fun _ _ => rfl)⟩
    rw [Frame.markDone_done _ _ _ _ _ hl]; simp
  | pois t =>
    refine ⟨?_, fun p sl => ?_⟩
    · rw [Frame.markDone_done _ _ _ _ _ hl]; simp
    · exact Frame.put_out_tok ..
  | fire =>
    have hd : ((f.markFired slot l).markDone slot l).doneIn slot l = true := by
      rw [Frame.markDone_done _ _ _ _ _ hl]; simp
    simp only [kindRule]
    cases hp : (f.ops slot nops l).find? Tok.isPoison with
    | some t =>
      refine ⟨(Frame.put_done ..).trans hd, fun p sl => ?_⟩
      exact (Frame.put_out_tok ..).trans (hs _ _ _ _ _ _ (fun _ _ => rfl))
    | none =>
      cases hn : (f.ops slot nops l).contains .null with
      | true =>
        refine ⟨(Frame.send_done ..).trans hd, fun p sl => ?_⟩
        exact hs _ _ _ _ _ _ (fun _ _ => rfl)
      | false =>
        simp only [Bool.false_eq_true, if_false, hv]
        refine ⟨(Frame.put_done ..).trans hd, fun p sl => ?_⟩
        exact (Frame.put_out_tok ..).trans (hs _ _ _ _ _ _ (fun _ _ => rfl))

/-- A list of lanes fired in turn: a lane outside it keeps what it sees. -/
theorem Frame.fireList_other (f : Frame) (slot nops : Nat) (pm : BitVec 2) (ts : List (BitVec 9)) (snk : Bool)
    (fn : Frame → Nat → Word → Word → Word → LaneOut) (ls : List Nat) (j : Nat) (hls : ∀ l ∈ ls, l < 64) (hj : j < 64) (hn : j ∉ ls) :
    (ls.foldl (fun g l => g.fireLane slot nops pm ts snk fn l) f).LaneEq j f := by
  induction ls generalizing f with
  | nil => exact Frame.LaneEq.refl ..
  | cons l r ih =>
    rw [List.mem_cons, not_or] at hn
    exact (ih _ (fun x hx => hls x (List.mem_cons_of_mem _ hx)) hn.2).trans
      (Frame.fireLane_other f slot nops pm ts snk fn (hls l (List.mem_cons_self ..)) hj hn.1)

/-- Two frames on which lane `l` agrees resolve it alike. -/
theorem Frame.fireLane_congr {f g : Frame} {l : Nat} (h : f.LaneEq l g) (slot nops : Nat) (pm : BitVec 2) (ts : List (BitVec 9)) (snk : Bool)
    (v : Word → Word → Word → Tok) (fn : Frame → Nat → Word → Word → Word → LaneOut) (hl : l < 64) (hv : ∀ g a b c, fn g l a b c = .out (v a b c)) :
    (∀ p sl, (f.fireLane slot nops pm ts snk fn l).tok p sl l = (g.fireLane slot nops pm ts snk fn l).tok p sl l) ∧
      (f.fireLane slot nops pm ts snk fn l).doneIn slot l = (g.fireLane slot nops pm ts snk fn l).doneIn slot l := by
  have hf := Frame.fireLane_self f slot nops pm ts snk v fn l hl (hv f)
  have hg := Frame.fireLane_self g slot nops pm ts snk v fn l hl (hv g)
  have e : f.laneTok slot nops pm l v = g.laneTok slot nops pm l v := by
    unfold Frame.laneTok
    rw [h.laneGo, h.ops, h.opVal, h.opVal, h.opVal]
  have hs (t : Tok) (p sl : Nat) : (f.send ts l t 0).tok p sl l = (g.send ts l t 0).tok p sl l := by
    unfold Frame.send
    have h1 := h.1
    clear hf hg e h
    induction ts generalizing f g with
    | nil => exact h1 p sl
    | cons x r ih =>
      refine ih ?_
      intro p sl
      rw [Frame.send1_tok, Frame.send1_tok, h1]
  rw [e] at hf
  cases ht : g.laneTok slot nops pm l v with
  | none =>
    rw [ht] at hf hg
    dsimp only at hf hg
    rw [hf, hg]
    exact ⟨fun p sl => h.1 p sl, h.2 slot⟩
  | some t =>
    rw [ht] at hf hg
    exact ⟨fun p sl => by rw [hf.2, hg.2, hs], by rw [hf.1, hg.1]⟩

/-- What a class L slot that makes one token does in every active lane (R79, R80): where it resolves, every target holds the lane's token
and the lane is done; where it waits, nothing of the lane changes. -/
theorem Frame.fireAll_lane (f : Frame) (slot nops : Nat) (pm : BitVec 2) (ts : List (BitVec 9)) (snk : Bool) (v : Word → Word → Word → Tok)
    (fn : Frame → Nat → Word → Word → Word → LaneOut) (hv : ∀ g l a b c, fn g l a b c = .out (v a b c)) {l : Nat} (hl : l ∈ lanesOf f.mask) :
    match f.laneTok slot nops pm l v with
    | none => ∀ p sl, (f.fireAll slot nops pm ts snk fn).tok p sl l = f.tok p sl l
    | some t => (f.fireAll slot nops pm ts snk fn).doneIn slot l = true ∧
        (∀ p sl, (f.fireAll slot nops pm ts snk fn).tok p sl l = (f.send ts l t 0).tok p sl l) := by
  have h64 : l < 64 := (mem_lanesOf.1 hl).1
  obtain ⟨a, b, hab⟩ := List.append_of_mem hl
  have hnd := lanesOf_nodup f.mask
  have hmem : ∀ x ∈ lanesOf f.mask, x < 64 := fun x hx => (mem_lanesOf.1 hx).1
  unfold Frame.fireAll
  rw [hab] at hnd hmem ⊢
  have hna : l ∉ a := by
    intro h
    exact (List.nodup_append.1 hnd).2.2 l h l (List.mem_cons_self ..) rfl
  have hnb : l ∉ b := ((List.nodup_append.1 hnd).2.1 |> List.nodup_cons.1).1
  rw [List.foldl_append, List.foldl_cons]
  have h1 := Frame.fireList_other f slot nops pm ts snk fn a l (fun x hx => hmem x (List.mem_append_left _ hx)) h64 hna
  have h3 := Frame.fireList_other ((a.foldl (fun g l => g.fireLane slot nops pm ts snk fn l) f).fireLane slot nops pm ts snk fn l)
    slot nops pm ts snk fn b l (fun x hx => hmem x (List.mem_append_right _ (List.mem_cons_of_mem _ hx))) h64 hnb
  have h2 := Frame.fireLane_congr h1 slot nops pm ts snk v fn h64 (fun g => hv g l)
  have h4 := Frame.fireLane_self f slot nops pm ts snk v fn l h64 (hv f l)
  cases ht : f.laneTok slot nops pm l v with
  | none =>
    rw [ht] at h4
    dsimp only at h4 ⊢
    intro p sl
    rw [h3.1, h2.1, h4]
  | some t =>
    rw [ht] at h4
    exact ⟨by rw [h3.2, h2.2, h4.1], fun p sl => by rw [h3.1, h2.1, h4.2]⟩

/-! ## The meaning of a class L slot -/

/-- A class L slot under the cursor of a powered module takes a step in which only the frame of its warp changes (R79). -/
theorem slotL_next {s : State} {e : Env} (hp : s.powered = true) (he : s.env? = some e) {pm : BitVec 2} (h3 : pm ≠ 3#2) (nops : Nat)
    (ts : List (BitVec 9)) (snk : Bool) (fn : Env → Frame → Nat → Word → Word → Word → LaneOut) :
    slotL s pm false nops ts snk fn = .next (close s (s.dispatch e (e.f.fireAll e.slot nops pm ts snk (fn e)))) := by
  unfold slotL
  rw [he]
  dsimp only
  rw [ran_powered hp]
  have : vecCause pm false false = none := by unfold vecCause; simp [h3]
  rw [this]

/-- With PM 11 or a reserved MOD the slot vectors with EMU_RESERVED (R75). -/
theorem slotL_reserved {s : State} {e : Env} (hp : s.powered = true) (he : s.env? = some e) {pm : BitVec 2} {r : Bool} (h : pm = 3#2 ∨ r = true)
    (nops : Nat) (ts : List (BitVec 9)) (snk : Bool) (fn : Env → Frame → Nat → Word → Word → Word → LaneOut) :
    slotL s pm r nops ts snk fn = .next (close s (s.vectorL e pm nops ts snk cEmuReserved)) := by
  unfold slotL
  rw [he]
  dsimp only
  rw [ran_powered hp]
  have : vecCause pm r false = some cEmuReserved := by unfold vecCause; rcases h with h | h <;> simp [h]
  rw [this]

end Sys2Proof.Machine
end

