-- ==== Sys2Proof/Laws/Words.lean ====
section
/-!
SUPPORT. Sys2Proof/Laws/Words.lean: the fields of an encoded word, one lemma for each field of each format (R46).
-/
namespace Sys2Proof.Laws

section
variable (op : BitVec 9) (pm : BitVec 2) (md md3 : BitVec 3) (tb ta t : BitVec 9) (imm : BitVec 12) (mos : BitVec 5) (off4 : BitVec 4)
  (off13 : BitVec 13) (off21 : BitVec 21) (imm20 : BitVec 20) (k : BitVec 3)
  (bank : BitVec 4) (wd : BitVec 8) (w64 : BitVec 1) (cnt : BitVec 6) (md2 : BitVec 2)

@[simp] theorem fOp_gW : fOp (gW op pm md tb ta) = op := by
  unfold fOp gW
  apply BitVec.eq_of_getLsbD_eq
  intro i hi
  simp only [BitVec.getLsbD_extractLsb', BitVec.getLsbD_append, hi, decide_true, Bool.true_and]
  repeat' split
  all_goals first | omega | (congr 1; omega)
@[simp] theorem fPm_gW : fPm (gW op pm md tb ta) = pm := by
  unfold fPm gW
  apply BitVec.eq_of_getLsbD_eq
  intro i hi
  simp only [BitVec.getLsbD_extractLsb', BitVec.getLsbD_append, hi, decide_true, Bool.true_and]
  repeat' split
  all_goals first | omega | (congr 1; omega)
@[simp] theorem fMd_gW : fMd (gW op pm md tb ta) = md := by
  unfold fMd gW
  apply BitVec.eq_of_getLsbD_eq
  intro i hi
  simp only [BitVec.getLsbD_extractLsb', BitVec.getLsbD_append, hi, decide_true, Bool.true_and]
  repeat' split
  all_goals first | omega | (congr 1; omega)
@[simp] theorem fTb_gW : fTb (gW op pm md tb ta) = tb := by
  unfold fTb gW
  apply BitVec.eq_of_getLsbD_eq
  intro i hi
  simp only [BitVec.getLsbD_extractLsb', BitVec.getLsbD_append, hi, decide_true, Bool.true_and]
  repeat' split
  all_goals first | omega | (congr 1; omega)
@[simp] theorem fTa_gW : fTa (gW op pm md tb ta) = ta := by
  unfold fTa gW
  apply BitVec.eq_of_getLsbD_eq
  intro i hi
  simp only [BitVec.getLsbD_extractLsb', BitVec.getLsbD_append, hi, decide_true, Bool.true_and]
  repeat' split
  all_goals first | omega | (congr 1; omega)
@[simp] theorem fOp_iW : fOp (iW op pm imm t) = op := by
  unfold fOp iW
  apply BitVec.eq_of_getLsbD_eq
  intro i hi
  simp only [BitVec.getLsbD_extractLsb', BitVec.getLsbD_append, hi, decide_true, Bool.true_and]
  repeat' split
  all_goals first | omega | (congr 1; omega)
@[simp] theorem fPm_iW : fPm (iW op pm imm t) = pm := by
  unfold fPm iW
  apply BitVec.eq_of_getLsbD_eq
  intro i hi
  simp only [BitVec.getLsbD_extractLsb', BitVec.getLsbD_append, hi, decide_true, Bool.true_and]
  repeat' split
  all_goals first | omega | (congr 1; omega)
@[simp] theorem fImm_iW : fImm (iW op pm imm t) = imm := by
  unfold fImm iW
  apply BitVec.eq_of_getLsbD_eq
  intro i hi
  simp only [BitVec.getLsbD_extractLsb', BitVec.getLsbD_append, hi, decide_true, Bool.true_and]
  repeat' split
  all_goals first | omega | (congr 1; omega)
@[simp] theorem fT_iW : fT (iW op pm imm t) = t := by
  unfold fT iW
  apply BitVec.eq_of_getLsbD_eq
  intro i hi
  simp only [BitVec.getLsbD_extractLsb', BitVec.getLsbD_append, hi, decide_true, Bool.true_and]
  repeat' split
  all_goals first | omega | (congr 1; omega)
@[simp] theorem fOp_mW : fOp (mW op pm mos md3 off4 t) = op := by
  unfold fOp mW
  apply BitVec.eq_of_getLsbD_eq
  intro i hi
  simp only [BitVec.getLsbD_extractLsb', BitVec.getLsbD_append, hi, decide_true, Bool.true_and]
  repeat' split
  all_goals first | omega | (congr 1; omega)
@[simp] theorem fPm_mW : fPm (mW op pm mos md3 off4 t) = pm := by
  unfold fPm mW
  apply BitVec.eq_of_getLsbD_eq
  intro i hi
  simp only [BitVec.getLsbD_extractLsb', BitVec.getLsbD_append, hi, decide_true, Bool.true_and]
  repeat' split
  all_goals first | omega | (congr 1; omega)
@[simp] theorem fMos_mW : fMos (mW op pm mos md3 off4 t) = mos := by
  unfold fMos mW
  apply BitVec.eq_of_getLsbD_eq
  intro i hi
  simp only [BitVec.getLsbD_extractLsb', BitVec.getLsbD_append, hi, decide_true, Bool.true_and]
  repeat' split
  all_goals first | omega | (congr 1; omega)
@[simp] theorem fMdM_mW : fMdM (mW op pm mos md3 off4 t) = md3 := by
  unfold fMdM mW
  apply BitVec.eq_of_getLsbD_eq
  intro i hi
  simp only [BitVec.getLsbD_extractLsb', BitVec.getLsbD_append, hi, decide_true, Bool.true_and]
  repeat' split
  all_goals first | omega | (congr 1; omega)
@[simp] theorem fOff4_mW : fOff4 (mW op pm mos md3 off4 t) = off4 := by
  unfold fOff4 mW
  apply BitVec.eq_of_getLsbD_eq
  intro i hi
  simp only [BitVec.getLsbD_extractLsb', BitVec.getLsbD_append, hi, decide_true, Bool.true_and]
  repeat' split
  all_goals first | omega | (congr 1; omega)
@[simp] theorem fT_mW : fT (mW op pm mos md3 off4 t) = t := by
  unfold fT mW
  apply BitVec.eq_of_getLsbD_eq
  intro i hi
  simp only [BitVec.getLsbD_extractLsb', BitVec.getLsbD_append, hi, decide_true, Bool.true_and]
  repeat' split
  all_goals first | omega | (congr 1; omega)
@[simp] theorem fOp_sW : fOp (sW op pm mos md3 off13) = op := by
  unfold fOp sW
  apply BitVec.eq_of_getLsbD_eq
  intro i hi
  simp only [BitVec.getLsbD_extractLsb', BitVec.getLsbD_append, hi, decide_true, Bool.true_and]
  repeat' split
  all_goals first | omega | (congr 1; omega)
@[simp] theorem fPm_sW : fPm (sW op pm mos md3 off13) = pm := by
  unfold fPm sW
  apply BitVec.eq_of_getLsbD_eq
  intro i hi
  simp only [BitVec.getLsbD_extractLsb', BitVec.getLsbD_append, hi, decide_true, Bool.true_and]
  repeat' split
  all_goals first | omega | (congr 1; omega)
@[simp] theorem fMos_sW : fMos (sW op pm mos md3 off13) = mos := by
  unfold fMos sW
  apply BitVec.eq_of_getLsbD_eq
  intro i hi
  simp only [BitVec.getLsbD_extractLsb', BitVec.getLsbD_append, hi, decide_true, Bool.true_and]
  repeat' split
  all_goals first | omega | (congr 1; omega)
@[simp] theorem fMdM_sW : fMdM (sW op pm mos md3 off13) = md3 := by
  unfold fMdM sW
  apply BitVec.eq_of_getLsbD_eq
  intro i hi
  simp only [BitVec.getLsbD_extractLsb', BitVec.getLsbD_append, hi, decide_true, Bool.true_and]
  repeat' split
  all_goals first | omega | (congr 1; omega)
@[simp] theorem fOff13_sW : fOff13 (sW op pm mos md3 off13) = off13 := by
  unfold fOff13 sW
  apply BitVec.eq_of_getLsbD_eq
  intro i hi
  simp only [BitVec.getLsbD_extractLsb', BitVec.getLsbD_append, hi, decide_true, Bool.true_and]
  repeat' split
  all_goals first | omega | (congr 1; omega)
@[simp] theorem fOp_bW : fOp (bW op pm off21) = op := by
  unfold fOp bW
  apply BitVec.eq_of_getLsbD_eq
  intro i hi
  simp only [BitVec.getLsbD_extractLsb', BitVec.getLsbD_append, hi, decide_true, Bool.true_and]
  repeat' split
  all_goals first | omega | (congr 1; omega)
@[simp] theorem fPm_bW : fPm (bW op pm off21) = pm := by
  unfold fPm bW
  apply BitVec.eq_of_getLsbD_eq
  intro i hi
  simp only [BitVec.getLsbD_extractLsb', BitVec.getLsbD_append, hi, decide_true, Bool.true_and]
  repeat' split
  all_goals first | omega | (congr 1; omega)
@[simp] theorem fOff21_bW : fOff21 (bW op pm off21) = off21 := by
  unfold fOff21 bW
  apply BitVec.eq_of_getLsbD_eq
  intro i hi
  simp only [BitVec.getLsbD_extractLsb', BitVec.getLsbD_append, hi, decide_true, Bool.true_and]
  repeat' split
  all_goals first | omega | (congr 1; omega)
@[simp] theorem fK_kW : fK (kW k imm20 t) = k := by
  unfold fK kW
  apply BitVec.eq_of_getLsbD_eq
  intro i hi
  simp only [BitVec.getLsbD_extractLsb', BitVec.getLsbD_append, hi, decide_true, Bool.true_and]
  repeat' split
  all_goals first | omega | (congr 1; omega)
@[simp] theorem fImm20_kW : fImm20 (kW k imm20 t) = imm20 := by
  unfold fImm20 kW
  apply BitVec.eq_of_getLsbD_eq
  intro i hi
  simp only [BitVec.getLsbD_extractLsb', BitVec.getLsbD_append, hi, decide_true, Bool.true_and]
  repeat' split
  all_goals first | omega | (congr 1; omega)
@[simp] theorem fT_kW : fT (kW k imm20 t) = t := by
  unfold fT kW
  apply BitVec.eq_of_getLsbD_eq
  intro i hi
  simp only [BitVec.getLsbD_extractLsb', BitVec.getLsbD_append, hi, decide_true, Bool.true_and]
  repeat' split
  all_goals first | omega | (congr 1; omega)
@[simp] theorem fK_gW : fK (gW op pm md tb ta) = op.extractLsb' 6 3 := by
  unfold fK gW
  apply BitVec.eq_of_getLsbD_eq
  intro i hi
  simp only [BitVec.getLsbD_extractLsb', BitVec.getLsbD_append, hi, decide_true, Bool.true_and]
  repeat' split
  all_goals first | omega | (congr 1; omega)
@[simp] theorem fK_iW : fK (iW op pm imm t) = op.extractLsb' 6 3 := by
  unfold fK iW
  apply BitVec.eq_of_getLsbD_eq
  intro i hi
  simp only [BitVec.getLsbD_extractLsb', BitVec.getLsbD_append, hi, decide_true, Bool.true_and]
  repeat' split
  all_goals first | omega | (congr 1; omega)
@[simp] theorem fK_mW : fK (mW op pm mos md3 off4 t) = op.extractLsb' 6 3 := by
  unfold fK mW
  apply BitVec.eq_of_getLsbD_eq
  intro i hi
  simp only [BitVec.getLsbD_extractLsb', BitVec.getLsbD_append, hi, decide_true, Bool.true_and]
  repeat' split
  all_goals first | omega | (congr 1; omega)
@[simp] theorem fK_sW : fK (sW op pm mos md3 off13) = op.extractLsb' 6 3 := by
  unfold fK sW
  apply BitVec.eq_of_getLsbD_eq
  intro i hi
  simp only [BitVec.getLsbD_extractLsb', BitVec.getLsbD_append, hi, decide_true, Bool.true_and]
  repeat' split
  all_goals first | omega | (congr 1; omega)
@[simp] theorem fK_bW : fK (bW op pm off21) = op.extractLsb' 6 3 := by
  unfold fK bW
  apply BitVec.eq_of_getLsbD_eq
  intro i hi
  simp only [BitVec.getLsbD_extractLsb', BitVec.getLsbD_append, hi, decide_true, Bool.true_and]
  repeat' split
  all_goals first | omega | (congr 1; omega)
@[simp] theorem fBank_iW : fBank (iW op pm (bank ++ wd) t) = bank := by
  unfold fBank iW
  apply BitVec.eq_of_getLsbD_eq
  intro i hi
  simp only [BitVec.getLsbD_extractLsb', BitVec.getLsbD_append, hi, decide_true, Bool.true_and]
  repeat' split
  all_goals first | omega | (congr 1; omega)
@[simp] theorem fWd_iW : fWd (iW op pm (bank ++ wd) t) = wd := by
  unfold fWd iW
  apply BitVec.eq_of_getLsbD_eq
  intro i hi
  simp only [BitVec.getLsbD_extractLsb', BitVec.getLsbD_append, hi, decide_true, Bool.true_and]
  repeat' split
  all_goals first | omega | (congr 1; omega)
@[simp] theorem fW64_iW : fW64 (iW op pm (0#5 ++ w64 ++ cnt) t) = w64 := by
  unfold fW64 iW
  apply BitVec.eq_of_getLsbD_eq
  intro i hi
  simp only [BitVec.getLsbD_extractLsb', BitVec.getLsbD_append, hi, decide_true, Bool.true_and]
  repeat' split
  all_goals first | omega | (congr 1; omega)
@[simp] theorem fCnt_iW : fCnt (iW op pm (0#5 ++ w64 ++ cnt) t) = cnt := by
  unfold fCnt iW
  apply BitVec.eq_of_getLsbD_eq
  intro i hi
  simp only [BitVec.getLsbD_extractLsb', BitVec.getLsbD_append, hi, decide_true, Bool.true_and]
  repeat' split
  all_goals first | omega | (congr 1; omega)
@[simp] theorem fMd2_gW : fMd2 (gW op pm (1#1 ++ md2) tb ta) = md2 := by
  unfold fMd2 gW
  apply BitVec.eq_of_getLsbD_eq
  intro i hi
  simp only [BitVec.getLsbD_extractLsb', BitVec.getLsbD_append, hi, decide_true, Bool.true_and]
  repeat' split
  all_goals first | omega | (congr 1; omega)
theorem shZ_iW : (iW op pm (0#5 ++ w64 ++ cnt) t).extractLsb' 16 5 = 0 := by
  unfold iW
  apply BitVec.eq_of_getLsbD_eq
  intro i hi
  simp only [BitVec.getLsbD_extractLsb', BitVec.getLsbD_append, hi, decide_true, Bool.true_and]
  repeat' split
  all_goals first | omega | simp
end

end Sys2Proof.Laws
end

