-- ==== Sys2Proof/Laws/PerInstr.lean ====
section
/-!
SUPPORT. Sys2Proof/Laws/PerInstr.lean: for each constructor, its words decode to it, whatever words follow (R46, R49, R67 to R73).
-/
namespace Sys2Proof.Laws

/-- The words of an instruction decode to it and leave what follows; an event has no words. -/
def Encoding.Statement (i : Instr) : Prop :=
  encode i ≠ [] → wellFormed i = true → ∀ rest : List Insn, decode (encode i ++ rest) = .ok (i, rest)

theorem fK_toNat (w : Insn) : (fK w).toNat = (fOp w).toNat / 64 := by
  simp only [fK, fOp, BitVec.extractLsb'_toNat, Nat.shiftRight_eq_div_pow]
  omega

theorem fK_small {w : Insn} (h : (fOp w).toNat / 64 < 6) : fK w ≠ 0b110#3 ∧ fK w ≠ 0b111#3 := by
  rw [← fK_toNat] at h
  constructor <;> intro e <;> rw [e] at h <;> exact absurd h (by decide)

theorem decodeWord_of {w l0 l1 : Insn} {o : BitVec 9} (h : fOp w = o) (hn : o.toNat / 64 < 6) :
    decodeWord w l0 l1 = match o.toNat / 64 with
      | 0 => decodeG0 w l0 l1
      | 1 => decodeG1 w
      | 2 => decodeG2 w
      | 3 => decodeG3 w
      | 4 => decodeG4 w
      | _ => decodeG5 w := by
  subst h
  unfold decodeWord
  (rw [if_neg (fK_small hn).1, if_neg (fK_small hn).2]) <;> rfl

/-- One word that decodes to an instruction without literals. -/
theorem decode_one {w : Insn} {i : Instr} {rest : List Insn} (hi : ∀ pm md tb ta l0 l1, i ≠ .genl pm md tb ta l0 l1)
    (h : decodeWord w (rest.headD 0) ((rest.drop 1).headD 0) = .ok i) : decode ([w] ++ rest) = .ok (i, rest) := by
  show (match decodeWord w (rest.headD 0) ((rest.drop 1).headD 0) with
    | .ok (.genl pm md tb ta l0 l1) => Except.ok (Instr.genl pm md tb ta l0 l1, rest.drop (if md &&& 3#3 = 3#3 then 2 else 1))
    | .ok i => .ok (i, rest)
    | .error e => .error e) = _
  rw [h]
  cases i <;> first | rfl | exact absurd rfl (hi _ _ _ _ _ _)

theorem decode_genl {w : Insn} {pm : BitVec 2} {md : BitVec 3} {tb ta : BitVec 9} {l0 l1 : Insn} {r : List Insn}
    (h : decodeWord w (r.headD 0) ((r.drop 1).headD 0) = .ok (.genl pm md tb ta l0 l1)) :
    decode (w :: r) = .ok (.genl pm md tb ta l0 l1, r.drop (if md &&& 3#3 = 3#3 then 2 else 1)) := by
  show (match decodeWord w (r.headD 0) ((r.drop 1).headD 0) with
    | .ok (.genl pm md tb ta l0 l1) => Except.ok (Instr.genl pm md tb ta l0 l1, r.drop (if md &&& 3#3 = 3#3 then 2 else 1))
    | .ok i => .ok (i, r)
    | .error e => .error e) = _
  rw [h]

section
set_option Elab.async false

theorem Encoding.mov (pm : BitVec 2) (tb : BitVec 9) (ta : BitVec 9) : Encoding.Statement (.mov pm tb ta) := by
  intro _ _ rest
  refine decode_one (by nofun) ?_
  rw [decodeWord_of (fOp_gW ..) (by decide)]
  show decodeG0 (gW 0x001#9 pm 0 tb ta) _ _ = _
  unfold decodeG0; rw [fOp_gW]
  show (zMd (gW 0x001#9 pm 0 tb ta) (.mov (fPm (gW 0x001#9 pm 0 tb ta)) (fTb (gW 0x001#9 pm 0 tb ta)) (fTa (gW 0x001#9 pm 0 tb ta)))) = _
  simp [zMd]
theorem Encoding.void (pm : BitVec 2) (tb : BitVec 9) (ta : BitVec 9) : Encoding.Statement (.void pm tb ta) := by
  intro _ _ rest
  refine decode_one (by nofun) ?_
  rw [decodeWord_of (fOp_gW ..) (by decide)]
  show decodeG0 (gW 0x002#9 pm 0 tb ta) _ _ = _
  unfold decodeG0; rw [fOp_gW]
  show (zMd (gW 0x002#9 pm 0 tb ta) (.void (fPm (gW 0x002#9 pm 0 tb ta)) (fTb (gW 0x002#9 pm 0 tb ta)) (fTa (gW 0x002#9 pm 0 tb ta)))) = _
  simp [zMd]
theorem Encoding.pick (pm : BitVec 2) (tb : BitVec 9) (ta : BitVec 9) : Encoding.Statement (.pick pm tb ta) := by
  intro _ _ rest
  refine decode_one (by nofun) ?_
  rw [decodeWord_of (fOp_gW ..) (by decide)]
  show decodeG0 (gW 0x003#9 pm 0 tb ta) _ _ = _
  unfold decodeG0; rw [fOp_gW]
  show (zMd (gW 0x003#9 pm 0 tb ta) (.pick (fPm (gW 0x003#9 pm 0 tb ta)) (fTb (gW 0x003#9 pm 0 tb ta)) (fTa (gW 0x003#9 pm 0 tb ta)))) = _
  simp [zMd]
theorem Encoding.genk (pm : BitVec 2) (bank : BitVec 4) (wd : BitVec 8) (t : BitVec 9) : Encoding.Statement (.genk pm bank wd t) := by
  intro _ _ rest
  refine decode_one (by nofun) ?_
  rw [decodeWord_of (fOp_iW ..) (by decide)]
  show decodeG0 (iW 0x004#9 pm (bank ++ wd) t) _ _ = _
  unfold decodeG0; rw [fOp_iW]
  show (Except.ok (Instr.genk (fPm (iW 0x004#9 pm (bank ++ wd) t)) (fBank (iW 0x004#9 pm (bank ++ wd) t)) (fWd (iW 0x004#9 pm (bank ++ wd) t)) (fT (iW 0x004#9 pm (bank ++ wd) t)))) = _
  simp
theorem Encoding.genl (pm : BitVec 2) (md : BitVec 3) (tb : BitVec 9) (ta : BitVec 9) (lit0 : BitVec 32) (lit1 : BitVec 32) : Encoding.Statement (.genl pm md tb ta lit0 lit1) := by
  intro _ hw rest
  have e (l1 : Insn) (hl : (if md &&& 3#3 = 3#3 then l1 else 0#32) = lit1) :
      decodeWord (gW 0x005#9 pm md tb ta) lit0 l1 = .ok (.genl pm md tb ta lit0 lit1) := by
    rw [decodeWord_of (fOp_gW ..) (by decide)]
    show decodeG0 (gW 0x005#9 pm md tb ta) _ _ = _
    unfold decodeG0; rw [fOp_gW]
    show Except.ok (Instr.genl _ _ _ _ _ _) = _
    simp only [fPm_gW, fMd_gW, fTb_gW, fTa_gW, hl]
  by_cases h : md &&& 3#3 = 3#3
  · have q : encode (.genl pm md tb ta lit0 lit1) = [gW 0x005#9 pm md tb ta, lit0, lit1] := by
      show gW 0x005#9 pm md tb ta :: lit0 :: (if md &&& 3#3 = 3#3 then [lit1] else []) = _
      rw [if_pos h]
    rw [q]
    refine (decode_genl (r := lit0 :: lit1 :: rest) (e lit1 (if_pos h))).trans ?_
    rw [if_pos h]; rfl
  · have h0 : lit1 = 0 := by
      have this : (targetLegal tb && targetLegal ta && (md &&& 3#3 == 3#3 || lit1 == 0)) = true := hw
      simp only [Bool.and_eq_true, Bool.or_eq_true, beq_iff_eq] at this
      exact this.2.resolve_left h
    have q : encode (.genl pm md tb ta lit0 lit1) = [gW 0x005#9 pm md tb ta, lit0] := by
      show gW 0x005#9 pm md tb ta :: lit0 :: (if md &&& 3#3 = 3#3 then [lit1] else []) = _
      rw [if_neg h]
    rw [q]
    refine (decode_genl (r := lit0 :: rest) (e (rest.headD 0) (by rw [if_neg h, h0]; rfl))).trans ?_
    rw [if_neg h]; rfl
theorem Encoding.sreg (pm : BitVec 2) (imm : BitVec 12) (t : BitVec 9) : Encoding.Statement (.sreg pm imm t) := by
  intro _ _ rest
  refine decode_one (by nofun) ?_
  rw [decodeWord_of (fOp_iW ..) (by decide)]
  show decodeG0 (iW 0x006#9 pm imm t) _ _ = _
  unfold decodeG0; rw [fOp_iW]
  show (Except.ok (Instr.sreg (fPm (iW 0x006#9 pm imm t)) (fImm (iW 0x006#9 pm imm t)) (fT (iW 0x006#9 pm imm t)))) = _
  simp
theorem Encoding.swreg (pm : BitVec 2) (imm : BitVec 12) : Encoding.Statement (.swreg pm imm) := by
  intro _ _ rest
  refine decode_one (by nofun) ?_
  rw [decodeWord_of (fOp_iW ..) (by decide)]
  show decodeG0 (iW 0x007#9 pm imm 0x1FF#9) _ _ = _
  unfold decodeG0; rw [fOp_iW]
  show (noT (iW 0x007#9 pm imm 0x1FF#9) (.swreg (fPm (iW 0x007#9 pm imm 0x1FF#9)) (fImm (iW 0x007#9 pm imm 0x1FF#9)))) = _
  simp [noT]
theorem Encoding.shfl (pm : BitVec 2) (md : BitVec 3) (tb : BitVec 9) (ta : BitVec 9) : Encoding.Statement (.shfl pm md tb ta) := by
  intro _ _ rest
  refine decode_one (by nofun) ?_
  rw [decodeWord_of (fOp_gW ..) (by decide)]
  show decodeG0 (gW 0x008#9 pm md tb ta) _ _ = _
  unfold decodeG0; rw [fOp_gW]
  show (Except.ok (Instr.shfl (fPm (gW 0x008#9 pm md tb ta)) (fMd (gW 0x008#9 pm md tb ta)) (fTb (gW 0x008#9 pm md tb ta)) (fTa (gW 0x008#9 pm md tb ta)))) = _
  simp
theorem Encoding.vote (pm : BitVec 2) (md : BitVec 3) (tb : BitVec 9) (ta : BitVec 9) : Encoding.Statement (.vote pm md tb ta) := by
  intro _ _ rest
  refine decode_one (by nofun) ?_
  rw [decodeWord_of (fOp_gW ..) (by decide)]
  show decodeG0 (gW 0x009#9 pm md tb ta) _ _ = _
  unfold decodeG0; rw [fOp_gW]
  show (Except.ok (Instr.vote (fPm (gW 0x009#9 pm md tb ta)) (fMd (gW 0x009#9 pm md tb ta)) (fTb (gW 0x009#9 pm md tb ta)) (fTa (gW 0x009#9 pm md tb ta)))) = _
  simp
theorem Encoding.redx (pm : BitVec 2) (md : BitVec 3) (tb : BitVec 9) (ta : BitVec 9) : Encoding.Statement (.redx pm md tb ta) := by
  intro _ _ rest
  refine decode_one (by nofun) ?_
  rw [decodeWord_of (fOp_gW ..) (by decide)]
  show decodeG0 (gW 0x00A#9 pm md tb ta) _ _ = _
  unfold decodeG0; rw [fOp_gW]
  show (Except.ok (Instr.redx (fPm (gW 0x00A#9 pm md tb ta)) (fMd (gW 0x00A#9 pm md tb ta)) (fTb (gW 0x00A#9 pm md tb ta)) (fTa (gW 0x00A#9 pm md tb ta)))) = _
  simp
theorem Encoding.scanx (pm : BitVec 2) (md : BitVec 3) (tb : BitVec 9) (ta : BitVec 9) : Encoding.Statement (.scanx pm md tb ta) := by
  intro _ _ rest
  refine decode_one (by nofun) ?_
  rw [decodeWord_of (fOp_gW ..) (by decide)]
  show decodeG0 (gW 0x00B#9 pm md tb ta) _ _ = _
  unfold decodeG0; rw [fOp_gW]
  show (Except.ok (Instr.scanx (fPm (gW 0x00B#9 pm md tb ta)) (fMd (gW 0x00B#9 pm md tb ta)) (fTb (gW 0x00B#9 pm md tb ta)) (fTa (gW 0x00B#9 pm md tb ta)))) = _
  simp
theorem Encoding.elect (pm : BitVec 2) (tb : BitVec 9) (ta : BitVec 9) : Encoding.Statement (.elect pm tb ta) := by
  intro _ _ rest
  refine decode_one (by nofun) ?_
  rw [decodeWord_of (fOp_gW ..) (by decide)]
  show decodeG0 (gW 0x00C#9 pm 0 tb ta) _ _ = _
  unfold decodeG0; rw [fOp_gW]
  show (zMd (gW 0x00C#9 pm 0 tb ta) (.elect (fPm (gW 0x00C#9 pm 0 tb ta)) (fTb (gW 0x00C#9 pm 0 tb ta)) (fTa (gW 0x00C#9 pm 0 tb ta)))) = _
  simp [zMd]
theorem Encoding.emret (pm : BitVec 2) : Encoding.Statement (.emret pm) := by
  intro _ _ rest
  refine decode_one (by nofun) ?_
  rw [decodeWord_of (fOp_gW ..) (by decide)]
  show decodeG0 (gW 0x010#9 pm 0 0x1FF#9 0x1FF#9) _ _ = _
  unfold decodeG0; rw [fOp_gW]
  show (noTT (gW 0x010#9 pm 0 0x1FF#9 0x1FF#9) (zMd (gW 0x010#9 pm 0 0x1FF#9 0x1FF#9) (.emret (fPm (gW 0x010#9 pm 0 0x1FF#9 0x1FF#9))))) = _
  simp [zMd, noTT]
theorem Encoding.yield (pm : BitVec 2) : Encoding.Statement (.yield pm) := by
  intro _ _ rest
  refine decode_one (by nofun) ?_
  rw [decodeWord_of (fOp_gW ..) (by decide)]
  show decodeG0 (gW 0x011#9 pm 0 0x1FF#9 0x1FF#9) _ _ = _
  unfold decodeG0; rw [fOp_gW]
  show (noTT (gW 0x011#9 pm 0 0x1FF#9 0x1FF#9) (zMd (gW 0x011#9 pm 0 0x1FF#9 0x1FF#9) (.yield (fPm (gW 0x011#9 pm 0 0x1FF#9 0x1FF#9))))) = _
  simp [zMd, noTT]
theorem Encoding.trap (pm : BitVec 2) (imm : BitVec 12) : Encoding.Statement (.trap pm imm) := by
  intro _ _ rest
  refine decode_one (by nofun) ?_
  rw [decodeWord_of (fOp_iW ..) (by decide)]
  show decodeG0 (iW 0x012#9 pm imm 0x1FF#9) _ _ = _
  unfold decodeG0; rw [fOp_iW]
  show (noT (iW 0x012#9 pm imm 0x1FF#9) (.trap (fPm (iW 0x012#9 pm imm 0x1FF#9)) (fImm (iW 0x012#9 pm imm 0x1FF#9)))) = _
  simp [noT]
theorem Encoding.fresume (pm : BitVec 2) : Encoding.Statement (.fresume pm) := by
  intro _ _ rest
  refine decode_one (by nofun) ?_
  rw [decodeWord_of (fOp_gW ..) (by decide)]
  show decodeG0 (gW 0x013#9 pm 0 0x1FF#9 0x1FF#9) _ _ = _
  unfold decodeG0; rw [fOp_gW]
  show (noTT (gW 0x013#9 pm 0 0x1FF#9 0x1FF#9) (zMd (gW 0x013#9 pm 0 0x1FF#9 0x1FF#9) (.fresume (fPm (gW 0x013#9 pm 0 0x1FF#9 0x1FF#9))))) = _
  simp [zMd, noTT]
theorem Encoding.gen (imm : BitVec 20) (t : BitVec 9) : Encoding.Statement (.gen imm t) := by
  intro _ _ rest
  exact decode_one (by nofun) (by simp [decodeWord])
theorem Encoding.genf (imm : BitVec 20) (t : BitVec 9) : Encoding.Statement (.genf imm t) := by
  intro _ _ rest
  exact decode_one (by nofun) (by simp [decodeWord])
theorem Encoding.add (pm : BitVec 2) (md : BitVec 3) (tb : BitVec 9) (ta : BitVec 9) : Encoding.Statement (.add pm md tb ta) := by
  intro _ _ rest
  refine decode_one (by nofun) ?_
  rw [decodeWord_of (fOp_gW ..) (by decide)]
  show decodeG1 (gW 0x040#9 pm md tb ta) = _
  unfold decodeG1; rw [fOp_gW]
  show (Except.ok (Instr.add (fPm (gW 0x040#9 pm md tb ta)) (fMd (gW 0x040#9 pm md tb ta)) (fTb (gW 0x040#9 pm md tb ta)) (fTa (gW 0x040#9 pm md tb ta)))) = _
  simp
theorem Encoding.sub (pm : BitVec 2) (md : BitVec 3) (tb : BitVec 9) (ta : BitVec 9) : Encoding.Statement (.sub pm md tb ta) := by
  intro _ _ rest
  refine decode_one (by nofun) ?_
  rw [decodeWord_of (fOp_gW ..) (by decide)]
  show decodeG1 (gW 0x041#9 pm md tb ta) = _
  unfold decodeG1; rw [fOp_gW]
  show (Except.ok (Instr.sub (fPm (gW 0x041#9 pm md tb ta)) (fMd (gW 0x041#9 pm md tb ta)) (fTb (gW 0x041#9 pm md tb ta)) (fTa (gW 0x041#9 pm md tb ta)))) = _
  simp
theorem Encoding.addi (pm : BitVec 2) (imm : BitVec 12) (t : BitVec 9) : Encoding.Statement (.addi pm imm t) := by
  intro _ _ rest
  refine decode_one (by nofun) ?_
  rw [decodeWord_of (fOp_iW ..) (by decide)]
  show decodeG1 (iW 0x042#9 pm imm t) = _
  unfold decodeG1; rw [fOp_iW]
  show (Except.ok (Instr.addi (fPm (iW 0x042#9 pm imm t)) (fImm (iW 0x042#9 pm imm t)) (fT (iW 0x042#9 pm imm t)))) = _
  simp
theorem Encoding.mul (pm : BitVec 2) (md : BitVec 3) (tb : BitVec 9) (ta : BitVec 9) : Encoding.Statement (.mul pm md tb ta) := by
  intro _ _ rest
  refine decode_one (by nofun) ?_
  rw [decodeWord_of (fOp_gW ..) (by decide)]
  show decodeG1 (gW 0x043#9 pm md tb ta) = _
  unfold decodeG1; rw [fOp_gW]
  show (Except.ok (Instr.mul (fPm (gW 0x043#9 pm md tb ta)) (fMd (gW 0x043#9 pm md tb ta)) (fTb (gW 0x043#9 pm md tb ta)) (fTa (gW 0x043#9 pm md tb ta)))) = _
  simp
theorem Encoding.mulh (pm : BitVec 2) (md : BitVec 3) (tb : BitVec 9) (ta : BitVec 9) : Encoding.Statement (.mulh pm md tb ta) := by
  intro _ _ rest
  refine decode_one (by nofun) ?_
  rw [decodeWord_of (fOp_gW ..) (by decide)]
  show decodeG1 (gW 0x044#9 pm md tb ta) = _
  unfold decodeG1; rw [fOp_gW]
  show (Except.ok (Instr.mulh (fPm (gW 0x044#9 pm md tb ta)) (fMd (gW 0x044#9 pm md tb ta)) (fTb (gW 0x044#9 pm md tb ta)) (fTa (gW 0x044#9 pm md tb ta)))) = _
  simp
theorem Encoding.mad (pm : BitVec 2) (md : BitVec 3) (tb : BitVec 9) (ta : BitVec 9) : Encoding.Statement (.mad pm md tb ta) := by
  intro _ _ rest
  refine decode_one (by nofun) ?_
  rw [decodeWord_of (fOp_gW ..) (by decide)]
  show decodeG1 (gW 0x045#9 pm md tb ta) = _
  unfold decodeG1; rw [fOp_gW]
  show (Except.ok (Instr.mad (fPm (gW 0x045#9 pm md tb ta)) (fMd (gW 0x045#9 pm md tb ta)) (fTb (gW 0x045#9 pm md tb ta)) (fTa (gW 0x045#9 pm md tb ta)))) = _
  simp
theorem Encoding.div (pm : BitVec 2) (md : BitVec 3) (tb : BitVec 9) (ta : BitVec 9) : Encoding.Statement (.div pm md tb ta) := by
  intro _ _ rest
  refine decode_one (by nofun) ?_
  rw [decodeWord_of (fOp_gW ..) (by decide)]
  show decodeG1 (gW 0x046#9 pm md tb ta) = _
  unfold decodeG1; rw [fOp_gW]
  show (Except.ok (Instr.div (fPm (gW 0x046#9 pm md tb ta)) (fMd (gW 0x046#9 pm md tb ta)) (fTb (gW 0x046#9 pm md tb ta)) (fTa (gW 0x046#9 pm md tb ta)))) = _
  simp
theorem Encoding.rem (pm : BitVec 2) (md : BitVec 3) (tb : BitVec 9) (ta : BitVec 9) : Encoding.Statement (.rem pm md tb ta) := by
  intro _ _ rest
  refine decode_one (by nofun) ?_
  rw [decodeWord_of (fOp_gW ..) (by decide)]
  show decodeG1 (gW 0x047#9 pm md tb ta) = _
  unfold decodeG1; rw [fOp_gW]
  show (Except.ok (Instr.rem (fPm (gW 0x047#9 pm md tb ta)) (fMd (gW 0x047#9 pm md tb ta)) (fTb (gW 0x047#9 pm md tb ta)) (fTa (gW 0x047#9 pm md tb ta)))) = _
  simp
theorem Encoding.min (pm : BitVec 2) (md : BitVec 3) (tb : BitVec 9) (ta : BitVec 9) : Encoding.Statement (.min pm md tb ta) := by
  intro _ _ rest
  refine decode_one (by nofun) ?_
  rw [decodeWord_of (fOp_gW ..) (by decide)]
  show decodeG1 (gW 0x048#9 pm md tb ta) = _
  unfold decodeG1; rw [fOp_gW]
  show (Except.ok (Instr.min (fPm (gW 0x048#9 pm md tb ta)) (fMd (gW 0x048#9 pm md tb ta)) (fTb (gW 0x048#9 pm md tb ta)) (fTa (gW 0x048#9 pm md tb ta)))) = _
  simp
theorem Encoding.max (pm : BitVec 2) (md : BitVec 3) (tb : BitVec 9) (ta : BitVec 9) : Encoding.Statement (.max pm md tb ta) := by
  intro _ _ rest
  refine decode_one (by nofun) ?_
  rw [decodeWord_of (fOp_gW ..) (by decide)]
  show decodeG1 (gW 0x049#9 pm md tb ta) = _
  unfold decodeG1; rw [fOp_gW]
  show (Except.ok (Instr.max (fPm (gW 0x049#9 pm md tb ta)) (fMd (gW 0x049#9 pm md tb ta)) (fTb (gW 0x049#9 pm md tb ta)) (fTa (gW 0x049#9 pm md tb ta)))) = _
  simp
theorem Encoding.abs (pm : BitVec 2) (md : BitVec 3) (tb : BitVec 9) (ta : BitVec 9) : Encoding.Statement (.abs pm md tb ta) := by
  intro _ _ rest
  refine decode_one (by nofun) ?_
  rw [decodeWord_of (fOp_gW ..) (by decide)]
  show decodeG1 (gW 0x04A#9 pm md tb ta) = _
  unfold decodeG1; rw [fOp_gW]
  show (Except.ok (Instr.abs (fPm (gW 0x04A#9 pm md tb ta)) (fMd (gW 0x04A#9 pm md tb ta)) (fTb (gW 0x04A#9 pm md tb ta)) (fTa (gW 0x04A#9 pm md tb ta)))) = _
  simp
theorem Encoding.neg (pm : BitVec 2) (md : BitVec 3) (tb : BitVec 9) (ta : BitVec 9) : Encoding.Statement (.neg pm md tb ta) := by
  intro _ _ rest
  refine decode_one (by nofun) ?_
  rw [decodeWord_of (fOp_gW ..) (by decide)]
  show decodeG1 (gW 0x04B#9 pm md tb ta) = _
  unfold decodeG1; rw [fOp_gW]
  show (Except.ok (Instr.neg (fPm (gW 0x04B#9 pm md tb ta)) (fMd (gW 0x04B#9 pm md tb ta)) (fTb (gW 0x04B#9 pm md tb ta)) (fTa (gW 0x04B#9 pm md tb ta)))) = _
  simp
theorem Encoding.and (pm : BitVec 2) (md : BitVec 3) (tb : BitVec 9) (ta : BitVec 9) : Encoding.Statement (.and pm md tb ta) := by
  intro _ _ rest
  refine decode_one (by nofun) ?_
  rw [decodeWord_of (fOp_gW ..) (by decide)]
  show decodeG1 (gW 0x04C#9 pm md tb ta) = _
  unfold decodeG1; rw [fOp_gW]
  show (Except.ok (Instr.and (fPm (gW 0x04C#9 pm md tb ta)) (fMd (gW 0x04C#9 pm md tb ta)) (fTb (gW 0x04C#9 pm md tb ta)) (fTa (gW 0x04C#9 pm md tb ta)))) = _
  simp
theorem Encoding.or (pm : BitVec 2) (md : BitVec 3) (tb : BitVec 9) (ta : BitVec 9) : Encoding.Statement (.or pm md tb ta) := by
  intro _ _ rest
  refine decode_one (by nofun) ?_
  rw [decodeWord_of (fOp_gW ..) (by decide)]
  show decodeG1 (gW 0x04D#9 pm md tb ta) = _
  unfold decodeG1; rw [fOp_gW]
  show (Except.ok (Instr.or (fPm (gW 0x04D#9 pm md tb ta)) (fMd (gW 0x04D#9 pm md tb ta)) (fTb (gW 0x04D#9 pm md tb ta)) (fTa (gW 0x04D#9 pm md tb ta)))) = _
  simp
theorem Encoding.xor (pm : BitVec 2) (md : BitVec 3) (tb : BitVec 9) (ta : BitVec 9) : Encoding.Statement (.xor pm md tb ta) := by
  intro _ _ rest
  refine decode_one (by nofun) ?_
  rw [decodeWord_of (fOp_gW ..) (by decide)]
  show decodeG1 (gW 0x04E#9 pm md tb ta) = _
  unfold decodeG1; rw [fOp_gW]
  show (Except.ok (Instr.xor (fPm (gW 0x04E#9 pm md tb ta)) (fMd (gW 0x04E#9 pm md tb ta)) (fTb (gW 0x04E#9 pm md tb ta)) (fTa (gW 0x04E#9 pm md tb ta)))) = _
  simp
theorem Encoding.andn (pm : BitVec 2) (md : BitVec 3) (tb : BitVec 9) (ta : BitVec 9) : Encoding.Statement (.andn pm md tb ta) := by
  intro _ _ rest
  refine decode_one (by nofun) ?_
  rw [decodeWord_of (fOp_gW ..) (by decide)]
  show decodeG1 (gW 0x04F#9 pm md tb ta) = _
  unfold decodeG1; rw [fOp_gW]
  show (Except.ok (Instr.andn (fPm (gW 0x04F#9 pm md tb ta)) (fMd (gW 0x04F#9 pm md tb ta)) (fTb (gW 0x04F#9 pm md tb ta)) (fTa (gW 0x04F#9 pm md tb ta)))) = _
  simp
theorem Encoding.not (pm : BitVec 2) (md : BitVec 3) (tb : BitVec 9) (ta : BitVec 9) : Encoding.Statement (.not pm md tb ta) := by
  intro _ _ rest
  refine decode_one (by nofun) ?_
  rw [decodeWord_of (fOp_gW ..) (by decide)]
  show decodeG1 (gW 0x050#9 pm md tb ta) = _
  unfold decodeG1; rw [fOp_gW]
  show (Except.ok (Instr.not (fPm (gW 0x050#9 pm md tb ta)) (fMd (gW 0x050#9 pm md tb ta)) (fTb (gW 0x050#9 pm md tb ta)) (fTa (gW 0x050#9 pm md tb ta)))) = _
  simp
theorem Encoding.shl (pm : BitVec 2) (md : BitVec 3) (tb : BitVec 9) (ta : BitVec 9) : Encoding.Statement (.shl pm md tb ta) := by
  intro _ _ rest
  refine decode_one (by nofun) ?_
  rw [decodeWord_of (fOp_gW ..) (by decide)]
  show decodeG1 (gW 0x051#9 pm md tb ta) = _
  unfold decodeG1; rw [fOp_gW]
  show (Except.ok (Instr.shl (fPm (gW 0x051#9 pm md tb ta)) (fMd (gW 0x051#9 pm md tb ta)) (fTb (gW 0x051#9 pm md tb ta)) (fTa (gW 0x051#9 pm md tb ta)))) = _
  simp
theorem Encoding.shr (pm : BitVec 2) (md : BitVec 3) (tb : BitVec 9) (ta : BitVec 9) : Encoding.Statement (.shr pm md tb ta) := by
  intro _ _ rest
  refine decode_one (by nofun) ?_
  rw [decodeWord_of (fOp_gW ..) (by decide)]
  show decodeG1 (gW 0x052#9 pm md tb ta) = _
  unfold decodeG1; rw [fOp_gW]
  show (Except.ok (Instr.shr (fPm (gW 0x052#9 pm md tb ta)) (fMd (gW 0x052#9 pm md tb ta)) (fTb (gW 0x052#9 pm md tb ta)) (fTa (gW 0x052#9 pm md tb ta)))) = _
  simp
theorem Encoding.sar (pm : BitVec 2) (md : BitVec 3) (tb : BitVec 9) (ta : BitVec 9) : Encoding.Statement (.sar pm md tb ta) := by
  intro _ _ rest
  refine decode_one (by nofun) ?_
  rw [decodeWord_of (fOp_gW ..) (by decide)]
  show decodeG1 (gW 0x053#9 pm md tb ta) = _
  unfold decodeG1; rw [fOp_gW]
  show (Except.ok (Instr.sar (fPm (gW 0x053#9 pm md tb ta)) (fMd (gW 0x053#9 pm md tb ta)) (fTb (gW 0x053#9 pm md tb ta)) (fTa (gW 0x053#9 pm md tb ta)))) = _
  simp
theorem Encoding.rotl (pm : BitVec 2) (md : BitVec 3) (tb : BitVec 9) (ta : BitVec 9) : Encoding.Statement (.rotl pm md tb ta) := by
  intro _ _ rest
  refine decode_one (by nofun) ?_
  rw [decodeWord_of (fOp_gW ..) (by decide)]
  show decodeG1 (gW 0x054#9 pm md tb ta) = _
  unfold decodeG1; rw [fOp_gW]
  show (Except.ok (Instr.rotl (fPm (gW 0x054#9 pm md tb ta)) (fMd (gW 0x054#9 pm md tb ta)) (fTb (gW 0x054#9 pm md tb ta)) (fTa (gW 0x054#9 pm md tb ta)))) = _
  simp
theorem Encoding.shli (pm : BitVec 2) (w64 : BitVec 1) (cnt : BitVec 6) (t : BitVec 9) : Encoding.Statement (.shli pm w64 cnt t) := by
  intro _ _ rest
  refine decode_one (by nofun) ?_
  rw [decodeWord_of (fOp_iW ..) (by decide)]
  show decodeG1 (iW 0x055#9 pm (0#5 ++ w64 ++ cnt) t) = _
  unfold decodeG1; rw [fOp_iW]
  show (shZ (iW 0x055#9 pm (0#5 ++ w64 ++ cnt) t) (.shli (fPm (iW 0x055#9 pm (0#5 ++ w64 ++ cnt) t)) (fW64 (iW 0x055#9 pm (0#5 ++ w64 ++ cnt) t)) (fCnt (iW 0x055#9 pm (0#5 ++ w64 ++ cnt) t)) (fT (iW 0x055#9 pm (0#5 ++ w64 ++ cnt) t)))) = _
  simp [shZ, shZ_iW]
theorem Encoding.shri (pm : BitVec 2) (w64 : BitVec 1) (cnt : BitVec 6) (t : BitVec 9) : Encoding.Statement (.shri pm w64 cnt t) := by
  intro _ _ rest
  refine decode_one (by nofun) ?_
  rw [decodeWord_of (fOp_iW ..) (by decide)]
  show decodeG1 (iW 0x056#9 pm (0#5 ++ w64 ++ cnt) t) = _
  unfold decodeG1; rw [fOp_iW]
  show (shZ (iW 0x056#9 pm (0#5 ++ w64 ++ cnt) t) (.shri (fPm (iW 0x056#9 pm (0#5 ++ w64 ++ cnt) t)) (fW64 (iW 0x056#9 pm (0#5 ++ w64 ++ cnt) t)) (fCnt (iW 0x056#9 pm (0#5 ++ w64 ++ cnt) t)) (fT (iW 0x056#9 pm (0#5 ++ w64 ++ cnt) t)))) = _
  simp [shZ, shZ_iW]
theorem Encoding.sari (pm : BitVec 2) (w64 : BitVec 1) (cnt : BitVec 6) (t : BitVec 9) : Encoding.Statement (.sari pm w64 cnt t) := by
  intro _ _ rest
  refine decode_one (by nofun) ?_
  rw [decodeWord_of (fOp_iW ..) (by decide)]
  show decodeG1 (iW 0x057#9 pm (0#5 ++ w64 ++ cnt) t) = _
  unfold decodeG1; rw [fOp_iW]
  show (shZ (iW 0x057#9 pm (0#5 ++ w64 ++ cnt) t) (.sari (fPm (iW 0x057#9 pm (0#5 ++ w64 ++ cnt) t)) (fW64 (iW 0x057#9 pm (0#5 ++ w64 ++ cnt) t)) (fCnt (iW 0x057#9 pm (0#5 ++ w64 ++ cnt) t)) (fT (iW 0x057#9 pm (0#5 ++ w64 ++ cnt) t)))) = _
  simp [shZ, shZ_iW]
theorem Encoding.bfx (pm : BitVec 2) (md : BitVec 3) (tb : BitVec 9) (ta : BitVec 9) : Encoding.Statement (.bfx pm md tb ta) := by
  intro _ _ rest
  refine decode_one (by nofun) ?_
  rw [decodeWord_of (fOp_gW ..) (by decide)]
  show decodeG1 (gW 0x058#9 pm md tb ta) = _
  unfold decodeG1; rw [fOp_gW]
  show (Except.ok (Instr.bfx (fPm (gW 0x058#9 pm md tb ta)) (fMd (gW 0x058#9 pm md tb ta)) (fTb (gW 0x058#9 pm md tb ta)) (fTa (gW 0x058#9 pm md tb ta)))) = _
  simp
theorem Encoding.bfi (pm : BitVec 2) (md : BitVec 3) (tb : BitVec 9) (ta : BitVec 9) : Encoding.Statement (.bfi pm md tb ta) := by
  intro _ _ rest
  refine decode_one (by nofun) ?_
  rw [decodeWord_of (fOp_gW ..) (by decide)]
  show decodeG1 (gW 0x059#9 pm md tb ta) = _
  unfold decodeG1; rw [fOp_gW]
  show (Except.ok (Instr.bfi (fPm (gW 0x059#9 pm md tb ta)) (fMd (gW 0x059#9 pm md tb ta)) (fTb (gW 0x059#9 pm md tb ta)) (fTa (gW 0x059#9 pm md tb ta)))) = _
  simp
theorem Encoding.popc (pm : BitVec 2) (md : BitVec 3) (tb : BitVec 9) (ta : BitVec 9) : Encoding.Statement (.popc pm md tb ta) := by
  intro _ _ rest
  refine decode_one (by nofun) ?_
  rw [decodeWord_of (fOp_gW ..) (by decide)]
  show decodeG1 (gW 0x05A#9 pm md tb ta) = _
  unfold decodeG1; rw [fOp_gW]
  show (Except.ok (Instr.popc (fPm (gW 0x05A#9 pm md tb ta)) (fMd (gW 0x05A#9 pm md tb ta)) (fTb (gW 0x05A#9 pm md tb ta)) (fTa (gW 0x05A#9 pm md tb ta)))) = _
  simp
theorem Encoding.clz (pm : BitVec 2) (md : BitVec 3) (tb : BitVec 9) (ta : BitVec 9) : Encoding.Statement (.clz pm md tb ta) := by
  intro _ _ rest
  refine decode_one (by nofun) ?_
  rw [decodeWord_of (fOp_gW ..) (by decide)]
  show decodeG1 (gW 0x05B#9 pm md tb ta) = _
  unfold decodeG1; rw [fOp_gW]
  show (Except.ok (Instr.clz (fPm (gW 0x05B#9 pm md tb ta)) (fMd (gW 0x05B#9 pm md tb ta)) (fTb (gW 0x05B#9 pm md tb ta)) (fTa (gW 0x05B#9 pm md tb ta)))) = _
  simp
theorem Encoding.ctz (pm : BitVec 2) (md : BitVec 3) (tb : BitVec 9) (ta : BitVec 9) : Encoding.Statement (.ctz pm md tb ta) := by
  intro _ _ rest
  refine decode_one (by nofun) ?_
  rw [decodeWord_of (fOp_gW ..) (by decide)]
  show decodeG1 (gW 0x05C#9 pm md tb ta) = _
  unfold decodeG1; rw [fOp_gW]
  show (Except.ok (Instr.ctz (fPm (gW 0x05C#9 pm md tb ta)) (fMd (gW 0x05C#9 pm md tb ta)) (fTb (gW 0x05C#9 pm md tb ta)) (fTa (gW 0x05C#9 pm md tb ta)))) = _
  simp
theorem Encoding.brev (pm : BitVec 2) (md : BitVec 3) (tb : BitVec 9) (ta : BitVec 9) : Encoding.Statement (.brev pm md tb ta) := by
  intro _ _ rest
  refine decode_one (by nofun) ?_
  rw [decodeWord_of (fOp_gW ..) (by decide)]
  show decodeG1 (gW 0x05D#9 pm md tb ta) = _
  unfold decodeG1; rw [fOp_gW]
  show (Except.ok (Instr.brev (fPm (gW 0x05D#9 pm md tb ta)) (fMd (gW 0x05D#9 pm md tb ta)) (fTb (gW 0x05D#9 pm md tb ta)) (fTa (gW 0x05D#9 pm md tb ta)))) = _
  simp
theorem Encoding.sel (pm : BitVec 2) (tb : BitVec 9) (ta : BitVec 9) : Encoding.Statement (.sel pm tb ta) := by
  intro _ _ rest
  refine decode_one (by nofun) ?_
  rw [decodeWord_of (fOp_gW ..) (by decide)]
  show decodeG1 (gW 0x05E#9 pm 0 tb ta) = _
  unfold decodeG1; rw [fOp_gW]
  show (zMd (gW 0x05E#9 pm 0 tb ta) (.sel (fPm (gW 0x05E#9 pm 0 tb ta)) (fTb (gW 0x05E#9 pm 0 tb ta)) (fTa (gW 0x05E#9 pm 0 tb ta)))) = _
  simp [zMd]
theorem Encoding.cmpeq (pm : BitVec 2) (md : BitVec 3) (tb : BitVec 9) (ta : BitVec 9) : Encoding.Statement (.cmpeq pm md tb ta) := by
  intro _ _ rest
  refine decode_one (by nofun) ?_
  rw [decodeWord_of (fOp_gW ..) (by decide)]
  show decodeG1 (gW 0x060#9 pm md tb ta) = _
  unfold decodeG1; rw [fOp_gW]
  show (Except.ok (Instr.cmpeq (fPm (gW 0x060#9 pm md tb ta)) (fMd (gW 0x060#9 pm md tb ta)) (fTb (gW 0x060#9 pm md tb ta)) (fTa (gW 0x060#9 pm md tb ta)))) = _
  simp
theorem Encoding.cmpne (pm : BitVec 2) (md : BitVec 3) (tb : BitVec 9) (ta : BitVec 9) : Encoding.Statement (.cmpne pm md tb ta) := by
  intro _ _ rest
  refine decode_one (by nofun) ?_
  rw [decodeWord_of (fOp_gW ..) (by decide)]
  show decodeG1 (gW 0x061#9 pm md tb ta) = _
  unfold decodeG1; rw [fOp_gW]
  show (Except.ok (Instr.cmpne (fPm (gW 0x061#9 pm md tb ta)) (fMd (gW 0x061#9 pm md tb ta)) (fTb (gW 0x061#9 pm md tb ta)) (fTa (gW 0x061#9 pm md tb ta)))) = _
  simp
theorem Encoding.cmplt (pm : BitVec 2) (md : BitVec 3) (tb : BitVec 9) (ta : BitVec 9) : Encoding.Statement (.cmplt pm md tb ta) := by
  intro _ _ rest
  refine decode_one (by nofun) ?_
  rw [decodeWord_of (fOp_gW ..) (by decide)]
  show decodeG1 (gW 0x062#9 pm md tb ta) = _
  unfold decodeG1; rw [fOp_gW]
  show (Except.ok (Instr.cmplt (fPm (gW 0x062#9 pm md tb ta)) (fMd (gW 0x062#9 pm md tb ta)) (fTb (gW 0x062#9 pm md tb ta)) (fTa (gW 0x062#9 pm md tb ta)))) = _
  simp
theorem Encoding.cmple (pm : BitVec 2) (md : BitVec 3) (tb : BitVec 9) (ta : BitVec 9) : Encoding.Statement (.cmple pm md tb ta) := by
  intro _ _ rest
  refine decode_one (by nofun) ?_
  rw [decodeWord_of (fOp_gW ..) (by decide)]
  show decodeG1 (gW 0x063#9 pm md tb ta) = _
  unfold decodeG1; rw [fOp_gW]
  show (Except.ok (Instr.cmple (fPm (gW 0x063#9 pm md tb ta)) (fMd (gW 0x063#9 pm md tb ta)) (fTb (gW 0x063#9 pm md tb ta)) (fTa (gW 0x063#9 pm md tb ta)))) = _
  simp
theorem Encoding.cmpeqi (pm : BitVec 2) (imm : BitVec 12) (t : BitVec 9) : Encoding.Statement (.cmpeqi pm imm t) := by
  intro _ _ rest
  refine decode_one (by nofun) ?_
  rw [decodeWord_of (fOp_iW ..) (by decide)]
  show decodeG1 (iW 0x064#9 pm imm t) = _
  unfold decodeG1; rw [fOp_iW]
  show (Except.ok (Instr.cmpeqi (fPm (iW 0x064#9 pm imm t)) (fImm (iW 0x064#9 pm imm t)) (fT (iW 0x064#9 pm imm t)))) = _
  simp
theorem Encoding.cmplti (pm : BitVec 2) (imm : BitVec 12) (t : BitVec 9) : Encoding.Statement (.cmplti pm imm t) := by
  intro _ _ rest
  refine decode_one (by nofun) ?_
  rw [decodeWord_of (fOp_iW ..) (by decide)]
  show decodeG1 (iW 0x065#9 pm imm t) = _
  unfold decodeG1; rw [fOp_iW]
  show (Except.ok (Instr.cmplti (fPm (iW 0x065#9 pm imm t)) (fImm (iW 0x065#9 pm imm t)) (fT (iW 0x065#9 pm imm t)))) = _
  simp
theorem Encoding.lea (pm : BitVec 2) (md : BitVec 3) (tb : BitVec 9) (ta : BitVec 9) : Encoding.Statement (.lea pm md tb ta) := by
  intro _ _ rest
  refine decode_one (by nofun) ?_
  rw [decodeWord_of (fOp_gW ..) (by decide)]
  show decodeG1 (gW 0x066#9 pm md tb ta) = _
  unfold decodeG1; rw [fOp_gW]
  show (Except.ok (Instr.lea (fPm (gW 0x066#9 pm md tb ta)) (fMd (gW 0x066#9 pm md tb ta)) (fTb (gW 0x066#9 pm md tb ta)) (fTa (gW 0x066#9 pm md tb ta)))) = _
  simp
theorem Encoding.andi (pm : BitVec 2) (imm : BitVec 12) (t : BitVec 9) : Encoding.Statement (.andi pm imm t) := by
  intro _ _ rest
  refine decode_one (by nofun) ?_
  rw [decodeWord_of (fOp_iW ..) (by decide)]
  show decodeG1 (iW 0x068#9 pm imm t) = _
  unfold decodeG1; rw [fOp_iW]
  show (Except.ok (Instr.andi (fPm (iW 0x068#9 pm imm t)) (fImm (iW 0x068#9 pm imm t)) (fT (iW 0x068#9 pm imm t)))) = _
  simp
theorem Encoding.ori (pm : BitVec 2) (imm : BitVec 12) (t : BitVec 9) : Encoding.Statement (.ori pm imm t) := by
  intro _ _ rest
  refine decode_one (by nofun) ?_
  rw [decodeWord_of (fOp_iW ..) (by decide)]
  show decodeG1 (iW 0x069#9 pm imm t) = _
  unfold decodeG1; rw [fOp_iW]
  show (Except.ok (Instr.ori (fPm (iW 0x069#9 pm imm t)) (fImm (iW 0x069#9 pm imm t)) (fT (iW 0x069#9 pm imm t)))) = _
  simp
theorem Encoding.xori (pm : BitVec 2) (imm : BitVec 12) (t : BitVec 9) : Encoding.Statement (.xori pm imm t) := by
  intro _ _ rest
  refine decode_one (by nofun) ?_
  rw [decodeWord_of (fOp_iW ..) (by decide)]
  show decodeG1 (iW 0x06A#9 pm imm t) = _
  unfold decodeG1; rw [fOp_iW]
  show (Except.ok (Instr.xori (fPm (iW 0x06A#9 pm imm t)) (fImm (iW 0x06A#9 pm imm t)) (fT (iW 0x06A#9 pm imm t)))) = _
  simp
theorem Encoding.sext (pm : BitVec 2) (md : BitVec 3) (tb : BitVec 9) (ta : BitVec 9) : Encoding.Statement (.sext pm md tb ta) := by
  intro _ _ rest
  refine decode_one (by nofun) ?_
  rw [decodeWord_of (fOp_gW ..) (by decide)]
  show decodeG1 (gW 0x06B#9 pm md tb ta) = _
  unfold decodeG1; rw [fOp_gW]
  show (Except.ok (Instr.sext (fPm (gW 0x06B#9 pm md tb ta)) (fMd (gW 0x06B#9 pm md tb ta)) (fTb (gW 0x06B#9 pm md tb ta)) (fTa (gW 0x06B#9 pm md tb ta)))) = _
  simp
theorem Encoding.zext (pm : BitVec 2) (md : BitVec 3) (tb : BitVec 9) (ta : BitVec 9) : Encoding.Statement (.zext pm md tb ta) := by
  intro _ _ rest
  refine decode_one (by nofun) ?_
  rw [decodeWord_of (fOp_gW ..) (by decide)]
  show decodeG1 (gW 0x06C#9 pm md tb ta) = _
  unfold decodeG1; rw [fOp_gW]
  show (Except.ok (Instr.zext (fPm (gW 0x06C#9 pm md tb ta)) (fMd (gW 0x06C#9 pm md tb ta)) (fTb (gW 0x06C#9 pm md tb ta)) (fTa (gW 0x06C#9 pm md tb ta)))) = _
  simp
theorem Encoding.byteperm (pm : BitVec 2) (tb : BitVec 9) (ta : BitVec 9) : Encoding.Statement (.byteperm pm tb ta) := by
  intro _ _ rest
  refine decode_one (by nofun) ?_
  rw [decodeWord_of (fOp_gW ..) (by decide)]
  show decodeG1 (gW 0x06D#9 pm 0 tb ta) = _
  unfold decodeG1; rw [fOp_gW]
  show (zMd (gW 0x06D#9 pm 0 tb ta) (.byteperm (fPm (gW 0x06D#9 pm 0 tb ta)) (fTb (gW 0x06D#9 pm 0 tb ta)) (fTa (gW 0x06D#9 pm 0 tb ta)))) = _
  simp [zMd]
theorem Encoding.fadd (pm : BitVec 2) (md : BitVec 3) (tb : BitVec 9) (ta : BitVec 9) : Encoding.Statement (.fadd pm md tb ta) := by
  intro _ _ rest
  refine decode_one (by nofun) ?_
  rw [decodeWord_of (fOp_gW ..) (by decide)]
  show decodeG2 (gW 0x080#9 pm md tb ta) = _
  unfold decodeG2; rw [fOp_gW]
  show (Except.ok (Instr.fadd (fPm (gW 0x080#9 pm md tb ta)) (fMd (gW 0x080#9 pm md tb ta)) (fTb (gW 0x080#9 pm md tb ta)) (fTa (gW 0x080#9 pm md tb ta)))) = _
  simp
theorem Encoding.fsub (pm : BitVec 2) (md : BitVec 3) (tb : BitVec 9) (ta : BitVec 9) : Encoding.Statement (.fsub pm md tb ta) := by
  intro _ _ rest
  refine decode_one (by nofun) ?_
  rw [decodeWord_of (fOp_gW ..) (by decide)]
  show decodeG2 (gW 0x081#9 pm md tb ta) = _
  unfold decodeG2; rw [fOp_gW]
  show (Except.ok (Instr.fsub (fPm (gW 0x081#9 pm md tb ta)) (fMd (gW 0x081#9 pm md tb ta)) (fTb (gW 0x081#9 pm md tb ta)) (fTa (gW 0x081#9 pm md tb ta)))) = _
  simp
theorem Encoding.fmul (pm : BitVec 2) (md : BitVec 3) (tb : BitVec 9) (ta : BitVec 9) : Encoding.Statement (.fmul pm md tb ta) := by
  intro _ _ rest
  refine decode_one (by nofun) ?_
  rw [decodeWord_of (fOp_gW ..) (by decide)]
  show decodeG2 (gW 0x082#9 pm md tb ta) = _
  unfold decodeG2; rw [fOp_gW]
  show (Except.ok (Instr.fmul (fPm (gW 0x082#9 pm md tb ta)) (fMd (gW 0x082#9 pm md tb ta)) (fTb (gW 0x082#9 pm md tb ta)) (fTa (gW 0x082#9 pm md tb ta)))) = _
  simp
theorem Encoding.ffma (pm : BitVec 2) (md : BitVec 3) (tb : BitVec 9) (ta : BitVec 9) : Encoding.Statement (.ffma pm md tb ta) := by
  intro _ _ rest
  refine decode_one (by nofun) ?_
  rw [decodeWord_of (fOp_gW ..) (by decide)]
  show decodeG2 (gW 0x083#9 pm md tb ta) = _
  unfold decodeG2; rw [fOp_gW]
  show (Except.ok (Instr.ffma (fPm (gW 0x083#9 pm md tb ta)) (fMd (gW 0x083#9 pm md tb ta)) (fTb (gW 0x083#9 pm md tb ta)) (fTa (gW 0x083#9 pm md tb ta)))) = _
  simp
theorem Encoding.fdiv (pm : BitVec 2) (md : BitVec 3) (tb : BitVec 9) (ta : BitVec 9) : Encoding.Statement (.fdiv pm md tb ta) := by
  intro _ _ rest
  refine decode_one (by nofun) ?_
  rw [decodeWord_of (fOp_gW ..) (by decide)]
  show decodeG2 (gW 0x084#9 pm md tb ta) = _
  unfold decodeG2; rw [fOp_gW]
  show (Except.ok (Instr.fdiv (fPm (gW 0x084#9 pm md tb ta)) (fMd (gW 0x084#9 pm md tb ta)) (fTb (gW 0x084#9 pm md tb ta)) (fTa (gW 0x084#9 pm md tb ta)))) = _
  simp
theorem Encoding.fsqrt (pm : BitVec 2) (md : BitVec 3) (tb : BitVec 9) (ta : BitVec 9) : Encoding.Statement (.fsqrt pm md tb ta) := by
  intro _ _ rest
  refine decode_one (by nofun) ?_
  rw [decodeWord_of (fOp_gW ..) (by decide)]
  show decodeG2 (gW 0x085#9 pm md tb ta) = _
  unfold decodeG2; rw [fOp_gW]
  show (Except.ok (Instr.fsqrt (fPm (gW 0x085#9 pm md tb ta)) (fMd (gW 0x085#9 pm md tb ta)) (fTb (gW 0x085#9 pm md tb ta)) (fTa (gW 0x085#9 pm md tb ta)))) = _
  simp
theorem Encoding.fmin (pm : BitVec 2) (md : BitVec 3) (tb : BitVec 9) (ta : BitVec 9) : Encoding.Statement (.fmin pm md tb ta) := by
  intro _ _ rest
  refine decode_one (by nofun) ?_
  rw [decodeWord_of (fOp_gW ..) (by decide)]
  show decodeG2 (gW 0x086#9 pm md tb ta) = _
  unfold decodeG2; rw [fOp_gW]
  show (Except.ok (Instr.fmin (fPm (gW 0x086#9 pm md tb ta)) (fMd (gW 0x086#9 pm md tb ta)) (fTb (gW 0x086#9 pm md tb ta)) (fTa (gW 0x086#9 pm md tb ta)))) = _
  simp
theorem Encoding.fmax (pm : BitVec 2) (md : BitVec 3) (tb : BitVec 9) (ta : BitVec 9) : Encoding.Statement (.fmax pm md tb ta) := by
  intro _ _ rest
  refine decode_one (by nofun) ?_
  rw [decodeWord_of (fOp_gW ..) (by decide)]
  show decodeG2 (gW 0x087#9 pm md tb ta) = _
  unfold decodeG2; rw [fOp_gW]
  show (Except.ok (Instr.fmax (fPm (gW 0x087#9 pm md tb ta)) (fMd (gW 0x087#9 pm md tb ta)) (fTb (gW 0x087#9 pm md tb ta)) (fTa (gW 0x087#9 pm md tb ta)))) = _
  simp
theorem Encoding.fabs (pm : BitVec 2) (tb : BitVec 9) (ta : BitVec 9) : Encoding.Statement (.fabs pm tb ta) := by
  intro _ _ rest
  refine decode_one (by nofun) ?_
  rw [decodeWord_of (fOp_gW ..) (by decide)]
  show decodeG2 (gW 0x088#9 pm 0 tb ta) = _
  unfold decodeG2; rw [fOp_gW]
  show (zMd (gW 0x088#9 pm 0 tb ta) (.fabs (fPm (gW 0x088#9 pm 0 tb ta)) (fTb (gW 0x088#9 pm 0 tb ta)) (fTa (gW 0x088#9 pm 0 tb ta)))) = _
  simp [zMd]
theorem Encoding.fneg (pm : BitVec 2) (tb : BitVec 9) (ta : BitVec 9) : Encoding.Statement (.fneg pm tb ta) := by
  intro _ _ rest
  refine decode_one (by nofun) ?_
  rw [decodeWord_of (fOp_gW ..) (by decide)]
  show decodeG2 (gW 0x089#9 pm 0 tb ta) = _
  unfold decodeG2; rw [fOp_gW]
  show (zMd (gW 0x089#9 pm 0 tb ta) (.fneg (fPm (gW 0x089#9 pm 0 tb ta)) (fTb (gW 0x089#9 pm 0 tb ta)) (fTa (gW 0x089#9 pm 0 tb ta)))) = _
  simp [zMd]
theorem Encoding.fcmp (pm : BitVec 2) (md : BitVec 3) (tb : BitVec 9) (ta : BitVec 9) : Encoding.Statement (.fcmp pm md tb ta) := by
  intro _ _ rest
  refine decode_one (by nofun) ?_
  rw [decodeWord_of (fOp_gW ..) (by decide)]
  show decodeG2 (gW 0x08A#9 pm md tb ta) = _
  unfold decodeG2; rw [fOp_gW]
  show (Except.ok (Instr.fcmp (fPm (gW 0x08A#9 pm md tb ta)) (fMd (gW 0x08A#9 pm md tb ta)) (fTb (gW 0x08A#9 pm md tb ta)) (fTa (gW 0x08A#9 pm md tb ta)))) = _
  simp
theorem Encoding.fclass (pm : BitVec 2) (tb : BitVec 9) (ta : BitVec 9) : Encoding.Statement (.fclass pm tb ta) := by
  intro _ _ rest
  refine decode_one (by nofun) ?_
  rw [decodeWord_of (fOp_gW ..) (by decide)]
  show decodeG2 (gW 0x08B#9 pm 0 tb ta) = _
  unfold decodeG2; rw [fOp_gW]
  show (zMd (gW 0x08B#9 pm 0 tb ta) (.fclass (fPm (gW 0x08B#9 pm 0 tb ta)) (fTb (gW 0x08B#9 pm 0 tb ta)) (fTa (gW 0x08B#9 pm 0 tb ta)))) = _
  simp [zMd]
theorem Encoding.frnd (pm : BitVec 2) (md : BitVec 3) (tb : BitVec 9) (ta : BitVec 9) : Encoding.Statement (.frnd pm md tb ta) := by
  intro _ _ rest
  refine decode_one (by nofun) ?_
  rw [decodeWord_of (fOp_gW ..) (by decide)]
  show decodeG2 (gW 0x08C#9 pm md tb ta) = _
  unfold decodeG2; rw [fOp_gW]
  show (Except.ok (Instr.frnd (fPm (gW 0x08C#9 pm md tb ta)) (fMd (gW 0x08C#9 pm md tb ta)) (fTb (gW 0x08C#9 pm md tb ta)) (fTa (gW 0x08C#9 pm md tb ta)))) = _
  simp
theorem Encoding.fscale (pm : BitVec 2) (md : BitVec 3) (tb : BitVec 9) (ta : BitVec 9) : Encoding.Statement (.fscale pm md tb ta) := by
  intro _ _ rest
  refine decode_one (by nofun) ?_
  rw [decodeWord_of (fOp_gW ..) (by decide)]
  show decodeG2 (gW 0x08D#9 pm md tb ta) = _
  unfold decodeG2; rw [fOp_gW]
  show (Except.ok (Instr.fscale (fPm (gW 0x08D#9 pm md tb ta)) (fMd (gW 0x08D#9 pm md tb ta)) (fTb (gW 0x08D#9 pm md tb ta)) (fTa (gW 0x08D#9 pm md tb ta)))) = _
  simp
theorem Encoding.dadd (pm : BitVec 2) (md : BitVec 3) (tb : BitVec 9) (ta : BitVec 9) : Encoding.Statement (.dadd pm md tb ta) := by
  intro _ _ rest
  refine decode_one (by nofun) ?_
  rw [decodeWord_of (fOp_gW ..) (by decide)]
  show decodeG2 (gW 0x090#9 pm md tb ta) = _
  unfold decodeG2; rw [fOp_gW]
  show (Except.ok (Instr.dadd (fPm (gW 0x090#9 pm md tb ta)) (fMd (gW 0x090#9 pm md tb ta)) (fTb (gW 0x090#9 pm md tb ta)) (fTa (gW 0x090#9 pm md tb ta)))) = _
  simp
theorem Encoding.dsub (pm : BitVec 2) (md : BitVec 3) (tb : BitVec 9) (ta : BitVec 9) : Encoding.Statement (.dsub pm md tb ta) := by
  intro _ _ rest
  refine decode_one (by nofun) ?_
  rw [decodeWord_of (fOp_gW ..) (by decide)]
  show decodeG2 (gW 0x091#9 pm md tb ta) = _
  unfold decodeG2; rw [fOp_gW]
  show (Except.ok (Instr.dsub (fPm (gW 0x091#9 pm md tb ta)) (fMd (gW 0x091#9 pm md tb ta)) (fTb (gW 0x091#9 pm md tb ta)) (fTa (gW 0x091#9 pm md tb ta)))) = _
  simp
theorem Encoding.dmul (pm : BitVec 2) (md : BitVec 3) (tb : BitVec 9) (ta : BitVec 9) : Encoding.Statement (.dmul pm md tb ta) := by
  intro _ _ rest
  refine decode_one (by nofun) ?_
  rw [decodeWord_of (fOp_gW ..) (by decide)]
  show decodeG2 (gW 0x092#9 pm md tb ta) = _
  unfold decodeG2; rw [fOp_gW]
  show (Except.ok (Instr.dmul (fPm (gW 0x092#9 pm md tb ta)) (fMd (gW 0x092#9 pm md tb ta)) (fTb (gW 0x092#9 pm md tb ta)) (fTa (gW 0x092#9 pm md tb ta)))) = _
  simp
theorem Encoding.dfma (pm : BitVec 2) (md : BitVec 3) (tb : BitVec 9) (ta : BitVec 9) : Encoding.Statement (.dfma pm md tb ta) := by
  intro _ _ rest
  refine decode_one (by nofun) ?_
  rw [decodeWord_of (fOp_gW ..) (by decide)]
  show decodeG2 (gW 0x093#9 pm md tb ta) = _
  unfold decodeG2; rw [fOp_gW]
  show (Except.ok (Instr.dfma (fPm (gW 0x093#9 pm md tb ta)) (fMd (gW 0x093#9 pm md tb ta)) (fTb (gW 0x093#9 pm md tb ta)) (fTa (gW 0x093#9 pm md tb ta)))) = _
  simp
theorem Encoding.ddiv (pm : BitVec 2) (md : BitVec 3) (tb : BitVec 9) (ta : BitVec 9) : Encoding.Statement (.ddiv pm md tb ta) := by
  intro _ _ rest
  refine decode_one (by nofun) ?_
  rw [decodeWord_of (fOp_gW ..) (by decide)]
  show decodeG2 (gW 0x094#9 pm md tb ta) = _
  unfold decodeG2; rw [fOp_gW]
  show (Except.ok (Instr.ddiv (fPm (gW 0x094#9 pm md tb ta)) (fMd (gW 0x094#9 pm md tb ta)) (fTb (gW 0x094#9 pm md tb ta)) (fTa (gW 0x094#9 pm md tb ta)))) = _
  simp
theorem Encoding.dsqrt (pm : BitVec 2) (md : BitVec 3) (tb : BitVec 9) (ta : BitVec 9) : Encoding.Statement (.dsqrt pm md tb ta) := by
  intro _ _ rest
  refine decode_one (by nofun) ?_
  rw [decodeWord_of (fOp_gW ..) (by decide)]
  show decodeG2 (gW 0x095#9 pm md tb ta) = _
  unfold decodeG2; rw [fOp_gW]
  show (Except.ok (Instr.dsqrt (fPm (gW 0x095#9 pm md tb ta)) (fMd (gW 0x095#9 pm md tb ta)) (fTb (gW 0x095#9 pm md tb ta)) (fTa (gW 0x095#9 pm md tb ta)))) = _
  simp
theorem Encoding.dcmp (pm : BitVec 2) (md : BitVec 3) (tb : BitVec 9) (ta : BitVec 9) : Encoding.Statement (.dcmp pm md tb ta) := by
  intro _ _ rest
  refine decode_one (by nofun) ?_
  rw [decodeWord_of (fOp_gW ..) (by decide)]
  show decodeG2 (gW 0x096#9 pm md tb ta) = _
  unfold decodeG2; rw [fOp_gW]
  show (Except.ok (Instr.dcmp (fPm (gW 0x096#9 pm md tb ta)) (fMd (gW 0x096#9 pm md tb ta)) (fTb (gW 0x096#9 pm md tb ta)) (fTa (gW 0x096#9 pm md tb ta)))) = _
  simp
theorem Encoding.dminmax (pm : BitVec 2) (md : BitVec 3) (tb : BitVec 9) (ta : BitVec 9) : Encoding.Statement (.dminmax pm md tb ta) := by
  intro _ _ rest
  refine decode_one (by nofun) ?_
  rw [decodeWord_of (fOp_gW ..) (by decide)]
  show decodeG2 (gW 0x097#9 pm md tb ta) = _
  unfold decodeG2; rw [fOp_gW]
  show (Except.ok (Instr.dminmax (fPm (gW 0x097#9 pm md tb ta)) (fMd (gW 0x097#9 pm md tb ta)) (fTb (gW 0x097#9 pm md tb ta)) (fTa (gW 0x097#9 pm md tb ta)))) = _
  simp
theorem Encoding.faddX2 (pm : BitVec 2) (md : BitVec 3) (tb : BitVec 9) (ta : BitVec 9) : Encoding.Statement (.faddX2 pm md tb ta) := by
  intro _ _ rest
  refine decode_one (by nofun) ?_
  rw [decodeWord_of (fOp_gW ..) (by decide)]
  show decodeG2 (gW 0x0A0#9 pm md tb ta) = _
  unfold decodeG2; rw [fOp_gW]
  show (Except.ok (Instr.faddX2 (fPm (gW 0x0A0#9 pm md tb ta)) (fMd (gW 0x0A0#9 pm md tb ta)) (fTb (gW 0x0A0#9 pm md tb ta)) (fTa (gW 0x0A0#9 pm md tb ta)))) = _
  simp
theorem Encoding.fsubX2 (pm : BitVec 2) (md : BitVec 3) (tb : BitVec 9) (ta : BitVec 9) : Encoding.Statement (.fsubX2 pm md tb ta) := by
  intro _ _ rest
  refine decode_one (by nofun) ?_
  rw [decodeWord_of (fOp_gW ..) (by decide)]
  show decodeG2 (gW 0x0A1#9 pm md tb ta) = _
  unfold decodeG2; rw [fOp_gW]
  show (Except.ok (Instr.fsubX2 (fPm (gW 0x0A1#9 pm md tb ta)) (fMd (gW 0x0A1#9 pm md tb ta)) (fTb (gW 0x0A1#9 pm md tb ta)) (fTa (gW 0x0A1#9 pm md tb ta)))) = _
  simp
theorem Encoding.fmulX2 (pm : BitVec 2) (md : BitVec 3) (tb : BitVec 9) (ta : BitVec 9) : Encoding.Statement (.fmulX2 pm md tb ta) := by
  intro _ _ rest
  refine decode_one (by nofun) ?_
  rw [decodeWord_of (fOp_gW ..) (by decide)]
  show decodeG2 (gW 0x0A2#9 pm md tb ta) = _
  unfold decodeG2; rw [fOp_gW]
  show (Except.ok (Instr.fmulX2 (fPm (gW 0x0A2#9 pm md tb ta)) (fMd (gW 0x0A2#9 pm md tb ta)) (fTb (gW 0x0A2#9 pm md tb ta)) (fTa (gW 0x0A2#9 pm md tb ta)))) = _
  simp
theorem Encoding.ffmaX2 (pm : BitVec 2) (md : BitVec 3) (tb : BitVec 9) (ta : BitVec 9) : Encoding.Statement (.ffmaX2 pm md tb ta) := by
  intro _ _ rest
  refine decode_one (by nofun) ?_
  rw [decodeWord_of (fOp_gW ..) (by decide)]
  show decodeG2 (gW 0x0A3#9 pm md tb ta) = _
  unfold decodeG2; rw [fOp_gW]
  show (Except.ok (Instr.ffmaX2 (fPm (gW 0x0A3#9 pm md tb ta)) (fMd (gW 0x0A3#9 pm md tb ta)) (fTb (gW 0x0A3#9 pm md tb ta)) (fTa (gW 0x0A3#9 pm md tb ta)))) = _
  simp
theorem Encoding.fdotX2 (pm : BitVec 2) (md : BitVec 3) (tb : BitVec 9) (ta : BitVec 9) : Encoding.Statement (.fdotX2 pm md tb ta) := by
  intro _ _ rest
  refine decode_one (by nofun) ?_
  rw [decodeWord_of (fOp_gW ..) (by decide)]
  show decodeG2 (gW 0x0A4#9 pm md tb ta) = _
  unfold decodeG2; rw [fOp_gW]
  show (Except.ok (Instr.fdotX2 (fPm (gW 0x0A4#9 pm md tb ta)) (fMd (gW 0x0A4#9 pm md tb ta)) (fTb (gW 0x0A4#9 pm md tb ta)) (fTa (gW 0x0A4#9 pm md tb ta)))) = _
  simp
theorem Encoding.haddX4 (pm : BitVec 2) (md : BitVec 3) (tb : BitVec 9) (ta : BitVec 9) : Encoding.Statement (.haddX4 pm md tb ta) := by
  intro _ _ rest
  refine decode_one (by nofun) ?_
  rw [decodeWord_of (fOp_gW ..) (by decide)]
  show decodeG2 (gW 0x0A8#9 pm md tb ta) = _
  unfold decodeG2; rw [fOp_gW]
  show (Except.ok (Instr.haddX4 (fPm (gW 0x0A8#9 pm md tb ta)) (fMd (gW 0x0A8#9 pm md tb ta)) (fTb (gW 0x0A8#9 pm md tb ta)) (fTa (gW 0x0A8#9 pm md tb ta)))) = _
  simp
theorem Encoding.hmulX4 (pm : BitVec 2) (md : BitVec 3) (tb : BitVec 9) (ta : BitVec 9) : Encoding.Statement (.hmulX4 pm md tb ta) := by
  intro _ _ rest
  refine decode_one (by nofun) ?_
  rw [decodeWord_of (fOp_gW ..) (by decide)]
  show decodeG2 (gW 0x0A9#9 pm md tb ta) = _
  unfold decodeG2; rw [fOp_gW]
  show (Except.ok (Instr.hmulX4 (fPm (gW 0x0A9#9 pm md tb ta)) (fMd (gW 0x0A9#9 pm md tb ta)) (fTb (gW 0x0A9#9 pm md tb ta)) (fTa (gW 0x0A9#9 pm md tb ta)))) = _
  simp
theorem Encoding.hfmaX4 (pm : BitVec 2) (md : BitVec 3) (tb : BitVec 9) (ta : BitVec 9) : Encoding.Statement (.hfmaX4 pm md tb ta) := by
  intro _ _ rest
  refine decode_one (by nofun) ?_
  rw [decodeWord_of (fOp_gW ..) (by decide)]
  show decodeG2 (gW 0x0AA#9 pm md tb ta) = _
  unfold decodeG2; rw [fOp_gW]
  show (Except.ok (Instr.hfmaX4 (fPm (gW 0x0AA#9 pm md tb ta)) (fMd (gW 0x0AA#9 pm md tb ta)) (fTb (gW 0x0AA#9 pm md tb ta)) (fTa (gW 0x0AA#9 pm md tb ta)))) = _
  simp
theorem Encoding.baddX4 (pm : BitVec 2) (md : BitVec 3) (tb : BitVec 9) (ta : BitVec 9) : Encoding.Statement (.baddX4 pm md tb ta) := by
  intro _ _ rest
  refine decode_one (by nofun) ?_
  rw [decodeWord_of (fOp_gW ..) (by decide)]
  show decodeG2 (gW 0x0AB#9 pm md tb ta) = _
  unfold decodeG2; rw [fOp_gW]
  show (Except.ok (Instr.baddX4 (fPm (gW 0x0AB#9 pm md tb ta)) (fMd (gW 0x0AB#9 pm md tb ta)) (fTb (gW 0x0AB#9 pm md tb ta)) (fTa (gW 0x0AB#9 pm md tb ta)))) = _
  simp
theorem Encoding.bmulX4 (pm : BitVec 2) (md : BitVec 3) (tb : BitVec 9) (ta : BitVec 9) : Encoding.Statement (.bmulX4 pm md tb ta) := by
  intro _ _ rest
  refine decode_one (by nofun) ?_
  rw [decodeWord_of (fOp_gW ..) (by decide)]
  show decodeG2 (gW 0x0AC#9 pm md tb ta) = _
  unfold decodeG2; rw [fOp_gW]
  show (Except.ok (Instr.bmulX4 (fPm (gW 0x0AC#9 pm md tb ta)) (fMd (gW 0x0AC#9 pm md tb ta)) (fTb (gW 0x0AC#9 pm md tb ta)) (fTa (gW 0x0AC#9 pm md tb ta)))) = _
  simp
theorem Encoding.bfmaX4 (pm : BitVec 2) (md : BitVec 3) (tb : BitVec 9) (ta : BitVec 9) : Encoding.Statement (.bfmaX4 pm md tb ta) := by
  intro _ _ rest
  refine decode_one (by nofun) ?_
  rw [decodeWord_of (fOp_gW ..) (by decide)]
  show decodeG2 (gW 0x0AD#9 pm md tb ta) = _
  unfold decodeG2; rw [fOp_gW]
  show (Except.ok (Instr.bfmaX4 (fPm (gW 0x0AD#9 pm md tb ta)) (fMd (gW 0x0AD#9 pm md tb ta)) (fTb (gW 0x0AD#9 pm md tb ta)) (fTa (gW 0x0AD#9 pm md tb ta)))) = _
  simp
theorem Encoding.cvtF2i (pm : BitVec 2) (md : BitVec 3) (tb : BitVec 9) (ta : BitVec 9) : Encoding.Statement (.cvtF2i pm md tb ta) := by
  intro _ _ rest
  refine decode_one (by nofun) ?_
  rw [decodeWord_of (fOp_gW ..) (by decide)]
  show decodeG2 (gW 0x0B0#9 pm md tb ta) = _
  unfold decodeG2; rw [fOp_gW]
  show (Except.ok (Instr.cvtF2i (fPm (gW 0x0B0#9 pm md tb ta)) (fMd (gW 0x0B0#9 pm md tb ta)) (fTb (gW 0x0B0#9 pm md tb ta)) (fTa (gW 0x0B0#9 pm md tb ta)))) = _
  simp
theorem Encoding.cvtI2f (pm : BitVec 2) (md : BitVec 3) (tb : BitVec 9) (ta : BitVec 9) : Encoding.Statement (.cvtI2f pm md tb ta) := by
  intro _ _ rest
  refine decode_one (by nofun) ?_
  rw [decodeWord_of (fOp_gW ..) (by decide)]
  show decodeG2 (gW 0x0B1#9 pm md tb ta) = _
  unfold decodeG2; rw [fOp_gW]
  show (Except.ok (Instr.cvtI2f (fPm (gW 0x0B1#9 pm md tb ta)) (fMd (gW 0x0B1#9 pm md tb ta)) (fTb (gW 0x0B1#9 pm md tb ta)) (fTa (gW 0x0B1#9 pm md tb ta)))) = _
  simp
theorem Encoding.cvtF2f (pm : BitVec 2) (md : BitVec 3) (tb : BitVec 9) (ta : BitVec 9) : Encoding.Statement (.cvtF2f pm md tb ta) := by
  intro _ _ rest
  refine decode_one (by nofun) ?_
  rw [decodeWord_of (fOp_gW ..) (by decide)]
  show decodeG2 (gW 0x0B2#9 pm md tb ta) = _
  unfold decodeG2; rw [fOp_gW]
  show (Except.ok (Instr.cvtF2f (fPm (gW 0x0B2#9 pm md tb ta)) (fMd (gW 0x0B2#9 pm md tb ta)) (fTb (gW 0x0B2#9 pm md tb ta)) (fTa (gW 0x0B2#9 pm md tb ta)))) = _
  simp
theorem Encoding.cvtI2i (pm : BitVec 2) (md : BitVec 3) (tb : BitVec 9) (ta : BitVec 9) : Encoding.Statement (.cvtI2i pm md tb ta) := by
  intro _ _ rest
  refine decode_one (by nofun) ?_
  rw [decodeWord_of (fOp_gW ..) (by decide)]
  show decodeG2 (gW 0x0B3#9 pm md tb ta) = _
  unfold decodeG2; rw [fOp_gW]
  show (Except.ok (Instr.cvtI2i (fPm (gW 0x0B3#9 pm md tb ta)) (fMd (gW 0x0B3#9 pm md tb ta)) (fTb (gW 0x0B3#9 pm md tb ta)) (fTa (gW 0x0B3#9 pm md tb ta)))) = _
  simp
theorem Encoding.cvtH2f (pm : BitVec 2) (md : BitVec 3) (tb : BitVec 9) (ta : BitVec 9) : Encoding.Statement (.cvtH2f pm md tb ta) := by
  intro _ _ rest
  refine decode_one (by nofun) ?_
  rw [decodeWord_of (fOp_gW ..) (by decide)]
  show decodeG2 (gW 0x0B4#9 pm md tb ta) = _
  unfold decodeG2; rw [fOp_gW]
  show (Except.ok (Instr.cvtH2f (fPm (gW 0x0B4#9 pm md tb ta)) (fMd (gW 0x0B4#9 pm md tb ta)) (fTb (gW 0x0B4#9 pm md tb ta)) (fTa (gW 0x0B4#9 pm md tb ta)))) = _
  simp
theorem Encoding.cvtF2d (pm : BitVec 2) (tb : BitVec 9) (ta : BitVec 9) : Encoding.Statement (.cvtF2d pm tb ta) := by
  intro _ _ rest
  refine decode_one (by nofun) ?_
  rw [decodeWord_of (fOp_gW ..) (by decide)]
  show decodeG2 (gW 0x0B5#9 pm 0 tb ta) = _
  unfold decodeG2; rw [fOp_gW]
  show (if fMd (gW 0x0B5#9 pm 0 tb ta) = 0 then Except.ok (Instr.cvtF2d (fPm (gW 0x0B5#9 pm 0 tb ta)) (fTb (gW 0x0B5#9 pm 0 tb ta)) (fTa (gW 0x0B5#9 pm 0 tb ta))) else if (fMd (gW 0x0B5#9 pm 0 tb ta)).getLsbD 2 then Except.ok (Instr.cvtD2f (fPm (gW 0x0B5#9 pm 0 tb ta)) (fMd2 (gW 0x0B5#9 pm 0 tb ta)) (fTb (gW 0x0B5#9 pm 0 tb ta)) (fTa (gW 0x0B5#9 pm 0 tb ta))) else Except.error Reject.reservedField) = _
  simp
theorem Encoding.cvtD2f (pm : BitVec 2) (md : BitVec 2) (tb : BitVec 9) (ta : BitVec 9) : Encoding.Statement (.cvtD2f pm md tb ta) := by
  intro _ _ rest
  refine decode_one (by nofun) ?_
  rw [decodeWord_of (fOp_gW ..) (by decide)]
  show decodeG2 (gW 0x0B5#9 pm (1#1 ++ md) tb ta) = _
  unfold decodeG2; rw [fOp_gW]
  show (if fMd (gW 0x0B5#9 pm (1#1 ++ md) tb ta) = 0 then Except.ok (Instr.cvtF2d (fPm (gW 0x0B5#9 pm (1#1 ++ md) tb ta)) (fTb (gW 0x0B5#9 pm (1#1 ++ md) tb ta)) (fTa (gW 0x0B5#9 pm (1#1 ++ md) tb ta))) else if (fMd (gW 0x0B5#9 pm (1#1 ++ md) tb ta)).getLsbD 2 then Except.ok (Instr.cvtD2f (fPm (gW 0x0B5#9 pm (1#1 ++ md) tb ta)) (fMd2 (gW 0x0B5#9 pm (1#1 ++ md) tb ta)) (fTb (gW 0x0B5#9 pm (1#1 ++ md) tb ta)) (fTa (gW 0x0B5#9 pm (1#1 ++ md) tb ta))) else Except.error Reject.reservedField) = _
  simp
  have h1 : (1#1 ++ md)[2] = true := by show (1#1 ++ md).getLsbD 2 = true; rw [BitVec.getLsbD_append]; rfl
  have h2 : (1#1 ++ md) ≠ 0#3 := fun e => by rw [e] at h1; exact absurd h1 (by decide)
  rw [if_neg h2, if_pos h1]
theorem Encoding.ncvtH (pm : BitVec 2) (md : BitVec 3) (tb : BitVec 9) (ta : BitVec 9) : Encoding.Statement (.ncvtH pm md tb ta) := by
  intro _ _ rest
  refine decode_one (by nofun) ?_
  rw [decodeWord_of (fOp_gW ..) (by decide)]
  show decodeG2 (gW 0x0B8#9 pm md tb ta) = _
  unfold decodeG2; rw [fOp_gW]
  show (Except.ok (Instr.ncvtH (fPm (gW 0x0B8#9 pm md tb ta)) (fMd (gW 0x0B8#9 pm md tb ta)) (fTb (gW 0x0B8#9 pm md tb ta)) (fTa (gW 0x0B8#9 pm md tb ta)))) = _
  simp
theorem Encoding.ncvtB (pm : BitVec 2) (md : BitVec 3) (tb : BitVec 9) (ta : BitVec 9) : Encoding.Statement (.ncvtB pm md tb ta) := by
  intro _ _ rest
  refine decode_one (by nofun) ?_
  rw [decodeWord_of (fOp_gW ..) (by decide)]
  show decodeG2 (gW 0x0B9#9 pm md tb ta) = _
  unfold decodeG2; rw [fOp_gW]
  show (Except.ok (Instr.ncvtB (fPm (gW 0x0B9#9 pm md tb ta)) (fMd (gW 0x0B9#9 pm md tb ta)) (fTb (gW 0x0B9#9 pm md tb ta)) (fTa (gW 0x0B9#9 pm md tb ta)))) = _
  simp
theorem Encoding.ncvtE4 (pm : BitVec 2) (md : BitVec 3) (tb : BitVec 9) (ta : BitVec 9) : Encoding.Statement (.ncvtE4 pm md tb ta) := by
  intro _ _ rest
  refine decode_one (by nofun) ?_
  rw [decodeWord_of (fOp_gW ..) (by decide)]
  show decodeG2 (gW 0x0BA#9 pm md tb ta) = _
  unfold decodeG2; rw [fOp_gW]
  show (Except.ok (Instr.ncvtE4 (fPm (gW 0x0BA#9 pm md tb ta)) (fMd (gW 0x0BA#9 pm md tb ta)) (fTb (gW 0x0BA#9 pm md tb ta)) (fTa (gW 0x0BA#9 pm md tb ta)))) = _
  simp
theorem Encoding.ncvtE5 (pm : BitVec 2) (md : BitVec 3) (tb : BitVec 9) (ta : BitVec 9) : Encoding.Statement (.ncvtE5 pm md tb ta) := by
  intro _ _ rest
  refine decode_one (by nofun) ?_
  rw [decodeWord_of (fOp_gW ..) (by decide)]
  show decodeG2 (gW 0x0BB#9 pm md tb ta) = _
  unfold decodeG2; rw [fOp_gW]
  show (Except.ok (Instr.ncvtE5 (fPm (gW 0x0BB#9 pm md tb ta)) (fMd (gW 0x0BB#9 pm md tb ta)) (fTb (gW 0x0BB#9 pm md tb ta)) (fTa (gW 0x0BB#9 pm md tb ta)))) = _
  simp
theorem Encoding.ncvtF4 (pm : BitVec 2) (md : BitVec 3) (tb : BitVec 9) (ta : BitVec 9) : Encoding.Statement (.ncvtF4 pm md tb ta) := by
  intro _ _ rest
  refine decode_one (by nofun) ?_
  rw [decodeWord_of (fOp_gW ..) (by decide)]
  show decodeG2 (gW 0x0BC#9 pm md tb ta) = _
  unfold decodeG2; rw [fOp_gW]
  show (Except.ok (Instr.ncvtF4 (fPm (gW 0x0BC#9 pm md tb ta)) (fMd (gW 0x0BC#9 pm md tb ta)) (fTb (gW 0x0BC#9 pm md tb ta)) (fTa (gW 0x0BC#9 pm md tb ta)))) = _
  simp
theorem Encoding.ncvtSc (pm : BitVec 2) (md : BitVec 3) (tb : BitVec 9) (ta : BitVec 9) : Encoding.Statement (.ncvtSc pm md tb ta) := by
  intro _ _ rest
  refine decode_one (by nofun) ?_
  rw [decodeWord_of (fOp_gW ..) (by decide)]
  show decodeG2 (gW 0x0BD#9 pm md tb ta) = _
  unfold decodeG2; rw [fOp_gW]
  show (Except.ok (Instr.ncvtSc (fPm (gW 0x0BD#9 pm md tb ta)) (fMd (gW 0x0BD#9 pm md tb ta)) (fTb (gW 0x0BD#9 pm md tb ta)) (fTa (gW 0x0BD#9 pm md tb ta)))) = _
  simp
theorem Encoding.ncvtI8 (pm : BitVec 2) (md : BitVec 3) (tb : BitVec 9) (ta : BitVec 9) : Encoding.Statement (.ncvtI8 pm md tb ta) := by
  intro _ _ rest
  refine decode_one (by nofun) ?_
  rw [decodeWord_of (fOp_gW ..) (by decide)]
  show decodeG2 (gW 0x0BE#9 pm md tb ta) = _
  unfold decodeG2; rw [fOp_gW]
  show (Except.ok (Instr.ncvtI8 (fPm (gW 0x0BE#9 pm md tb ta)) (fMd (gW 0x0BE#9 pm md tb ta)) (fTb (gW 0x0BE#9 pm md tb ta)) (fTa (gW 0x0BE#9 pm md tb ta)))) = _
  simp
theorem Encoding.ncvtI4 (pm : BitVec 2) (md : BitVec 3) (tb : BitVec 9) (ta : BitVec 9) : Encoding.Statement (.ncvtI4 pm md tb ta) := by
  intro _ _ rest
  refine decode_one (by nofun) ?_
  rw [decodeWord_of (fOp_gW ..) (by decide)]
  show decodeG2 (gW 0x0BF#9 pm md tb ta) = _
  unfold decodeG2; rw [fOp_gW]
  show (Except.ok (Instr.ncvtI4 (fPm (gW 0x0BF#9 pm md tb ta)) (fMd (gW 0x0BF#9 pm md tb ta)) (fTb (gW 0x0BF#9 pm md tb ta)) (fTa (gW 0x0BF#9 pm md tb ta)))) = _
  simp
theorem Encoding.rcp (pm : BitVec 2) (md : BitVec 3) (tb : BitVec 9) (ta : BitVec 9) : Encoding.Statement (.rcp pm md tb ta) := by
  intro _ _ rest
  refine decode_one (by nofun) ?_
  rw [decodeWord_of (fOp_gW ..) (by decide)]
  show decodeG3 (gW 0x0C0#9 pm md tb ta) = _
  unfold decodeG3; rw [fOp_gW]
  show (Except.ok (Instr.rcp (fPm (gW 0x0C0#9 pm md tb ta)) (fMd (gW 0x0C0#9 pm md tb ta)) (fTb (gW 0x0C0#9 pm md tb ta)) (fTa (gW 0x0C0#9 pm md tb ta)))) = _
  simp
theorem Encoding.rsq (pm : BitVec 2) (md : BitVec 3) (tb : BitVec 9) (ta : BitVec 9) : Encoding.Statement (.rsq pm md tb ta) := by
  intro _ _ rest
  refine decode_one (by nofun) ?_
  rw [decodeWord_of (fOp_gW ..) (by decide)]
  show decodeG3 (gW 0x0C1#9 pm md tb ta) = _
  unfold decodeG3; rw [fOp_gW]
  show (Except.ok (Instr.rsq (fPm (gW 0x0C1#9 pm md tb ta)) (fMd (gW 0x0C1#9 pm md tb ta)) (fTb (gW 0x0C1#9 pm md tb ta)) (fTa (gW 0x0C1#9 pm md tb ta)))) = _
  simp
theorem Encoding.exp2 (pm : BitVec 2) (md : BitVec 3) (tb : BitVec 9) (ta : BitVec 9) : Encoding.Statement (.exp2 pm md tb ta) := by
  intro _ _ rest
  refine decode_one (by nofun) ?_
  rw [decodeWord_of (fOp_gW ..) (by decide)]
  show decodeG3 (gW 0x0C2#9 pm md tb ta) = _
  unfold decodeG3; rw [fOp_gW]
  show (Except.ok (Instr.exp2 (fPm (gW 0x0C2#9 pm md tb ta)) (fMd (gW 0x0C2#9 pm md tb ta)) (fTb (gW 0x0C2#9 pm md tb ta)) (fTa (gW 0x0C2#9 pm md tb ta)))) = _
  simp
theorem Encoding.log2 (pm : BitVec 2) (md : BitVec 3) (tb : BitVec 9) (ta : BitVec 9) : Encoding.Statement (.log2 pm md tb ta) := by
  intro _ _ rest
  refine decode_one (by nofun) ?_
  rw [decodeWord_of (fOp_gW ..) (by decide)]
  show decodeG3 (gW 0x0C3#9 pm md tb ta) = _
  unfold decodeG3; rw [fOp_gW]
  show (Except.ok (Instr.log2 (fPm (gW 0x0C3#9 pm md tb ta)) (fMd (gW 0x0C3#9 pm md tb ta)) (fTb (gW 0x0C3#9 pm md tb ta)) (fTa (gW 0x0C3#9 pm md tb ta)))) = _
  simp
theorem Encoding.sin (pm : BitVec 2) (md : BitVec 3) (tb : BitVec 9) (ta : BitVec 9) : Encoding.Statement (.sin pm md tb ta) := by
  intro _ _ rest
  refine decode_one (by nofun) ?_
  rw [decodeWord_of (fOp_gW ..) (by decide)]
  show decodeG3 (gW 0x0C4#9 pm md tb ta) = _
  unfold decodeG3; rw [fOp_gW]
  show (Except.ok (Instr.sin (fPm (gW 0x0C4#9 pm md tb ta)) (fMd (gW 0x0C4#9 pm md tb ta)) (fTb (gW 0x0C4#9 pm md tb ta)) (fTa (gW 0x0C4#9 pm md tb ta)))) = _
  simp
theorem Encoding.cos (pm : BitVec 2) (md : BitVec 3) (tb : BitVec 9) (ta : BitVec 9) : Encoding.Statement (.cos pm md tb ta) := by
  intro _ _ rest
  refine decode_one (by nofun) ?_
  rw [decodeWord_of (fOp_gW ..) (by decide)]
  show decodeG3 (gW 0x0C5#9 pm md tb ta) = _
  unfold decodeG3; rw [fOp_gW]
  show (Except.ok (Instr.cos (fPm (gW 0x0C5#9 pm md tb ta)) (fMd (gW 0x0C5#9 pm md tb ta)) (fTb (gW 0x0C5#9 pm md tb ta)) (fTa (gW 0x0C5#9 pm md tb ta)))) = _
  simp
theorem Encoding.tanh (pm : BitVec 2) (md : BitVec 3) (tb : BitVec 9) (ta : BitVec 9) : Encoding.Statement (.tanh pm md tb ta) := by
  intro _ _ rest
  refine decode_one (by nofun) ?_
  rw [decodeWord_of (fOp_gW ..) (by decide)]
  show decodeG3 (gW 0x0C6#9 pm md tb ta) = _
  unfold decodeG3; rw [fOp_gW]
  show (Except.ok (Instr.tanh (fPm (gW 0x0C6#9 pm md tb ta)) (fMd (gW 0x0C6#9 pm md tb ta)) (fTb (gW 0x0C6#9 pm md tb ta)) (fTa (gW 0x0C6#9 pm md tb ta)))) = _
  simp
theorem Encoding.pack (pm : BitVec 2) (md : BitVec 3) (tb : BitVec 9) (ta : BitVec 9) : Encoding.Statement (.pack pm md tb ta) := by
  intro _ _ rest
  refine decode_one (by nofun) ?_
  rw [decodeWord_of (fOp_gW ..) (by decide)]
  show decodeG3 (gW 0x0C8#9 pm md tb ta) = _
  unfold decodeG3; rw [fOp_gW]
  show (Except.ok (Instr.pack (fPm (gW 0x0C8#9 pm md tb ta)) (fMd (gW 0x0C8#9 pm md tb ta)) (fTb (gW 0x0C8#9 pm md tb ta)) (fTa (gW 0x0C8#9 pm md tb ta)))) = _
  simp
theorem Encoding.unpack (pm : BitVec 2) (md : BitVec 3) (tb : BitVec 9) (ta : BitVec 9) : Encoding.Statement (.unpack pm md tb ta) := by
  intro _ _ rest
  refine decode_one (by nofun) ?_
  rw [decodeWord_of (fOp_gW ..) (by decide)]
  show decodeG3 (gW 0x0C9#9 pm md tb ta) = _
  unfold decodeG3; rw [fOp_gW]
  show (Except.ok (Instr.unpack (fPm (gW 0x0C9#9 pm md tb ta)) (fMd (gW 0x0C9#9 pm md tb ta)) (fTb (gW 0x0C9#9 pm md tb ta)) (fTa (gW 0x0C9#9 pm md tb ta)))) = _
  simp
theorem Encoding.mres (pm : BitVec 2) (md : BitVec 3) (tb : BitVec 9) (ta : BitVec 9) : Encoding.Statement (.mres pm md tb ta) := by
  intro _ _ rest
  refine decode_one (by nofun) ?_
  rw [decodeWord_of (fOp_gW ..) (by decide)]
  show decodeG3 (gW 0x0D0#9 pm md tb ta) = _
  unfold decodeG3; rw [fOp_gW]
  show (Except.ok (Instr.mres (fPm (gW 0x0D0#9 pm md tb ta)) (fMd (gW 0x0D0#9 pm md tb ta)) (fTb (gW 0x0D0#9 pm md tb ta)) (fTa (gW 0x0D0#9 pm md tb ta)))) = _
  simp
theorem Encoding.mrel (pm : BitVec 2) : Encoding.Statement (.mrel pm) := by
  intro _ _ rest
  refine decode_one (by nofun) ?_
  rw [decodeWord_of (fOp_gW ..) (by decide)]
  show decodeG3 (gW 0x0D1#9 pm 0 0x1FF#9 0x1FF#9) = _
  unfold decodeG3; rw [fOp_gW]
  show (noTT (gW 0x0D1#9 pm 0 0x1FF#9 0x1FF#9) (zMd (gW 0x0D1#9 pm 0 0x1FF#9 0x1FF#9) (.mrel (fPm (gW 0x0D1#9 pm 0 0x1FF#9 0x1FF#9))))) = _
  simp [zMd, noTT]
theorem Encoding.mma (pm : BitVec 2) (md : BitVec 3) (tb : BitVec 9) (ta : BitVec 9) : Encoding.Statement (.mma pm md tb ta) := by
  intro _ _ rest
  refine decode_one (by nofun) ?_
  rw [decodeWord_of (fOp_gW ..) (by decide)]
  show decodeG3 (gW 0x0D2#9 pm md tb ta) = _
  unfold decodeG3; rw [fOp_gW]
  show (Except.ok (Instr.mma (fPm (gW 0x0D2#9 pm md tb ta)) (fMd (gW 0x0D2#9 pm md tb ta)) (fTb (gW 0x0D2#9 pm md tb ta)) (fTa (gW 0x0D2#9 pm md tb ta)))) = _
  simp
theorem Encoding.mman (pm : BitVec 2) (md : BitVec 3) (tb : BitVec 9) (ta : BitVec 9) : Encoding.Statement (.mman pm md tb ta) := by
  intro _ _ rest
  refine decode_one (by nofun) ?_
  rw [decodeWord_of (fOp_gW ..) (by decide)]
  show decodeG3 (gW 0x0D3#9 pm md tb ta) = _
  unfold decodeG3; rw [fOp_gW]
  show (Except.ok (Instr.mman (fPm (gW 0x0D3#9 pm md tb ta)) (fMd (gW 0x0D3#9 pm md tb ta)) (fTb (gW 0x0D3#9 pm md tb ta)) (fTa (gW 0x0D3#9 pm md tb ta)))) = _
  simp
theorem Encoding.mmanp (pm : BitVec 2) (md : BitVec 3) (tb : BitVec 9) (ta : BitVec 9) : Encoding.Statement (.mmanp pm md tb ta) := by
  intro _ _ rest
  refine decode_one (by nofun) ?_
  rw [decodeWord_of (fOp_gW ..) (by decide)]
  show decodeG3 (gW 0x0D4#9 pm md tb ta) = _
  unfold decodeG3; rw [fOp_gW]
  show (Except.ok (Instr.mmanp (fPm (gW 0x0D4#9 pm md tb ta)) (fMd (gW 0x0D4#9 pm md tb ta)) (fTb (gW 0x0D4#9 pm md tb ta)) (fTa (gW 0x0D4#9 pm md tb ta)))) = _
  simp
theorem Encoding.mzero (pm : BitVec 2) (tb : BitVec 9) (ta : BitVec 9) : Encoding.Statement (.mzero pm tb ta) := by
  intro _ _ rest
  refine decode_one (by nofun) ?_
  rw [decodeWord_of (fOp_gW ..) (by decide)]
  show decodeG3 (gW 0x0D5#9 pm 0 tb ta) = _
  unfold decodeG3; rw [fOp_gW]
  show (zMd (gW 0x0D5#9 pm 0 tb ta) (.mzero (fPm (gW 0x0D5#9 pm 0 tb ta)) (fTb (gW 0x0D5#9 pm 0 tb ta)) (fTa (gW 0x0D5#9 pm 0 tb ta)))) = _
  simp [zMd]
theorem Encoding.mcom (pm : BitVec 2) (tb : BitVec 9) (ta : BitVec 9) : Encoding.Statement (.mcom pm tb ta) := by
  intro _ _ rest
  refine decode_one (by nofun) ?_
  rw [decodeWord_of (fOp_gW ..) (by decide)]
  show decodeG3 (gW 0x0D6#9 pm 0 tb ta) = _
  unfold decodeG3; rw [fOp_gW]
  show (zMd (gW 0x0D6#9 pm 0 tb ta) (.mcom (fPm (gW 0x0D6#9 pm 0 tb ta)) (fTb (gW 0x0D6#9 pm 0 tb ta)) (fTa (gW 0x0D6#9 pm 0 tb ta)))) = _
  simp [zMd]
theorem Encoding.mwait (pm : BitVec 2) (tb : BitVec 9) (ta : BitVec 9) : Encoding.Statement (.mwait pm tb ta) := by
  intro _ _ rest
  refine decode_one (by nofun) ?_
  rw [decodeWord_of (fOp_gW ..) (by decide)]
  show decodeG3 (gW 0x0D7#9 pm 0 tb ta) = _
  unfold decodeG3; rw [fOp_gW]
  show (zMd (gW 0x0D7#9 pm 0 tb ta) (.mwait (fPm (gW 0x0D7#9 pm 0 tb ta)) (fTb (gW 0x0D7#9 pm 0 tb ta)) (fTa (gW 0x0D7#9 pm 0 tb ta)))) = _
  simp [zMd]
theorem Encoding.mprog (pm : BitVec 2) (tb : BitVec 9) (ta : BitVec 9) : Encoding.Statement (.mprog pm tb ta) := by
  intro _ _ rest
  refine decode_one (by nofun) ?_
  rw [decodeWord_of (fOp_gW ..) (by decide)]
  show decodeG3 (gW 0x0D8#9 pm 0 tb ta) = _
  unfold decodeG3; rw [fOp_gW]
  show (zMd (gW 0x0D8#9 pm 0 tb ta) (.mprog (fPm (gW 0x0D8#9 pm 0 tb ta)) (fTb (gW 0x0D8#9 pm 0 tb ta)) (fTa (gW 0x0D8#9 pm 0 tb ta)))) = _
  simp [zMd]
theorem Encoding.mstat (pm : BitVec 2) (tb : BitVec 9) (ta : BitVec 9) : Encoding.Statement (.mstat pm tb ta) := by
  intro _ _ rest
  refine decode_one (by nofun) ?_
  rw [decodeWord_of (fOp_gW ..) (by decide)]
  show decodeG3 (gW 0x0D9#9 pm 0 tb ta) = _
  unfold decodeG3; rw [fOp_gW]
  show (zMd (gW 0x0D9#9 pm 0 tb ta) (.mstat (fPm (gW 0x0D9#9 pm 0 tb ta)) (fTb (gW 0x0D9#9 pm 0 tb ta)) (fTa (gW 0x0D9#9 pm 0 tb ta)))) = _
  simp [zMd]
theorem Encoding.recdef (pm : BitVec 2) (md : BitVec 3) (tb : BitVec 9) (ta : BitVec 9) : Encoding.Statement (.recdef pm md tb ta) := by
  intro _ _ rest
  refine decode_one (by nofun) ?_
  rw [decodeWord_of (fOp_gW ..) (by decide)]
  show decodeG3 (gW 0x0E0#9 pm md tb ta) = _
  unfold decodeG3; rw [fOp_gW]
  show (Except.ok (Instr.recdef (fPm (gW 0x0E0#9 pm md tb ta)) (fMd (gW 0x0E0#9 pm md tb ta)) (fTb (gW 0x0E0#9 pm md tb ta)) (fTa (gW 0x0E0#9 pm md tb ta)))) = _
  simp
theorem Encoding.recpin (pm : BitVec 2) (tb : BitVec 9) (ta : BitVec 9) : Encoding.Statement (.recpin pm tb ta) := by
  intro _ _ rest
  refine decode_one (by nofun) ?_
  rw [decodeWord_of (fOp_gW ..) (by decide)]
  show decodeG3 (gW 0x0E1#9 pm 0 tb ta) = _
  unfold decodeG3; rw [fOp_gW]
  show (zMd (gW 0x0E1#9 pm 0 tb ta) (.recpin (fPm (gW 0x0E1#9 pm 0 tb ta)) (fTb (gW 0x0E1#9 pm 0 tb ta)) (fTa (gW 0x0E1#9 pm 0 tb ta)))) = _
  simp [zMd]
theorem Encoding.recunpin (pm : BitVec 2) (tb : BitVec 9) (ta : BitVec 9) : Encoding.Statement (.recunpin pm tb ta) := by
  intro _ _ rest
  refine decode_one (by nofun) ?_
  rw [decodeWord_of (fOp_gW ..) (by decide)]
  show decodeG3 (gW 0x0E2#9 pm 0 tb ta) = _
  unfold decodeG3; rw [fOp_gW]
  show (zMd (gW 0x0E2#9 pm 0 tb ta) (.recunpin (fPm (gW 0x0E2#9 pm 0 tb ta)) (fTb (gW 0x0E2#9 pm 0 tb ta)) (fTa (gW 0x0E2#9 pm 0 tb ta)))) = _
  simp [zMd]
theorem Encoding.recdrop (pm : BitVec 2) (tb : BitVec 9) (ta : BitVec 9) : Encoding.Statement (.recdrop pm tb ta) := by
  intro _ _ rest
  refine decode_one (by nofun) ?_
  rw [decodeWord_of (fOp_gW ..) (by decide)]
  show decodeG3 (gW 0x0E3#9 pm 0 tb ta) = _
  unfold decodeG3; rw [fOp_gW]
  show (zMd (gW 0x0E3#9 pm 0 tb ta) (.recdrop (fPm (gW 0x0E3#9 pm 0 tb ta)) (fTb (gW 0x0E3#9 pm 0 tb ta)) (fTa (gW 0x0E3#9 pm 0 tb ta)))) = _
  simp [zMd]
theorem Encoding.recdone (pm : BitVec 2) : Encoding.Statement (.recdone pm) := by
  intro _ _ rest
  refine decode_one (by nofun) ?_
  rw [decodeWord_of (fOp_gW ..) (by decide)]
  show decodeG3 (gW 0x0E4#9 pm 0 0x1FF#9 0x1FF#9) = _
  unfold decodeG3; rw [fOp_gW]
  show (noTT (gW 0x0E4#9 pm 0 0x1FF#9 0x1FF#9) (zMd (gW 0x0E4#9 pm 0 0x1FF#9 0x1FF#9) (.recdone (fPm (gW 0x0E4#9 pm 0 0x1FF#9 0x1FF#9))))) = _
  simp [zMd, noTT]
theorem Encoding.recmat (pm : BitVec 2) (tb : BitVec 9) (ta : BitVec 9) : Encoding.Statement (.recmat pm tb ta) := by
  intro _ _ rest
  refine decode_one (by nofun) ?_
  rw [decodeWord_of (fOp_gW ..) (by decide)]
  show decodeG3 (gW 0x0E5#9 pm 0 tb ta) = _
  unfold decodeG3; rw [fOp_gW]
  show (zMd (gW 0x0E5#9 pm 0 tb ta) (.recmat (fPm (gW 0x0E5#9 pm 0 tb ta)) (fTb (gW 0x0E5#9 pm 0 tb ta)) (fTa (gW 0x0E5#9 pm 0 tb ta)))) = _
  simp [zMd]
theorem Encoding.bri (pm : BitVec 2) (off : BitVec 21) : Encoding.Statement (.bri pm off) := by
  intro _ _ rest
  refine decode_one (by nofun) ?_
  rw [decodeWord_of (fOp_bW ..) (by decide)]
  show decodeG4 (bW 0x100#9 pm off) = _
  unfold decodeG4; rw [fOp_bW]
  show (Except.ok (Instr.bri (fPm (bW 0x100#9 pm off)) (fOff21 (bW 0x100#9 pm off)))) = _
  simp
theorem Encoding.br (pm : BitVec 2) : Encoding.Statement (.br pm) := by
  intro _ _ rest
  refine decode_one (by nofun) ?_
  rw [decodeWord_of (fOp_gW ..) (by decide)]
  show decodeG4 (gW 0x101#9 pm 0 0x1FF#9 0x1FF#9) = _
  unfold decodeG4; rw [fOp_gW]
  show (noTT (gW 0x101#9 pm 0 0x1FF#9 0x1FF#9) (zMd (gW 0x101#9 pm 0 0x1FF#9 0x1FF#9) (.br (fPm (gW 0x101#9 pm 0 0x1FF#9 0x1FF#9))))) = _
  simp [zMd, noTT]
theorem Encoding.calli (pm : BitVec 2) (imm : BitVec 12) (t : BitVec 9) : Encoding.Statement (.calli pm imm t) := by
  intro _ _ rest
  refine decode_one (by nofun) ?_
  rw [decodeWord_of (fOp_iW ..) (by decide)]
  show decodeG4 (iW 0x102#9 pm imm t) = _
  unfold decodeG4; rw [fOp_iW]
  show (Except.ok (Instr.calli (fPm (iW 0x102#9 pm imm t)) (fImm (iW 0x102#9 pm imm t)) (fT (iW 0x102#9 pm imm t)))) = _
  simp
theorem Encoding.call (pm : BitVec 2) (tb : BitVec 9) (ta : BitVec 9) : Encoding.Statement (.call pm tb ta) := by
  intro _ _ rest
  refine decode_one (by nofun) ?_
  rw [decodeWord_of (fOp_gW ..) (by decide)]
  show decodeG4 (gW 0x103#9 pm 0 tb ta) = _
  unfold decodeG4; rw [fOp_gW]
  show (zMd (gW 0x103#9 pm 0 tb ta) (.call (fPm (gW 0x103#9 pm 0 tb ta)) (fTb (gW 0x103#9 pm 0 tb ta)) (fTa (gW 0x103#9 pm 0 tb ta)))) = _
  simp [zMd]
theorem Encoding.ret (pm : BitVec 2) : Encoding.Statement (.ret pm) := by
  intro _ _ rest
  refine decode_one (by nofun) ?_
  rw [decodeWord_of (fOp_gW ..) (by decide)]
  show decodeG4 (gW 0x104#9 pm 0 0x1FF#9 0x1FF#9) = _
  unfold decodeG4; rw [fOp_gW]
  show (noTT (gW 0x104#9 pm 0 0x1FF#9 0x1FF#9) (zMd (gW 0x104#9 pm 0 0x1FF#9 0x1FF#9) (.ret (fPm (gW 0x104#9 pm 0 0x1FF#9 0x1FF#9))))) = _
  simp [zMd, noTT]
theorem Encoding.exit (pm : BitVec 2) : Encoding.Statement (.exit pm) := by
  intro _ _ rest
  refine decode_one (by nofun) ?_
  rw [decodeWord_of (fOp_gW ..) (by decide)]
  show decodeG4 (gW 0x105#9 pm 0 0x1FF#9 0x1FF#9) = _
  unfold decodeG4; rw [fOp_gW]
  show (noTT (gW 0x105#9 pm 0 0x1FF#9 0x1FF#9) (zMd (gW 0x105#9 pm 0 0x1FF#9 0x1FF#9) (.exit (fPm (gW 0x105#9 pm 0 0x1FF#9 0x1FF#9))))) = _
  simp [zMd, noTT]
theorem Encoding.binit (pm : BitVec 2) (md : BitVec 3) : Encoding.Statement (.binit pm md) := by
  intro _ _ rest
  refine decode_one (by nofun) ?_
  rw [decodeWord_of (fOp_gW ..) (by decide)]
  show decodeG4 (gW 0x108#9 pm md 0x1FF#9 0x1FF#9) = _
  unfold decodeG4; rw [fOp_gW]
  show (noTT (gW 0x108#9 pm md 0x1FF#9 0x1FF#9) (Except.ok (Instr.binit (fPm (gW 0x108#9 pm md 0x1FF#9 0x1FF#9)) (fMd (gW 0x108#9 pm md 0x1FF#9 0x1FF#9))))) = _
  simp [noTT]
theorem Encoding.barv (pm : BitVec 2) (md : BitVec 3) (tb : BitVec 9) (ta : BitVec 9) : Encoding.Statement (.barv pm md tb ta) := by
  intro _ _ rest
  refine decode_one (by nofun) ?_
  rw [decodeWord_of (fOp_gW ..) (by decide)]
  show decodeG4 (gW 0x109#9 pm md tb ta) = _
  unfold decodeG4; rw [fOp_gW]
  show (Except.ok (Instr.barv (fPm (gW 0x109#9 pm md tb ta)) (fMd (gW 0x109#9 pm md tb ta)) (fTb (gW 0x109#9 pm md tb ta)) (fTa (gW 0x109#9 pm md tb ta)))) = _
  simp
theorem Encoding.bard (pm : BitVec 2) (md : BitVec 3) : Encoding.Statement (.bard pm md) := by
  intro _ _ rest
  refine decode_one (by nofun) ?_
  rw [decodeWord_of (fOp_gW ..) (by decide)]
  show decodeG4 (gW 0x10A#9 pm md 0x1FF#9 0x1FF#9) = _
  unfold decodeG4; rw [fOp_gW]
  show (noTT (gW 0x10A#9 pm md 0x1FF#9 0x1FF#9) (Except.ok (Instr.bard (fPm (gW 0x10A#9 pm md 0x1FF#9 0x1FF#9)) (fMd (gW 0x10A#9 pm md 0x1FF#9 0x1FF#9))))) = _
  simp [noTT]
theorem Encoding.bwait (pm : BitVec 2) (md : BitVec 3) (tb : BitVec 9) (ta : BitVec 9) : Encoding.Statement (.bwait pm md tb ta) := by
  intro _ _ rest
  refine decode_one (by nofun) ?_
  rw [decodeWord_of (fOp_gW ..) (by decide)]
  show decodeG4 (gW 0x10B#9 pm md tb ta) = _
  unfold decodeG4; rw [fOp_gW]
  show (Except.ok (Instr.bwait (fPm (gW 0x10B#9 pm md tb ta)) (fMd (gW 0x10B#9 pm md tb ta)) (fTb (gW 0x10B#9 pm md tb ta)) (fTa (gW 0x10B#9 pm md tb ta)))) = _
  simp
theorem Encoding.bar (pm : BitVec 2) (md : BitVec 3) (tb : BitVec 9) (ta : BitVec 9) : Encoding.Statement (.bar pm md tb ta) := by
  intro _ _ rest
  refine decode_one (by nofun) ?_
  rw [decodeWord_of (fOp_gW ..) (by decide)]
  show decodeG4 (gW 0x10C#9 pm md tb ta) = _
  unfold decodeG4; rw [fOp_gW]
  show (Except.ok (Instr.bar (fPm (gW 0x10C#9 pm md tb ta)) (fMd (gW 0x10C#9 pm md tb ta)) (fTb (gW 0x10C#9 pm md tb ta)) (fTa (gW 0x10C#9 pm md tb ta)))) = _
  simp
theorem Encoding.bexpect (pm : BitVec 2) (md : BitVec 3) : Encoding.Statement (.bexpect pm md) := by
  intro _ _ rest
  refine decode_one (by nofun) ?_
  rw [decodeWord_of (fOp_gW ..) (by decide)]
  show decodeG4 (gW 0x10D#9 pm md 0x1FF#9 0x1FF#9) = _
  unfold decodeG4; rw [fOp_gW]
  show (noTT (gW 0x10D#9 pm md 0x1FF#9 0x1FF#9) (Except.ok (Instr.bexpect (fPm (gW 0x10D#9 pm md 0x1FF#9 0x1FF#9)) (fMd (gW 0x10D#9 pm md 0x1FF#9 0x1FF#9))))) = _
  simp [noTT]
theorem Encoding.launch (pm : BitVec 2) (md : BitVec 3) (tb : BitVec 9) (ta : BitVec 9) : Encoding.Statement (.launch pm md tb ta) := by
  intro _ _ rest
  refine decode_one (by nofun) ?_
  rw [decodeWord_of (fOp_gW ..) (by decide)]
  show decodeG4 (gW 0x110#9 pm md tb ta) = _
  unfold decodeG4; rw [fOp_gW]
  show (Except.ok (Instr.launch (fPm (gW 0x110#9 pm md tb ta)) (fMd (gW 0x110#9 pm md tb ta)) (fTb (gW 0x110#9 pm md tb ta)) (fTa (gW 0x110#9 pm md tb ta)))) = _
  simp
theorem Encoding.trig (pm : BitVec 2) : Encoding.Statement (.trig pm) := by
  intro _ _ rest
  refine decode_one (by nofun) ?_
  rw [decodeWord_of (fOp_gW ..) (by decide)]
  show decodeG4 (gW 0x111#9 pm 0 0x1FF#9 0x1FF#9) = _
  unfold decodeG4; rw [fOp_gW]
  show (noTT (gW 0x111#9 pm 0 0x1FF#9 0x1FF#9) (zMd (gW 0x111#9 pm 0 0x1FF#9 0x1FF#9) (.trig (fPm (gW 0x111#9 pm 0 0x1FF#9 0x1FF#9))))) = _
  simp [zMd, noTT]
theorem Encoding.depwait (pm : BitVec 2) (tb : BitVec 9) (ta : BitVec 9) : Encoding.Statement (.depwait pm tb ta) := by
  intro _ _ rest
  refine decode_one (by nofun) ?_
  rw [decodeWord_of (fOp_gW ..) (by decide)]
  show decodeG4 (gW 0x112#9 pm 0 tb ta) = _
  unfold decodeG4; rw [fOp_gW]
  show (zMd (gW 0x112#9 pm 0 tb ta) (.depwait (fPm (gW 0x112#9 pm 0 tb ta)) (fTb (gW 0x112#9 pm 0 tb ta)) (fTa (gW 0x112#9 pm 0 tb ta)))) = _
  simp [zMd]
theorem Encoding.qput (pm : BitVec 2) (md : BitVec 3) (tb : BitVec 9) (ta : BitVec 9) : Encoding.Statement (.qput pm md tb ta) := by
  intro _ _ rest
  refine decode_one (by nofun) ?_
  rw [decodeWord_of (fOp_gW ..) (by decide)]
  show decodeG4 (gW 0x118#9 pm md tb ta) = _
  unfold decodeG4; rw [fOp_gW]
  show (Except.ok (Instr.qput (fPm (gW 0x118#9 pm md tb ta)) (fMd (gW 0x118#9 pm md tb ta)) (fTb (gW 0x118#9 pm md tb ta)) (fTa (gW 0x118#9 pm md tb ta)))) = _
  simp
theorem Encoding.qtake (pm : BitVec 2) (md : BitVec 3) (tb : BitVec 9) (ta : BitVec 9) : Encoding.Statement (.qtake pm md tb ta) := by
  intro _ _ rest
  refine decode_one (by nofun) ?_
  rw [decodeWord_of (fOp_gW ..) (by decide)]
  show decodeG4 (gW 0x119#9 pm md tb ta) = _
  unfold decodeG4; rw [fOp_gW]
  show (Except.ok (Instr.qtake (fPm (gW 0x119#9 pm md tb ta)) (fMd (gW 0x119#9 pm md tb ta)) (fTb (gW 0x119#9 pm md tb ta)) (fTa (gW 0x119#9 pm md tb ta)))) = _
  simp
theorem Encoding.qclose (pm : BitVec 2) : Encoding.Statement (.qclose pm) := by
  intro _ _ rest
  refine decode_one (by nofun) ?_
  rw [decodeWord_of (fOp_gW ..) (by decide)]
  show decodeG4 (gW 0x11A#9 pm 0 0x1FF#9 0x1FF#9) = _
  unfold decodeG4; rw [fOp_gW]
  show (noTT (gW 0x11A#9 pm 0 0x1FF#9 0x1FF#9) (zMd (gW 0x11A#9 pm 0 0x1FF#9 0x1FF#9) (.qclose (fPm (gW 0x11A#9 pm 0 0x1FF#9 0x1FF#9))))) = _
  simp [zMd, noTT]
theorem Encoding.qstat (pm : BitVec 2) (tb : BitVec 9) (ta : BitVec 9) : Encoding.Statement (.qstat pm tb ta) := by
  intro _ _ rest
  refine decode_one (by nofun) ?_
  rw [decodeWord_of (fOp_gW ..) (by decide)]
  show decodeG4 (gW 0x11B#9 pm 0 tb ta) = _
  unfold decodeG4; rw [fOp_gW]
  show (zMd (gW 0x11B#9 pm 0 tb ta) (.qstat (fPm (gW 0x11B#9 pm 0 tb ta)) (fTb (gW 0x11B#9 pm 0 tb ta)) (fTa (gW 0x11B#9 pm 0 tb ta)))) = _
  simp [zMd]
theorem Encoding.qbind (pm : BitVec 2) : Encoding.Statement (.qbind pm) := by
  intro _ _ rest
  refine decode_one (by nofun) ?_
  rw [decodeWord_of (fOp_gW ..) (by decide)]
  show decodeG4 (gW 0x11C#9 pm 0 0x1FF#9 0x1FF#9) = _
  unfold decodeG4; rw [fOp_gW]
  show (noTT (gW 0x11C#9 pm 0 0x1FF#9 0x1FF#9) (zMd (gW 0x11C#9 pm 0 0x1FF#9 0x1FF#9) (.qbind (fPm (gW 0x11C#9 pm 0 0x1FF#9 0x1FF#9))))) = _
  simp [zMd, noTT]
theorem Encoding.ld (pm : BitVec 2) (mos : BitVec 5) (md : BitVec 3) (off : BitVec 4) (t : BitVec 9) : Encoding.Statement (.ld pm mos md off t) := by
  intro _ _ rest
  refine decode_one (by nofun) ?_
  rw [decodeWord_of (fOp_mW ..) (by decide)]
  show decodeG5 (mW 0x140#9 pm mos md off t) = _
  unfold decodeG5; rw [fOp_mW]
  show (Except.ok (Instr.ld (fPm (mW 0x140#9 pm mos md off t)) (fMos (mW 0x140#9 pm mos md off t)) (fMdM (mW 0x140#9 pm mos md off t)) (fOff4 (mW 0x140#9 pm mos md off t)) (fT (mW 0x140#9 pm mos md off t)))) = _
  simp
theorem Encoding.ldO (pm : BitVec 2) (mos : BitVec 5) (md : BitVec 3) (off : BitVec 4) (t : BitVec 9) : Encoding.Statement (.ldO pm mos md off t) := by
  intro _ _ rest
  refine decode_one (by nofun) ?_
  rw [decodeWord_of (fOp_mW ..) (by decide)]
  show decodeG5 (mW 0x141#9 pm mos md off t) = _
  unfold decodeG5; rw [fOp_mW]
  show (Except.ok (Instr.ldO (fPm (mW 0x141#9 pm mos md off t)) (fMos (mW 0x141#9 pm mos md off t)) (fMdM (mW 0x141#9 pm mos md off t)) (fOff4 (mW 0x141#9 pm mos md off t)) (fT (mW 0x141#9 pm mos md off t)))) = _
  simp
theorem Encoding.lda32 (pm : BitVec 2) (mos : BitVec 5) (md : BitVec 3) (off : BitVec 4) (t : BitVec 9) : Encoding.Statement (.lda32 pm mos md off t) := by
  intro _ _ rest
  refine decode_one (by nofun) ?_
  rw [decodeWord_of (fOp_mW ..) (by decide)]
  show decodeG5 (mW 0x142#9 pm mos md off t) = _
  unfold decodeG5; rw [fOp_mW]
  show (Except.ok (Instr.lda32 (fPm (mW 0x142#9 pm mos md off t)) (fMos (mW 0x142#9 pm mos md off t)) (fMdM (mW 0x142#9 pm mos md off t)) (fOff4 (mW 0x142#9 pm mos md off t)) (fT (mW 0x142#9 pm mos md off t)))) = _
  simp
theorem Encoding.lda64 (pm : BitVec 2) (mos : BitVec 5) (md : BitVec 3) (off : BitVec 4) (t : BitVec 9) : Encoding.Statement (.lda64 pm mos md off t) := by
  intro _ _ rest
  refine decode_one (by nofun) ?_
  rw [decodeWord_of (fOp_mW ..) (by decide)]
  show decodeG5 (mW 0x143#9 pm mos md off t) = _
  unfold decodeG5; rw [fOp_mW]
  show (Except.ok (Instr.lda64 (fPm (mW 0x143#9 pm mos md off t)) (fMos (mW 0x143#9 pm mos md off t)) (fMdM (mW 0x143#9 pm mos md off t)) (fOff4 (mW 0x143#9 pm mos md off t)) (fT (mW 0x143#9 pm mos md off t)))) = _
  simp
theorem Encoding.lds (pm : BitVec 2) (mos : BitVec 5) (md : BitVec 3) (off : BitVec 4) (t : BitVec 9) : Encoding.Statement (.lds pm mos md off t) := by
  intro _ _ rest
  refine decode_one (by nofun) ?_
  rw [decodeWord_of (fOp_mW ..) (by decide)]
  show decodeG5 (mW 0x144#9 pm mos md off t) = _
  unfold decodeG5; rw [fOp_mW]
  show (Except.ok (Instr.lds (fPm (mW 0x144#9 pm mos md off t)) (fMos (mW 0x144#9 pm mos md off t)) (fMdM (mW 0x144#9 pm mos md off t)) (fOff4 (mW 0x144#9 pm mos md off t)) (fT (mW 0x144#9 pm mos md off t)))) = _
  simp
theorem Encoding.ldsFe (pm : BitVec 2) (mos : BitVec 5) (md : BitVec 3) (off : BitVec 4) (t : BitVec 9) : Encoding.Statement (.ldsFe pm mos md off t) := by
  intro _ _ rest
  refine decode_one (by nofun) ?_
  rw [decodeWord_of (fOp_mW ..) (by decide)]
  show decodeG5 (mW 0x145#9 pm mos md off t) = _
  unfold decodeG5; rw [fOp_mW]
  show (Except.ok (Instr.ldsFe (fPm (mW 0x145#9 pm mos md off t)) (fMos (mW 0x145#9 pm mos md off t)) (fMdM (mW 0x145#9 pm mos md off t)) (fOff4 (mW 0x145#9 pm mos md off t)) (fT (mW 0x145#9 pm mos md off t)))) = _
  simp
theorem Encoding.ldc (pm : BitVec 2) (mos : BitVec 5) (md : BitVec 3) (off : BitVec 4) (t : BitVec 9) : Encoding.Statement (.ldc pm mos md off t) := by
  intro _ _ rest
  refine decode_one (by nofun) ?_
  rw [decodeWord_of (fOp_mW ..) (by decide)]
  show decodeG5 (mW 0x146#9 pm mos md off t) = _
  unfold decodeG5; rw [fOp_mW]
  show (Except.ok (Instr.ldc (fPm (mW 0x146#9 pm mos md off t)) (fMos (mW 0x146#9 pm mos md off t)) (fMdM (mW 0x146#9 pm mos md off t)) (fOff4 (mW 0x146#9 pm mos md off t)) (fT (mW 0x146#9 pm mos md off t)))) = _
  simp
theorem Encoding.ldt (pm : BitVec 2) (mos : BitVec 5) (md : BitVec 3) (off : BitVec 4) (t : BitVec 9) : Encoding.Statement (.ldt pm mos md off t) := by
  intro _ _ rest
  refine decode_one (by nofun) ?_
  rw [decodeWord_of (fOp_mW ..) (by decide)]
  show decodeG5 (mW 0x147#9 pm mos md off t) = _
  unfold decodeG5; rw [fOp_mW]
  show (Except.ok (Instr.ldt (fPm (mW 0x147#9 pm mos md off t)) (fMos (mW 0x147#9 pm mos md off t)) (fMdM (mW 0x147#9 pm mos md off t)) (fOff4 (mW 0x147#9 pm mos md off t)) (fT (mW 0x147#9 pm mos md off t)))) = _
  simp
theorem Encoding.ldk (pm : BitVec 2) (mos : BitVec 5) (off : BitVec 4) (t : BitVec 9) : Encoding.Statement (.ldk pm mos off t) := by
  intro _ _ rest
  refine decode_one (by nofun) ?_
  rw [decodeWord_of (fOp_mW ..) (by decide)]
  show decodeG5 (mW 0x148#9 pm mos 0 off t) = _
  unfold decodeG5; rw [fOp_mW]
  show (zMdM (mW 0x148#9 pm mos 0 off t) (.ldk (fPm (mW 0x148#9 pm mos 0 off t)) (fMos (mW 0x148#9 pm mos 0 off t)) (fOff4 (mW 0x148#9 pm mos 0 off t)) (fT (mW 0x148#9 pm mos 0 off t)))) = _
  simp [zMdM]
theorem Encoding.st (pm : BitVec 2) (mos : BitVec 5) (md : BitVec 3) (off : BitVec 13) : Encoding.Statement (.st pm mos md off) := by
  intro _ _ rest
  refine decode_one (by nofun) ?_
  rw [decodeWord_of (fOp_sW ..) (by decide)]
  show decodeG5 (sW 0x150#9 pm mos md off) = _
  unfold decodeG5; rw [fOp_sW]
  show (Except.ok (Instr.st (fPm (sW 0x150#9 pm mos md off)) (fMos (sW 0x150#9 pm mos md off)) (fMdM (sW 0x150#9 pm mos md off)) (fOff13 (sW 0x150#9 pm mos md off)))) = _
  simp
theorem Encoding.sts (pm : BitVec 2) (mos : BitVec 5) (md : BitVec 3) (off : BitVec 13) : Encoding.Statement (.sts pm mos md off) := by
  intro _ _ rest
  refine decode_one (by nofun) ?_
  rw [decodeWord_of (fOp_sW ..) (by decide)]
  show decodeG5 (sW 0x151#9 pm mos md off) = _
  unfold decodeG5; rw [fOp_sW]
  show (Except.ok (Instr.sts (fPm (sW 0x151#9 pm mos md off)) (fMos (sW 0x151#9 pm mos md off)) (fMdM (sW 0x151#9 pm mos md off)) (fOff13 (sW 0x151#9 pm mos md off)))) = _
  simp
theorem Encoding.stsFe (pm : BitVec 2) (mos : BitVec 5) (off : BitVec 13) : Encoding.Statement (.stsFe pm mos off) := by
  intro _ _ rest
  refine decode_one (by nofun) ?_
  rw [decodeWord_of (fOp_sW ..) (by decide)]
  show decodeG5 (sW 0x152#9 pm mos 0 off) = _
  unfold decodeG5; rw [fOp_sW]
  show (zMdM (sW 0x152#9 pm mos 0 off) (.stsFe (fPm (sW 0x152#9 pm mos 0 off)) (fMos (sW 0x152#9 pm mos 0 off)) (fOff13 (sW 0x152#9 pm mos 0 off)))) = _
  simp [zMdM]
theorem Encoding.stc (pm : BitVec 2) (mos : BitVec 5) (md : BitVec 3) (off : BitVec 13) : Encoding.Statement (.stc pm mos md off) := by
  intro _ _ rest
  refine decode_one (by nofun) ?_
  rw [decodeWord_of (fOp_sW ..) (by decide)]
  show decodeG5 (sW 0x153#9 pm mos md off) = _
  unfold decodeG5; rw [fOp_sW]
  show (Except.ok (Instr.stc (fPm (sW 0x153#9 pm mos md off)) (fMos (sW 0x153#9 pm mos md off)) (fMdM (sW 0x153#9 pm mos md off)) (fOff13 (sW 0x153#9 pm mos md off)))) = _
  simp
theorem Encoding.stt (pm : BitVec 2) (mos : BitVec 5) (md : BitVec 3) (off : BitVec 13) : Encoding.Statement (.stt pm mos md off) := by
  intro _ _ rest
  refine decode_one (by nofun) ?_
  rw [decodeWord_of (fOp_sW ..) (by decide)]
  show decodeG5 (sW 0x154#9 pm mos md off) = _
  unfold decodeG5; rw [fOp_sW]
  show (Except.ok (Instr.stt (fPm (sW 0x154#9 pm mos md off)) (fMos (sW 0x154#9 pm mos md off)) (fMdM (sW 0x154#9 pm mos md off)) (fOff13 (sW 0x154#9 pm mos md off)))) = _
  simp
theorem Encoding.strel32 (pm : BitVec 2) (mos : BitVec 5) (md : BitVec 3) (off : BitVec 13) : Encoding.Statement (.strel32 pm mos md off) := by
  intro _ _ rest
  refine decode_one (by nofun) ?_
  rw [decodeWord_of (fOp_sW ..) (by decide)]
  show decodeG5 (sW 0x155#9 pm mos md off) = _
  unfold decodeG5; rw [fOp_sW]
  show (Except.ok (Instr.strel32 (fPm (sW 0x155#9 pm mos md off)) (fMos (sW 0x155#9 pm mos md off)) (fMdM (sW 0x155#9 pm mos md off)) (fOff13 (sW 0x155#9 pm mos md off)))) = _
  simp
theorem Encoding.strel64 (pm : BitVec 2) (mos : BitVec 5) (md : BitVec 3) (off : BitVec 13) : Encoding.Statement (.strel64 pm mos md off) := by
  intro _ _ rest
  refine decode_one (by nofun) ?_
  rw [decodeWord_of (fOp_sW ..) (by decide)]
  show decodeG5 (sW 0x156#9 pm mos md off) = _
  unfold decodeG5; rw [fOp_sW]
  show (Except.ok (Instr.strel64 (fPm (sW 0x156#9 pm mos md off)) (fMos (sW 0x156#9 pm mos md off)) (fMdM (sW 0x156#9 pm mos md off)) (fOff13 (sW 0x156#9 pm mos md off)))) = _
  simp
theorem Encoding.atom32 (pm : BitVec 2) (mos : BitVec 5) (md : BitVec 3) (off : BitVec 4) (t : BitVec 9) : Encoding.Statement (.atom32 pm mos md off t) := by
  intro _ _ rest
  refine decode_one (by nofun) ?_
  rw [decodeWord_of (fOp_mW ..) (by decide)]
  show decodeG5 (mW 0x160#9 pm mos md off t) = _
  unfold decodeG5; rw [fOp_mW]
  show (Except.ok (Instr.atom32 (fPm (mW 0x160#9 pm mos md off t)) (fMos (mW 0x160#9 pm mos md off t)) (fMdM (mW 0x160#9 pm mos md off t)) (fOff4 (mW 0x160#9 pm mos md off t)) (fT (mW 0x160#9 pm mos md off t)))) = _
  simp
theorem Encoding.atom64 (pm : BitVec 2) (mos : BitVec 5) (md : BitVec 3) (off : BitVec 4) (t : BitVec 9) : Encoding.Statement (.atom64 pm mos md off t) := by
  intro _ _ rest
  refine decode_one (by nofun) ?_
  rw [decodeWord_of (fOp_mW ..) (by decide)]
  show decodeG5 (mW 0x161#9 pm mos md off t) = _
  unfold decodeG5; rw [fOp_mW]
  show (Except.ok (Instr.atom64 (fPm (mW 0x161#9 pm mos md off t)) (fMos (mW 0x161#9 pm mos md off t)) (fMdM (mW 0x161#9 pm mos md off t)) (fOff4 (mW 0x161#9 pm mos md off t)) (fT (mW 0x161#9 pm mos md off t)))) = _
  simp
theorem Encoding.atomf (pm : BitVec 2) (mos : BitVec 5) (off : BitVec 4) (t : BitVec 9) : Encoding.Statement (.atomf pm mos off t) := by
  intro _ _ rest
  refine decode_one (by nofun) ?_
  rw [decodeWord_of (fOp_mW ..) (by decide)]
  show decodeG5 (mW 0x162#9 pm mos 0 off t) = _
  unfold decodeG5; rw [fOp_mW]
  show (zMdM (mW 0x162#9 pm mos 0 off t) (.atomf (fPm (mW 0x162#9 pm mos 0 off t)) (fMos (mW 0x162#9 pm mos 0 off t)) (fOff4 (mW 0x162#9 pm mos 0 off t)) (fT (mW 0x162#9 pm mos 0 off t)))) = _
  simp [zMdM]
theorem Encoding.cas32 (pm : BitVec 2) (mos : BitVec 5) (off : BitVec 4) (t : BitVec 9) : Encoding.Statement (.cas32 pm mos off t) := by
  intro _ _ rest
  refine decode_one (by nofun) ?_
  rw [decodeWord_of (fOp_mW ..) (by decide)]
  show decodeG5 (mW 0x163#9 pm mos 0 off t) = _
  unfold decodeG5; rw [fOp_mW]
  show (zMdM (mW 0x163#9 pm mos 0 off t) (.cas32 (fPm (mW 0x163#9 pm mos 0 off t)) (fMos (mW 0x163#9 pm mos 0 off t)) (fOff4 (mW 0x163#9 pm mos 0 off t)) (fT (mW 0x163#9 pm mos 0 off t)))) = _
  simp [zMdM]
theorem Encoding.cas64 (pm : BitVec 2) (mos : BitVec 5) (off : BitVec 4) (t : BitVec 9) : Encoding.Statement (.cas64 pm mos off t) := by
  intro _ _ rest
  refine decode_one (by nofun) ?_
  rw [decodeWord_of (fOp_mW ..) (by decide)]
  show decodeG5 (mW 0x164#9 pm mos 0 off t) = _
  unfold decodeG5; rw [fOp_mW]
  show (zMdM (mW 0x164#9 pm mos 0 off t) (.cas64 (fPm (mW 0x164#9 pm mos 0 off t)) (fMos (mW 0x164#9 pm mos 0 off t)) (fOff4 (mW 0x164#9 pm mos 0 off t)) (fT (mW 0x164#9 pm mos 0 off t)))) = _
  simp [zMdM]
theorem Encoding.atoms (pm : BitVec 2) (mos : BitVec 5) (md : BitVec 3) (off : BitVec 4) (t : BitVec 9) : Encoding.Statement (.atoms pm mos md off t) := by
  intro _ _ rest
  refine decode_one (by nofun) ?_
  rw [decodeWord_of (fOp_mW ..) (by decide)]
  show decodeG5 (mW 0x165#9 pm mos md off t) = _
  unfold decodeG5; rw [fOp_mW]
  show (Except.ok (Instr.atoms (fPm (mW 0x165#9 pm mos md off t)) (fMos (mW 0x165#9 pm mos md off t)) (fMdM (mW 0x165#9 pm mos md off t)) (fOff4 (mW 0x165#9 pm mos md off t)) (fT (mW 0x165#9 pm mos md off t)))) = _
  simp
theorem Encoding.red32 (pm : BitVec 2) (mos : BitVec 5) (md : BitVec 3) (off : BitVec 13) : Encoding.Statement (.red32 pm mos md off) := by
  intro _ _ rest
  refine decode_one (by nofun) ?_
  rw [decodeWord_of (fOp_sW ..) (by decide)]
  show decodeG5 (sW 0x166#9 pm mos md off) = _
  unfold decodeG5; rw [fOp_sW]
  show (Except.ok (Instr.red32 (fPm (sW 0x166#9 pm mos md off)) (fMos (sW 0x166#9 pm mos md off)) (fMdM (sW 0x166#9 pm mos md off)) (fOff13 (sW 0x166#9 pm mos md off)))) = _
  simp
theorem Encoding.fenceAcq (pm : BitVec 2) (mos : BitVec 5) (md : BitVec 3) : Encoding.Statement (.fenceAcq pm mos md) := by
  intro _ _ rest
  refine decode_one (by nofun) ?_
  rw [decodeWord_of (fOp_sW ..) (by decide)]
  show decodeG5 (sW 0x170#9 pm mos md 0) = _
  unfold decodeG5; rw [fOp_sW]
  show (zOff (sW 0x170#9 pm mos md 0) (.fenceAcq (fPm (sW 0x170#9 pm mos md 0)) (fMos (sW 0x170#9 pm mos md 0)) (fMdM (sW 0x170#9 pm mos md 0)))) = _
  simp [zOff]
theorem Encoding.fenceRel (pm : BitVec 2) (mos : BitVec 5) (md : BitVec 3) : Encoding.Statement (.fenceRel pm mos md) := by
  intro _ _ rest
  refine decode_one (by nofun) ?_
  rw [decodeWord_of (fOp_sW ..) (by decide)]
  show decodeG5 (sW 0x171#9 pm mos md 0) = _
  unfold decodeG5; rw [fOp_sW]
  show (zOff (sW 0x171#9 pm mos md 0) (.fenceRel (fPm (sW 0x171#9 pm mos md 0)) (fMos (sW 0x171#9 pm mos md 0)) (fMdM (sW 0x171#9 pm mos md 0)))) = _
  simp [zOff]
theorem Encoding.fenceAr (pm : BitVec 2) (mos : BitVec 5) (md : BitVec 3) : Encoding.Statement (.fenceAr pm mos md) := by
  intro _ _ rest
  refine decode_one (by nofun) ?_
  rw [decodeWord_of (fOp_sW ..) (by decide)]
  show decodeG5 (sW 0x172#9 pm mos md 0) = _
  unfold decodeG5; rw [fOp_sW]
  show (zOff (sW 0x172#9 pm mos md 0) (.fenceAr (fPm (sW 0x172#9 pm mos md 0)) (fMos (sW 0x172#9 pm mos md 0)) (fMdM (sW 0x172#9 pm mos md 0)))) = _
  simp [zOff]
theorem Encoding.pref (pm : BitVec 2) (mos : BitVec 5) (md : BitVec 3) (off : BitVec 13) : Encoding.Statement (.pref pm mos md off) := by
  intro _ _ rest
  refine decode_one (by nofun) ?_
  rw [decodeWord_of (fOp_sW ..) (by decide)]
  show decodeG5 (sW 0x174#9 pm mos md off) = _
  unfold decodeG5; rw [fOp_sW]
  show (Except.ok (Instr.pref (fPm (sW 0x174#9 pm mos md off)) (fMos (sW 0x174#9 pm mos md off)) (fMdM (sW 0x174#9 pm mos md off)) (fOff13 (sW 0x174#9 pm mos md off)))) = _
  simp
theorem Encoding.resid (pm : BitVec 2) (mos : BitVec 5) (off : BitVec 13) : Encoding.Statement (.resid pm mos off) := by
  intro _ _ rest
  refine decode_one (by nofun) ?_
  rw [decodeWord_of (fOp_sW ..) (by decide)]
  show decodeG5 (sW 0x175#9 pm mos 0 off) = _
  unfold decodeG5; rw [fOp_sW]
  show (zMdM (sW 0x175#9 pm mos 0 off) (.resid (fPm (sW 0x175#9 pm mos 0 off)) (fMos (sW 0x175#9 pm mos 0 off)) (fOff13 (sW 0x175#9 pm mos 0 off)))) = _
  simp [zMdM]
theorem Encoding.disc (pm : BitVec 2) (mos : BitVec 5) (off : BitVec 13) : Encoding.Statement (.disc pm mos off) := by
  intro _ _ rest
  refine decode_one (by nofun) ?_
  rw [decodeWord_of (fOp_sW ..) (by decide)]
  show decodeG5 (sW 0x176#9 pm mos 0 off) = _
  unfold decodeG5; rw [fOp_sW]
  show (zMdM (sW 0x176#9 pm mos 0 off) (.disc (fPm (sW 0x176#9 pm mos 0 off)) (fMos (sW 0x176#9 pm mos 0 off)) (fOff13 (sW 0x176#9 pm mos 0 off)))) = _
  simp [zMdM]
theorem Encoding.clean (pm : BitVec 2) (mos : BitVec 5) (off : BitVec 13) : Encoding.Statement (.clean pm mos off) := by
  intro _ _ rest
  refine decode_one (by nofun) ?_
  rw [decodeWord_of (fOp_sW ..) (by decide)]
  show decodeG5 (sW 0x177#9 pm mos 0 off) = _
  unfold decodeG5; rw [fOp_sW]
  show (zMdM (sW 0x177#9 pm mos 0 off) (.clean (fPm (sW 0x177#9 pm mos 0 off)) (fMos (sW 0x177#9 pm mos 0 off)) (fOff13 (sW 0x177#9 pm mos 0 off)))) = _
  simp [zMdM]
theorem Encoding.ipref (pm : BitVec 2) (mos : BitVec 5) (off : BitVec 13) : Encoding.Statement (.ipref pm mos off) := by
  intro _ _ rest
  refine decode_one (by nofun) ?_
  rw [decodeWord_of (fOp_sW ..) (by decide)]
  show decodeG5 (sW 0x178#9 pm mos 0 off) = _
  unfold decodeG5; rw [fOp_sW]
  show (zMdM (sW 0x178#9 pm mos 0 off) (.ipref (fPm (sW 0x178#9 pm mos 0 off)) (fMos (sW 0x178#9 pm mos 0 off)) (fOff13 (sW 0x178#9 pm mos 0 off)))) = _
  simp [zMdM]
theorem Encoding.iinv (pm : BitVec 2) (tb : BitVec 9) (ta : BitVec 9) : Encoding.Statement (.iinv pm tb ta) := by
  intro _ _ rest
  refine decode_one (by nofun) ?_
  rw [decodeWord_of (fOp_gW ..) (by decide)]
  show decodeG5 (gW 0x179#9 pm 0 tb ta) = _
  unfold decodeG5; rw [fOp_gW]
  show (zMd (gW 0x179#9 pm 0 tb ta) (.iinv (fPm (gW 0x179#9 pm 0 tb ta)) (fTb (gW 0x179#9 pm 0 tb ta)) (fTa (gW 0x179#9 pm 0 tb ta)))) = _
  simp [zMd]
theorem Encoding.cpy (pm : BitVec 2) (md : BitVec 3) : Encoding.Statement (.cpy pm md) := by
  intro _ _ rest
  refine decode_one (by nofun) ?_
  rw [decodeWord_of (fOp_gW ..) (by decide)]
  show decodeG5 (gW 0x17A#9 pm md 0x1FF#9 0x1FF#9) = _
  unfold decodeG5; rw [fOp_gW]
  show (noTT (gW 0x17A#9 pm md 0x1FF#9 0x1FF#9) (Except.ok (Instr.cpy (fPm (gW 0x17A#9 pm md 0x1FF#9 0x1FF#9)) (fMd (gW 0x17A#9 pm md 0x1FF#9 0x1FF#9))))) = _
  simp [noTT]
theorem Encoding.feset (pm : BitVec 2) (mos : BitVec 5) (off : BitVec 13) : Encoding.Statement (.feset pm mos off) := by
  intro _ _ rest
  refine decode_one (by nofun) ?_
  rw [decodeWord_of (fOp_sW ..) (by decide)]
  show decodeG5 (sW 0x17C#9 pm mos 0 off) = _
  unfold decodeG5; rw [fOp_sW]
  show (zMdM (sW 0x17C#9 pm mos 0 off) (.feset (fPm (sW 0x17C#9 pm mos 0 off)) (fMos (sW 0x17C#9 pm mos 0 off)) (fOff13 (sW 0x17C#9 pm mos 0 off)))) = _
  simp [zMdM]
theorem Encoding.feclr (pm : BitVec 2) (mos : BitVec 5) (off : BitVec 13) : Encoding.Statement (.feclr pm mos off) := by
  intro _ _ rest
  refine decode_one (by nofun) ?_
  rw [decodeWord_of (fOp_sW ..) (by decide)]
  show decodeG5 (sW 0x17D#9 pm mos 0 off) = _
  unfold decodeG5; rw [fOp_sW]
  show (zMdM (sW 0x17D#9 pm mos 0 off) (.feclr (fPm (sW 0x17D#9 pm mos 0 off)) (fMos (sW 0x17D#9 pm mos 0 off)) (fOff13 (sW 0x17D#9 pm mos 0 off)))) = _
  simp [zMdM]
theorem Encoding.emuVector (wid slot : Nat) : Encoding.Statement (.emuVector wid slot) := fun h => absurd rfl h
theorem Encoding.emuMatrixDrainDone (wid : Nat) : Encoding.Statement (.emuMatrixDrainDone wid) := fun h => absurd rfl h
theorem Encoding.blockDecode (wid : Nat) : Encoding.Statement (.blockDecode wid) := fun h => absurd rfl h
theorem Encoding.icacheFillArrive (cluster line : Nat) : Encoding.Statement (.icacheFillArrive cluster line) := fun h => absurd rfl h
theorem Encoding.blockCommit (wid : Nat) : Encoding.Statement (.blockCommit wid) := fun h => absurd rfl h
theorem Encoding.faultRecordDrain  : Encoding.Statement (.faultRecordDrain) := fun h => absurd rfl h
theorem Encoding.msixRateTimer (ctx : Nat) : Encoding.Statement (.msixRateTimer ctx) := fun h => absurd rfl h
theorem Encoding.frameShareHandoff (wid : Nat) : Encoding.Statement (.frameShareHandoff wid) := fun h => absurd rfl h
theorem Encoding.frameStarvationRaise (wid : Nat) : Encoding.Statement (.frameStarvationRaise wid) := fun h => absurd rfl h
theorem Encoding.translationWalkDone (ctx page : Nat) : Encoding.Statement (.translationWalkDone ctx page) := fun h => absurd rfl h
theorem Encoding.accessResponse (aid : Nat) : Encoding.Statement (.accessResponse aid) := fun h => absurd rfl h
theorem Encoding.engineQueueSpace (wid slot : Nat) : Encoding.Statement (.engineQueueSpace wid slot) := fun h => absurd rfl h
theorem Encoding.barrierWaitEnd (wid slot : Nat) : Encoding.Statement (.barrierWaitEnd wid slot) := fun h => absurd rfl h
theorem Encoding.feWaitSatisfied (wid slot lane : Nat) : Encoding.Statement (.feWaitSatisfied wid slot lane) := fun h => absurd rfl h
theorem Encoding.mwaitEnd (wid slot : Nat) : Encoding.Statement (.mwaitEnd wid slot) := fun h => absurd rfl h
theorem Encoding.qtakeWaitEnd (wid slot : Nat) : Encoding.Statement (.qtakeWaitEnd wid slot) := fun h => absurd rfl h
theorem Encoding.depwaitEnd (wid slot : Nat) : Encoding.Statement (.depwaitEnd wid slot) := fun h => absurd rfl h
theorem Encoding.iinvComplete (wid slot : Nat) : Encoding.Statement (.iinvComplete wid slot) := fun h => absurd rfl h
theorem Encoding.copyComplete (core ch : Nat) : Encoding.Statement (.copyComplete core ch) := fun h => absurd rfl h
theorem Encoding.matrixOpRetire (core : Nat) : Encoding.Statement (.matrixOpRetire core) := fun h => absurd rfl h
theorem Encoding.recipeSlicePlace (ctx idx : Nat) : Encoding.Statement (.recipeSlicePlace ctx idx) := fun h => absurd rfl h
theorem Encoding.galleryEvict (line : Nat) : Encoding.Statement (.galleryEvict line) := fun h => absurd rfl h
theorem Encoding.entryQueueAccept (q : Nat) : Encoding.Statement (.entryQueueAccept q) := fun h => absurd rfl h
theorem Encoding.gridEligible (gid : Nat) : Encoding.Statement (.gridEligible gid) := fun h => absurd rfl h
theorem Encoding.gangPlace (gang : Nat) : Encoding.Statement (.gangPlace gang) := fun h => absurd rfl h
theorem Encoding.gangPatienceExpired (gang : Nat) : Encoding.Statement (.gangPatienceExpired gang) := fun h => absurd rfl h
theorem Encoding.gangPlacementTimeout (gang : Nat) : Encoding.Statement (.gangPlacementTimeout gang) := fun h => absurd rfl h
theorem Encoding.gridComplete (gid : Nat) : Encoding.Statement (.gridComplete gid) := fun h => absurd rfl h
theorem Encoding.stageLingerExpired (q : Nat) : Encoding.Statement (.stageLingerExpired q) := fun h => absurd rfl h
theorem Encoding.qbindMarkerHead (q : Nat) : Encoding.Statement (.qbindMarkerHead q) := fun h => absurd rfl h
theorem Encoding.stageWatchdog (ctx graph : Nat) : Encoding.Statement (.stageWatchdog ctx graph) := fun h => absurd rfl h
theorem Encoding.alcoveRecordArrive (core : Nat) : Encoding.Statement (.alcoveRecordArrive core) := fun h => absurd rfl h
theorem Encoding.putWindowWrite (q off size : Nat) (data : BitVec 1024) : Encoding.Statement (.putWindowWrite q off size data) := fun h => absurd rfl h
theorem Encoding.alcovePutWindowWrite (q off size : Nat) (data : Rec64) : Encoding.Statement (.alcovePutWindowWrite q off size data) := fun h => absurd rfl h
theorem Encoding.hostBar4Access (write : Bool) (addr size data : Nat) : Encoding.Statement (.hostBar4Access write addr size data) := fun h => absurd rfl h
theorem Encoding.xlinvPage (v : Word) : Encoding.Statement (.xlinvPage v) := fun h => absurd rfl h
theorem Encoding.xlinvRange (v : Word) : Encoding.Statement (.xlinvRange v) := fun h => absurd rfl h
theorem Encoding.xlinvContext (v : Word) : Encoding.Statement (.xlinvContext v) := fun h => absurd rfl h
theorem Encoding.xlinvDone  : Encoding.Statement (.xlinvDone) := fun h => absurd rfl h
theorem Encoding.ctxswSave (v : Word) : Encoding.Statement (.ctxswSave v) := fun h => absurd rfl h
theorem Encoding.saveBoundaryTimeout  : Encoding.Statement (.saveBoundaryTimeout) := fun h => absurd rfl h
theorem Encoding.ctxswSaveDone  : Encoding.Statement (.ctxswSaveDone) := fun h => absurd rfl h
theorem Encoding.ctxswRestore (v : Word) : Encoding.Statement (.ctxswRestore v) := fun h => absurd rfl h
theorem Encoding.ctxswRestoreDone  : Encoding.Statement (.ctxswRestoreDone) := fun h => absurd rfl h
theorem Encoding.registerWrite (off : Nat) (v : Word) : Encoding.Statement (.registerWrite off v) := fun h => absurd rfl h
theorem Encoding.mbUnknownCommand  : Encoding.Statement (.mbUnknownCommand) := fun h => absurd rfl h
theorem Encoding.recRead  : Encoding.Statement (.recRead) := fun h => absurd rfl h
theorem Encoding.keyGen  : Encoding.Statement (.keyGen) := fun h => absurd rfl h
theorem Encoding.keyClear  : Encoding.Statement (.keyClear) := fun h => absurd rfl h
theorem Encoding.attestMake  : Encoding.Statement (.attestMake) := fun h => absurd rfl h
theorem Encoding.attestRead  : Encoding.Statement (.attestRead) := fun h => absurd rfl h
theorem Encoding.identRead  : Encoding.Statement (.identRead) := fun h => absurd rfl h
theorem Encoding.powerLimit  : Encoding.Statement (.powerLimit) := fun h => absurd rfl h
theorem Encoding.powerRead  : Encoding.Statement (.powerRead) := fun h => absurd rfl h
theorem Encoding.mbCommandDone  : Encoding.Statement (.mbCommandDone) := fun h => absurd rfl h
theorem Encoding.hlRead (hall m : Nat) : Encoding.Statement (.hlRead hall m) := fun h => absurd rfl h
theorem Encoding.hlWrite (hall m : Nat) : Encoding.Statement (.hlWrite hall m) := fun h => absurd rfl h
theorem Encoding.hlAtomic (hall m : Nat) : Encoding.Statement (.hlAtomic hall m) := fun h => absurd rfl h
theorem Encoding.hlReadData (hall m : Nat) : Encoding.Statement (.hlReadData hall m) := fun h => absurd rfl h
theorem Encoding.hlWriteAck (hall m : Nat) : Encoding.Statement (.hlWriteAck hall m) := fun h => absurd rfl h
theorem Encoding.hlAtomicResult (hall m : Nat) : Encoding.Statement (.hlAtomicResult hall m) := fun h => absurd rfl h
theorem Encoding.hlInvalidate (hall m : Nat) : Encoding.Statement (.hlInvalidate hall m) := fun h => absurd rfl h
theorem Encoding.hlInvalidateAck (hall m : Nat) : Encoding.Statement (.hlInvalidateAck hall m) := fun h => absurd rfl h
theorem Encoding.hlinkFlitReceive (hall m : Nat) (up crcOk : Bool) : Encoding.Statement (.hlinkFlitReceive hall m up crcOk) := fun h => absurd rfl h
theorem Encoding.hlinkNakReceived (hall m : Nat) (up : Bool) : Encoding.Statement (.hlinkNakReceived hall m up) := fun h => absurd rfl h
theorem Encoding.hlinkAckReceived (hall m : Nat) (up : Bool) : Encoding.Statement (.hlinkAckReceived hall m up) := fun h => absurd rfl h
theorem Encoding.hlinkAckTimer (hall m : Nat) (up : Bool) : Encoding.Statement (.hlinkAckTimer hall m up) := fun h => absurd rfl h
theorem Encoding.hlinkReplayTimeout (hall m : Nat) (up : Bool) : Encoding.Statement (.hlinkReplayTimeout hall m up) := fun h => absurd rfl h
theorem Encoding.hlinkLaneFailure (hall m : Nat) : Encoding.Statement (.hlinkLaneFailure hall m) := fun h => absurd rfl h
theorem Encoding.hlinkRetrainDone (hall m : Nat) : Encoding.Statement (.hlinkRetrainDone hall m) := fun h => absurd rfl h
theorem Encoding.hslFlitReceive (port : Nat) (flit : HFlit) (crcOk : Bool) : Encoding.Statement (.hslFlitReceive port flit crcOk) := fun h => absurd rfl h
theorem Encoding.hslPortDegrade (port : Nat) : Encoding.Statement (.hslPortDegrade port) := fun h => absurd rfl h
theorem Encoding.remoteRequest (port : Nat) : Encoding.Statement (.remoteRequest port) := fun h => absurd rfl h
theorem Encoding.remoteCompletionTimeout (tag : Nat) : Encoding.Statement (.remoteCompletionTimeout tag) := fun h => absurd rfl h
theorem Encoding.hallFatalError (hall cause : Nat) : Encoding.Statement (.hallFatalError hall cause) := fun h => absurd rfl h
theorem Encoding.contextFatalError (ctx wid : Nat) : Encoding.Statement (.contextFatalError ctx wid) := fun h => absurd rfl h
theorem Encoding.uncorrectedError (loc : ErrLoc) : Encoding.Statement (.uncorrectedError loc) := fun h => absurd rfl h
theorem Encoding.correctedError (rec unit addr : Nat) : Encoding.Statement (.correctedError rec unit addr) := fun h => absurd rfl h
theorem Encoding.islandClockChange (island mhz : Nat) : Encoding.Statement (.islandClockChange island mhz) := fun h => absurd rfl h
theorem Encoding.thermalThrottleEnter (die : Nat) : Encoding.Statement (.thermalThrottleEnter die) := fun h => absurd rfl h
theorem Encoding.thermalThrottleExit (die : Nat) : Encoding.Statement (.thermalThrottleExit die) := fun h => absurd rfl h
theorem Encoding.thermalPowerOff  : Encoding.Statement (.thermalPowerOff) := fun h => absurd rfl h
theorem Encoding.powerOn (image : List (BitVec 8)) (secver : BitVec 32) (sigOk : Bool) (raise : Option (BitVec 32)) : Encoding.Statement (.powerOn image secver sigOk raise) := fun h => absurd rfl h
theorem Encoding.packageReset  : Encoding.Statement (.packageReset) := fun h => absurd rfl h
theorem Encoding.contextCreate (ctx : Nat) (cfg : CtxConfig) : Encoding.Statement (.contextCreate ctx cfg) := fun h => absurd rfl h
theorem Encoding.contextDestroy (ctx : Nat) : Encoding.Statement (.contextDestroy ctx) := fun h => absurd rfl h
theorem Encoding.queueAllocate (q ctx : Nat) (role : QRole) (cap : Nat) (graph : Option Nat) : Encoding.Statement (.queueAllocate q ctx role cap graph) := fun h => absurd rfl h
theorem Encoding.matrixKstepDone (core : Nat) : Encoding.Statement (.matrixKstepDone core) := fun h => absurd rfl h
theorem Encoding.copyBeat (core ch : Nat) : Encoding.Statement (.copyBeat core ch) := fun h => absurd rfl h
theorem Encoding.cxlMemRequest (write : Bool) (addr : Nat) (data : Line) : Encoding.Statement (.cxlMemRequest write addr data) := fun h => absurd rfl h

end

end Sys2Proof.Laws
end

