-- ==== Sys2Proof/Laws/Rows.lean ====
section
/-!
SUPPORT. Sys2Proof/Laws/Rows.lean: a class L slot does in every lane what R79 and R80 say, whatever it makes of values.
-/
namespace Sys2Proof.Machine

/-! ## What a slot made in a lane -/

/-- What a lane's outcome records in the frame besides tokens. -/
def madeOf (slot : Nat) (snk : Bool) (l : Nat) (o : Option LaneOut) :
    List (Nat × Nat × BOut) × List (Nat × Nat × Nat × Word) × List (Nat × Word) × List (Nat × Nat × Tok) :=
  match o with
  | none => ([], [], [], [])
  | some o => (o.bout slot l, o.write slot l, o.wake l, o.spoiled slot snk l)

/-- A frame that went on from `f` as a class L slot leaves it: apart but for the slot's marks and the tokens to `ts`, with these records more. -/
structure Frame.After (f g : Frame) (slot : Nat) (ts : List (BitVec 9))
    (m : List (Nat × Nat × BOut) × List (Nat × Nat × Nat × Word) × List (Nat × Word) × List (Nat × Nat × Tok)) : Prop where
  apart : f.Apart g slot ts
  gains : f.Gains g m.1 m.2.1 m.2.2.1 m.2.2.2
  samples : (mget f.samples slot).isSome = true → (mget g.samples slot).isSome = true

def MadeSum (m n : List (Nat × Nat × BOut) × List (Nat × Nat × Nat × Word) × List (Nat × Word) × List (Nat × Nat × Tok)) :
    List (Nat × Nat × BOut) × List (Nat × Nat × Nat × Word) × List (Nat × Word) × List (Nat × Nat × Tok) :=
  (m.1 ++ n.1, m.2.1 ++ n.2.1, m.2.2.1 ++ n.2.2.1, m.2.2.2 ++ n.2.2.2)

theorem Frame.Apart.refl (f : Frame) (slot : Nat) (ts : List (BitVec 9)) : f.Apart f slot ts :=
  ⟨rfl, rfl, rfl, rfl, rfl, rfl, rfl, rfl, fun _ _ => ⟨rfl, rfl, rfl⟩, fun _ _ => rfl⟩
theorem Frame.Apart.trans {f g h : Frame} {slot : Nat} {ts : List (BitVec 9)} (a : f.Apart g slot ts) (b : g.Apart h slot ts) : f.Apart h slot ts := by
  obtain ⟨a1, a2, a3, a4, a5, a6, a7, a8, a9, a10⟩ := a
  obtain ⟨b1, b2, b3, b4, b5, b6, b7, b8, b9, b10⟩ := b
  exact ⟨b1.trans a1, b2.trans a2, b3.trans a3, b4.trans a4, b5.trans a5, b6.trans a6, b7.trans a7, b8.trans a8,
    fun k hk => ⟨(b9 k hk).1.trans (a9 k hk).1, (b9 k hk).2.1.trans (a9 k hk).2.1, (b9 k hk).2.2.trans (a9 k hk).2.2⟩, fun k hk => (b10 k hk).trans (a10 k hk)⟩
theorem Frame.Gains.refl (f : Frame) : f.Gains f [] [] [] [] := ⟨by simp, by simp, by simp, by simp⟩

theorem Frame.After.refl (f : Frame) (slot : Nat) (ts : List (BitVec 9)) : f.After f slot ts ([], [], [], []) := ⟨.refl .., .refl _, id⟩
theorem Frame.After.trans {f g h : Frame} {slot : Nat} {ts : List (BitVec 9)} {m n} (a : f.After g slot ts m) (b : g.After h slot ts n) :
    f.After h slot ts (MadeSum m n) := by
  refine ⟨a.apart.trans b.apart, ?_, b.samples ∘ a.samples⟩
  obtain ⟨a1, a2, a3, a4⟩ := a.gains
  obtain ⟨b1, b2, b3, b4⟩ := b.gains
  exact ⟨by rw [b1, a1, List.append_assoc]; rfl, by rw [b2, a2, List.append_assoc]; rfl, by rw [b3, a3, List.append_assoc]; rfl, by rw [b4, a4, List.append_assoc]; rfl⟩
/-- After a frame that adds nothing. -/
theorem Frame.After.quiet {f g h : Frame} {slot : Nat} {ts : List (BitVec 9)} {m} (a : f.After g slot ts ([], [], [], [])) (b : g.After h slot ts m) :
    f.After h slot ts m := a.trans b
theorem Frame.After.then {f g h : Frame} {slot : Nat} {ts : List (BitVec 9)} {m} (a : f.After g slot ts m) (b : g.After h slot ts ([], [], [], [])) :
    f.After h slot ts m := by
  have h := a.trans b
  unfold MadeSum at h
  simpa using h
theorem Frame.After.none {f g : Frame} {slot : Nat} {ts : List (BitVec 9)} (h : f.Apart g slot ts)
    (e : g.bouts = f.bouts ∧ g.swr = f.swr ∧ g.fres = f.fres ∧ g.spois = f.spois ∧ g.samples = f.samples) : f.After g slot ts ([], [], [], []) :=
  ⟨h, ⟨by simp [e.1], by simp [e.2.1], by simp [e.2.2.1], by simp [e.2.2.2.1]⟩, fun x => by rw [e.2.2.2.2]; exact x⟩

/-- Sending delivers tokens with their stamps, and that is all. -/
theorem Frame.send1_rest (f : Frame) (l : Nat) (t : Tok) (d : Nat) (x : BitVec 9) (a : NMap Tok) (b : NMap Nat) :
    { f.send1 l t d x with toks := a, deps := b } = { f with toks := a, deps := b } := by
  unfold Frame.send1
  cases tgtPort x <;> rfl
theorem Frame.send_eq (f : Frame) (ts : List (BitVec 9)) (l : Nat) (t : Tok) (d : Nat) :
    { f with toks := (f.send ts l t d).toks, deps := (f.send ts l t d).deps } = f.send ts l t d := by
  unfold Frame.send
  induction ts generalizing f with
  | nil => rfl
  | cons x r ih => exact (f.send1_rest l t d x _ _).symm.trans (ih (f.send1 l t d x))

theorem Frame.send_after (f : Frame) (slot : Nat) (ts : List (BitVec 9)) {l : Nat} (t : Tok) (d : Nat) (hl : l < 64) :
    f.After (f.send ts l t d) slot ts ([], [], [], []) := by
  have h := Frame.send_else f ts l t d
  rw [← Frame.send_eq] at h ⊢
  exact .none ⟨rfl, rfl, rfl, rfl, rfl, rfl, rfl, rfl, fun _ _ => ⟨rfl, rfl, rfl⟩, fun k hk => h k (fun tg hm q hq => hk tg hm q hq l hl)⟩ ⟨rfl, rfl, rfl, rfl, rfl⟩

/-- A null token poisons no sink. -/
theorem Frame.null_after (f : Frame) (slot : Nat) (ts : List (BitVec 9)) (snk : Bool) {l : Nat} (d : Nat) (hl : l < 64) :
    f.After (f.send ts l .null d) slot ts (madeOf slot snk l (some (.out .null))) := by
  cases snk <;> exact Frame.send_after f slot ts .null d hl

theorem Frame.markDone_after (f : Frame) (slot l : Nat) (ts : List (BitVec 9)) : f.After (f.markDone slot l) slot ts ([], [], [], []) :=
  .none ⟨rfl, rfl, rfl, rfl, rfl, rfl, rfl, rfl, fun k hk => ⟨by show mgetD (mset f.done slot _) k 0 = _; rw [mgetD_mset, if_neg hk], rfl, rfl⟩, fun _ _ => rfl⟩ ⟨rfl, rfl, rfl, rfl, rfl⟩
theorem Frame.markFired_after (f : Frame) (slot l : Nat) (ts : List (BitVec 9)) : f.After (f.markFired slot l) slot ts ([], [], [], []) :=
  .none ⟨rfl, rfl, rfl, rfl, rfl, rfl, rfl, rfl, fun k hk => ⟨rfl, by show mgetD (mset f.fired slot _) k 0 = _; rw [mgetD_mset, if_neg hk], rfl⟩, fun _ _ => rfl⟩ ⟨rfl, rfl, rfl, rfl, rfl⟩

theorem Frame.put_after (f : Frame) (slot : Nat) {l : Nat} (ts : List (BitVec 9)) (snk : Bool) (d : Nat) (o : LaneOut) (hl : l < 64) :
    f.After (f.put slot l ts snk d o) slot ts (madeOf slot snk l (some o)) := by
  have same : ∀ g : Frame, g.Apart g slot ts := fun g => .refl g slot ts
  have nil : ∀ {α : Type} (x : List α), x = x ++ [] := fun x => (List.append_nil x).symm
  cases o with
  | out t =>
    unfold Frame.put
    show f.After (if snk && t.isPoison then (f.send ts l t d).poisonSink slot l t else f.send ts l t d) slot ts
      ([], [], [], if snk && t.isPoison then [(slot, l, t)] else [])
    split
    · exact (Frame.send_after f slot ts t d hl).quiet ⟨same _, ⟨nil _, nil _, nil _, rfl⟩, id⟩
    · exact Frame.send_after f slot ts t d hl
  | branch b link =>
    refine (Frame.send_after f slot ts link d hl).quiet ⟨same _, ⟨?_, nil _, nil _, nil _⟩, id⟩
    show f.bouts ++ _ = (f.send ts l link d).bouts ++ _
    rw [← Frame.send_eq]
    rfl
  | swreg n v => exact ⟨same _, ⟨nil _, rfl, nil _, nil _⟩, id⟩
  | resume h => exact ⟨same _, ⟨nil _, nil _, rfl, nil _⟩, id⟩
  | fail t => exact ⟨same _, ⟨nil _, nil _, nil _, rfl⟩, id⟩
  | sample v =>
    refine (Frame.send_after f slot ts (.value v) d hl).quiet ⟨?_, ⟨nil _, nil _, nil _, nil _⟩, fun _ => ?_⟩
    · refine ⟨rfl, rfl, rfl, rfl, rfl, rfl, rfl, rfl, fun k hk => ⟨rfl, rfl, ?_⟩, fun _ _ => rfl⟩
      show mget (mset f.samples slot (.value v)) k = mget (f.send ts l (.value v) d).samples k
      rw [mget_mset, if_neg hk, ← Frame.send_eq]
    · show (mget (mset f.samples slot (.value v)) slot).isSome = true
      rw [mget_mset_self]; rfl

/-! ## One lane -/

/-- What the lane's predicate and operands make of it, as `due` says it. -/
def Frame.goOut (f : Frame) (slot nops : Nat) (pm : BitVec 2) (l : Nat) (v : Word → Word → Word → LaneOut) : Option LaneOut :=
  match f.laneGo slot nops pm l with
  | .wait => none
  | .off => some (.out .null)
  | .pois t => some (.out t)
  | .fire => some (match (f.ops slot nops l).find? Tok.isPoison with
    | some t => .out t
    | none => if (f.ops slot nops l).contains .null then .out .null else v (f.opVal 0 slot l) (f.opVal 1 slot l) (f.opVal 2 slot l))

theorem Frame.fireLane_did (f : Frame) (slot nops : Nat) (pm : BitVec 2) (ts : List (BitVec 9)) (snk : Bool) (v : Word → Word → Word → LaneOut)
    (fn : Frame → Nat → Word → Word → Word → LaneOut) {l : Nat} (hl : l < 64) (hv : ∀ a b c, fn f l a b c = v a b c) :
    match f.goOut slot nops pm l v with
    | none => f.fireLane slot nops pm ts snk fn l = f
    | some o => (f.fireLane slot nops pm ts snk fn l).doneIn slot l = true ∧ (f.fireLane slot nops pm ts snk fn l).Did slot ts snk l o := by
  have put_did (g : Frame) (d : Nat) (o : LaneOut) : (g.put slot l ts snk d o).Did slot ts snk l o := by
    cases o with
    | out t =>
      refine ⟨fun tg hm q hq => ?_, fun hs hp => ?_⟩
      · rw [Frame.put_out_tok]; exact Frame.send_tok g ts l t d hm hq
      · unfold Frame.put
        show (slot, l, t) ∈ (if snk && t.isPoison then (g.send ts l t d).poisonSink slot l t else g.send ts l t d).spois
        rw [hs, hp, Bool.and_self, if_pos rfl]
        exact List.mem_append_right _ (List.mem_singleton.2 rfl)
    | branch b link => exact ⟨fun tg hm q hq => Frame.send_tok g ts l link d hm hq, List.mem_append_right _ (List.mem_singleton.2 rfl)⟩
    | swreg n v => exact List.mem_append_right _ (List.mem_singleton.2 rfl)
    | resume h => exact List.mem_append_right _ (List.mem_singleton.2 rfl)
    | fail t => exact List.mem_append_right _ (List.mem_singleton.2 rfl)
    | sample v =>
      refine ⟨fun tg hm q hq => Frame.send_tok g ts l (.value v) d hm hq, ?_⟩
      show (mget (mset g.samples slot (.value v)) slot).isSome = true
      rw [mget_mset_self]; rfl
  have send_did (g : Frame) (t : Tok) (d : Nat) (ht : t.isPoison = false) : (g.send ts l t d).Did slot ts snk l (.out t) :=
    ⟨fun tg hm q hq => Frame.send_tok g ts l t d hm hq, fun _ hp => absurd (ht.symm.trans hp) (by decide)⟩
  have mark (g : Frame) (o : LaneOut) (h : g.Did slot ts snk l o) : (g.markDone slot l).Did slot ts snk l o := by
    cases o <;> exact h
  have dn (g : Frame) : (g.markDone slot l).doneIn slot l = true := by rw [Frame.markDone_done _ _ _ _ _ hl]; simp
  unfold Frame.goOut Frame.fireLane
  cases f.laneGo slot nops pm l with
  | wait => rfl
  | off => exact ⟨dn _, mark _ _ (send_did f .null _ rfl)⟩
  | pois t => exact ⟨dn _, mark _ _ (put_did f 0 (.out t))⟩
  | fire =>
    dsimp only
    cases (f.ops slot nops l).find? Tok.isPoison with
    | some t => exact ⟨(Frame.put_done ..).trans (dn _), put_did _ _ _⟩
    | none =>
      dsimp only
      cases (f.ops slot nops l).contains .null with
      | true => exact ⟨(Frame.send_done ..).trans (dn _), send_did _ _ _ rfl⟩
      | false =>
        simp only [Bool.false_eq_true, if_false, hv]
        exact ⟨(Frame.put_done ..).trans (dn _), put_did _ _ _⟩

/-- A lane's firing leaves apart what it does not make. -/
theorem Frame.fireLane_after (f : Frame) (slot nops : Nat) (pm : BitVec 2) (ts : List (BitVec 9)) (snk : Bool) (v : Word → Word → Word → LaneOut)
    (fn : Frame → Nat → Word → Word → Word → LaneOut) {l : Nat} (hl : l < 64) (hv : ∀ a b c, fn f l a b c = v a b c) :
    f.After (f.fireLane slot nops pm ts snk fn l) slot ts (madeOf slot snk l (f.goOut slot nops pm l v)) := by
  unfold Frame.goOut Frame.fireLane
  cases f.laneGo slot nops pm l with
  | wait => exact .refl ..
  | off => exact (Frame.null_after f slot ts snk _ hl).then (Frame.markDone_after ..)
  | pois t => exact (Frame.put_after f slot ts snk 0 (.out t) hl).then (Frame.markDone_after ..)
  | fire =>
    dsimp only
    have h0 : f.After ((f.markFired slot l).markDone slot l) slot ts ([], [], [], []) := (Frame.markFired_after ..).quiet (Frame.markDone_after ..)
    cases (f.ops slot nops l).find? Tok.isPoison with
    | some t => exact h0.quiet (Frame.put_after _ slot ts snk _ _ hl)
    | none =>
      dsimp only
      cases (f.ops slot nops l).contains .null with
      | true => exact h0.quiet (Frame.null_after _ slot ts snk _ hl)
      | false =>
        simp only [Bool.false_eq_true, if_false, hv]
        exact h0.quiet (Frame.put_after _ slot ts snk _ _ hl)

/-- What was done in lane `l` stays done in a frame that agrees on the lane's tokens and has only grown. -/
theorem Frame.Did.mono {f g : Frame} {slot : Nat} {ts : List (BitVec 9)} {snk : Bool} {l : Nat} {o : LaneOut} {m} (h : f.Did slot ts snk l o)
    (he : g.LaneEq l f) (hg : f.After g slot ts m) : g.Did slot ts snk l o := by
  obtain ⟨g1, g2, g3, g4⟩ := hg.gains
  cases o with
  | out t => exact ⟨fun tg hm q hq => (he.1 _ _).trans (h.1 tg hm q hq), fun a b => g4 ▸ List.mem_append_left _ (h.2 a b)⟩
  | branch b link => exact ⟨fun tg hm q hq => (he.1 _ _).trans (h.1 tg hm q hq), g1 ▸ List.mem_append_left _ h.2⟩
  | swreg n v => exact (g2 ▸ List.mem_append_left _ h : _ ∈ g.swr)
  | resume w => exact (g3 ▸ List.mem_append_left _ h : _ ∈ g.fres)
  | fail t => exact (g4 ▸ List.mem_append_left _ h : _ ∈ g.spois)
  | sample v => exact ⟨fun tg hm q hq => (he.1 _ _).trans (h.1 tg hm q hq), hg.samples h.2⟩

theorem Frame.LaneEq.goOut {l : Nat} {f g : Frame} (h : f.LaneEq l g) (slot nops : Nat) (pm : BitVec 2) (v : Word → Word → Word → LaneOut) :
    f.goOut slot nops pm l v = g.goOut slot nops pm l v := by
  unfold Frame.goOut
  rw [h.laneGo, h.ops, h.opVal, h.opVal, h.opVal]

/-! ## Every lane -/

/-- What a slot makes in a list of lanes, by their outcomes. -/
def madeIn (slot : Nat) (snk : Bool) (o : Nat → Option LaneOut) (ls : List Nat) :
    List (Nat × Nat × BOut) × List (Nat × Nat × Nat × Word) × List (Nat × Word) × List (Nat × Nat × Tok) :=
  ls.foldr (fun l m => MadeSum (madeOf slot snk l (o l)) m) ([], [], [], [])
/-- The same as the lists of the statements give it. -/
theorem madeIn_eq (slot : Nat) (snk : Bool) (o : Nat → Option LaneOut) (ls : List Nat) :
    let made := ls.filterMap (fun l => (o l).map (fun x => (l, x)))
    madeIn slot snk o ls = ((made.map (fun p => p.2.bout slot p.1)).flatten, (made.map (fun p => p.2.write slot p.1)).flatten,
      (made.map (fun p => p.2.wake p.1)).flatten, (made.map (fun p => p.2.spoiled slot snk p.1)).flatten) := by
  induction ls with
  | nil => rfl
  | cons l r ih =>
    show MadeSum (madeOf slot snk l (o l)) (madeIn slot snk o r) = _
    rw [ih]
    cases ho : o l with
    | none => simp [madeOf, MadeSum, ho]
    | some x => simp [madeOf, MadeSum, ho]

theorem Frame.fireList_after (f g : Frame) (slot nops : Nat) (pm : BitVec 2) (ts : List (BitVec 9)) (snk : Bool) (v : Nat → Word → Word → Word → LaneOut)
    (fn : Frame → Nat → Word → Word → Word → LaneOut) (hv : ∀ g l a b c, fn g l a b c = v l a b c) (ls : List Nat) (h64 : ∀ l ∈ ls, l < 64) (hn : ls.Nodup)
    (he : ∀ l ∈ ls, g.LaneEq l f) :
    g.After (ls.foldl (fun g l => g.fireLane slot nops pm ts snk fn l) g) slot ts (madeIn slot snk (fun l => f.goOut slot nops pm l (v l)) ls) := by
  induction ls generalizing g with
  | nil => exact .refl ..
  | cons l r ih =>
    obtain ⟨hl, hr⟩ := List.nodup_cons.1 hn
    have l64 := h64 l (List.mem_cons_self ..)
    have h1 := Frame.fireLane_after g slot nops pm ts snk (v l) fn l64 (hv g l)
    rw [(he l (List.mem_cons_self ..)).goOut] at h1
    refine h1.trans (ih _ (fun x hx => h64 x (List.mem_cons_of_mem _ hx)) hr (fun x hx => ?_))
    exact (Frame.fireLane_other g slot nops pm ts snk fn l64 (h64 x (List.mem_cons_of_mem _ hx)) (fun e => hl (e ▸ hx))).trans (he x (List.mem_cons_of_mem _ hx))

/-- In every active lane a class L slot does what `goOut` says. -/
theorem Frame.fireAll_did (f : Frame) (slot nops : Nat) (pm : BitVec 2) (ts : List (BitVec 9)) (snk : Bool)
    (v : Nat → Word → Word → Word → LaneOut) (fn : Frame → Nat → Word → Word → Word → LaneOut) (hv : ∀ g l a b c, fn g l a b c = v l a b c)
    {l : Nat} (hl : l ∈ lanesOf f.mask) :
    match f.goOut slot nops pm l (v l) with
    | none => (f.fireAll slot nops pm ts snk fn).LaneEq l f
    | some o => (f.fireAll slot nops pm ts snk fn).doneIn slot l = true ∧ (f.fireAll slot nops pm ts snk fn).Did slot ts snk l o := by
  have h64 : l < 64 := (mem_lanesOf.1 hl).1
  obtain ⟨a, b, hab⟩ := List.append_of_mem hl
  have hnd := lanesOf_nodup f.mask
  have hmem : ∀ x ∈ lanesOf f.mask, x < 64 := fun x hx => (mem_lanesOf.1 hx).1
  unfold Frame.fireAll
  rw [hab] at hnd hmem ⊢
  have hna : l ∉ a := fun h => (List.nodup_append.1 hnd).2.2 l h l (List.mem_cons_self ..) rfl
  have hcb := List.nodup_cons.1 (List.nodup_append.1 hnd).2.1
  have hnb : l ∉ b := hcb.1
  have hb : ∀ x ∈ b, x < 64 := fun x hx => hmem x (List.mem_append_right _ (List.mem_cons_of_mem _ hx))
  rw [List.foldl_append, List.foldl_cons]
  generalize hg : a.foldl (fun g l => g.fireLane slot nops pm ts snk fn l) f = g
  have h1 : g.LaneEq l f :=
    hg ▸ Frame.fireList_other f slot nops pm ts snk fn a l (fun x hx => hmem x (List.mem_append_left _ hx)) h64 hna
  have h3 := Frame.fireList_other (g.fireLane slot nops pm ts snk fn l) slot nops pm ts snk fn b l hb h64 hnb
  have h5 := Frame.fireList_after (g.fireLane slot nops pm ts snk fn l) (g.fireLane slot nops pm ts snk fn l) slot nops pm ts snk v fn hv b hb hcb.2
    (fun _ _ => Frame.LaneEq.refl _ _)
  have h2 := Frame.fireLane_did g slot nops pm ts snk (v l) fn h64 (hv g l)
  rw [h1.goOut] at h2
  cases hq : f.goOut slot nops pm l (v l) with
  | none =>
    rw [hq] at h2
    dsimp only at h2 ⊢
    rw [h2] at h3 ⊢
    exact h3.trans h1
  | some o =>
    rw [hq] at h2
    exact ⟨(h3.2 slot).trans h2.1, h2.2.mono h3 h5⟩

/-! ## R79 and R80 as `due` says them -/

theorem ops_all (f : Frame) (slot l : Nat) (ps : List Nat) (h : (ps.map (fun p => f.tok p slot l)).all Option.isSome = true) :
    (ps.map (fun p => f.tok p slot l)).filterMap id = ps.map (fun p => (f.tok p slot l).getD .null) ∧
      ((ps.map (fun p => f.tok p slot l)).contains (some .null) = (ps.map (fun p => (f.tok p slot l).getD .null)).contains .null) := by
  induction ps with
  | nil => exact ⟨rfl, rfl⟩
  | cons p r ih =>
    simp only [List.map_cons, List.all_cons, Bool.and_eq_true] at h
    obtain ⟨t, ht⟩ := Option.isSome_iff_exists.1 h.1
    obtain ⟨h1, h2⟩ := ih h.2
    rw [List.map_cons, List.map_cons, ht]
    refine ⟨congrArg (t :: ·) h1, ?_⟩
    rw [List.contains_cons, List.contains_cons, h2]
    congr 1

theorem due_eq (e : Env) (pm : BitVec 2) (nops l : Nat) (v : Word → Word → Word → LaneOut) (h3 : pm ≠ 3#2) (hd : e.f.doneIn e.slot l = false) :
    e.due pm nops l v = e.f.goOut e.slot nops pm l v := by
  have hall : ((List.range nops).map (fun p => e.f.tok p e.slot l)).all Option.isSome = (List.range nops).all (fun p => (e.f.tok p e.slot l).isSome) := by
    rw [List.all_map]; rfl
  unfold Env.due Frame.goOut Frame.laneGo Frame.laneGoP
  simp only [hd, Bool.false_eq_true, if_false, hall]
  have fire : (if (List.range nops).all (fun p => (e.f.tok p e.slot l).isSome) = true then
      some (match (((List.range nops).map (fun p => e.f.tok p e.slot l)).filterMap id).find? Tok.isPoison with
        | some k => LaneOut.out k
        | none => if ((List.range nops).map (fun p => e.f.tok p e.slot l)).contains (some .null) = true then .out .null
            else v (e.f.opVal 0 e.slot l) (e.f.opVal 1 e.slot l) (e.f.opVal 2 e.slot l))
    else none) =
    (match (if (List.range nops).all (fun p => (e.f.tok p e.slot l).isSome) = true then LaneGo.fire else LaneGo.wait) with
      | .wait => none
      | .off => some (.out .null)
      | .pois t => some (.out t)
      | .fire => some (match (e.f.ops e.slot nops l).find? Tok.isPoison with
        | some t => .out t
        | none => if (e.f.ops e.slot nops l).contains .null then .out .null else v (e.f.opVal 0 e.slot l) (e.f.opVal 1 e.slot l) (e.f.opVal 2 e.slot l))) := by
    by_cases h : (List.range nops).all (fun p => (e.f.tok p e.slot l).isSome) = true
    · obtain ⟨h1, h2⟩ := ops_all e.f e.slot l (List.range nops) (hall.trans h)
      simp only [if_pos h, h1, h2]
      rfl
    · simp only [if_neg h]
  by_cases h0 : pm = 0#2
  · simp only [if_pos h0]
    exact fire
  · simp only [if_neg h0, if_neg h3]
    cases ht : e.f.tok 3 e.slot l with
    | none => rfl
    | some t =>
      cases t with
      | null => rfl
      | poison a b c => rfl
      | value p =>
        have hb : (if pm = 1#2 then p.getLsbD 0 else !p.getLsbD 0) = (p.getLsbD 0 == (pm == 1#2)) := by
          by_cases h1 : pm = 1#2
          · subst h1; cases p.getLsbD 0 <;> rfl
          · have : (pm == 1#2) = false := by simpa using h1
            rw [if_neg h1, this]; cases p.getLsbD 0 <;> rfl
        simp only [hb]
        by_cases hq : (p.getLsbD 0 == (pm == 1#2)) = true
        · simp only [hq, if_true]
          exact fire
        · simp only [hq, Bool.false_eq_true, if_false]

/-- The outcome of an active lane, resolved or not, as the statements give it. -/
theorem made_goOut (e : Env) (pm : BitVec 2) (nops l : Nat) (v : Word → Word → Word → LaneOut) (h3 : pm ≠ 3#2) :
    e.f.goOut e.slot nops pm l v = if e.f.doneIn e.slot l then none else e.due pm nops l v := by
  cases hd : e.f.doneIn e.slot l with
  | false => rw [due_eq e pm nops l v h3 hd]; rfl
  | true => unfold Frame.goOut Frame.laneGo Frame.laneGoP; simp [hd]

/-- The meaning of a class L slot, said once: with a valid PM and MOD it takes a step in which only the frame of its warp changes, which records
what the slot made in the lanes not yet resolved, and no more; and in every such lane it does what R79 and R80 say. -/
theorem slotL_row {s : State} {e : Env} (ha : At s e) {pm : BitVec 2} (h3 : pm ≠ 3#2) (nops : Nat) (ts : List (BitVec 9)) (snk : Bool)
    (fn : Env → Frame → Nat → Word → Word → Word → LaneOut) (v : Nat → Word → Word → Word → LaneOut) (hv : ∀ g l a b c, fn e g l a b c = v l a b c) :
    let made := (lanesOf e.f.mask).filterMap (fun l => if e.f.doneIn e.slot l then none else (e.due pm nops l (v l)).map (fun o => (l, o)))
    ∃ f, slotL s pm false nops ts snk fn = .next (close s (s.dispatch e f)) ∧ e.f.Apart f e.slot ts ∧
      e.f.Gains f (made.map (fun p => p.2.bout e.slot p.1)).flatten (made.map (fun p => p.2.write e.slot p.1)).flatten (made.map (fun p => p.2.wake p.1)).flatten
        (made.map (fun p => p.2.spoiled e.slot snk p.1)).flatten ∧
      ∀ l ∈ lanesOf e.f.mask, e.f.doneIn e.slot l = false →
        match e.due pm nops l (v l) with
        | none => f.doneIn e.slot l = false ∧ ∀ p sl, f.tok p sl l = e.f.tok p sl l
        | some o => f.doneIn e.slot l = true ∧ f.Did e.slot ts snk l o := by
  intro made
  have hf := Frame.fireList_after e.f e.f e.slot nops pm ts snk v (fn e) hv (lanesOf e.f.mask) (fun x hx => (mem_lanesOf.1 hx).1) (lanesOf_nodup _)
    (fun _ _ => Frame.LaneEq.refl _ _)
  rw [madeIn_eq] at hf
  have hm : (lanesOf e.f.mask).filterMap (fun l => (e.f.goOut e.slot nops pm l (v l)).map (fun x => (l, x))) = made := by
    show _ = (lanesOf e.f.mask).filterMap _
    congr 1
    funext l
    rw [made_goOut e pm nops l (v l) h3]
    split <;> rfl
  rw [hm] at hf
  refine ⟨_, slotL_next ha.1 ha.2 h3 nops ts snk fn, hf.apart, hf.gains, ?_⟩
  intro l hl hd
  have h := Frame.fireAll_did e.f e.slot nops pm ts snk v (fn e) hv hl
  rw [due_eq e pm nops l (v l) h3 hd]
  cases hq : e.f.goOut e.slot nops pm l (v l) with
  | none => rw [hq] at h; exact ⟨(h.2 _).trans hd, h.1⟩
  | some o => rw [hq] at h; exact h

end Sys2Proof.Machine
end

