-- ==== Sys2Proof/Tests/Slice0.lean ====
section
/-!
SUPPORT. Sys2Proof/Tests/Slice0.lean: ill-formed terms refused, words of the spec decoded, slots and events run for one step on small states, and
for each statement about the module a state and operands that meet its hypotheses.
-/
namespace Sys2Proof.Tests
open Sys2Proof Sys2Proof.Machine Sys2Proof.Claims

set_option Elab.async false
set_option maxRecDepth 100000

/-! ## Helpers -/

/-- The state after reset with one instruction placed, and the tokens of its operands and predicate in lane 0. -/
def placedTok (w : Nat) (ts : NMap Tok) : State :=
  let s := State.reset.withFetchWord 32 w
  match s.env? with
  | some e => s.putFrame e { e.f with toks := ts }
  | none => s
def placed (w : Nat) (a b c : Word) : State :=
  placedTok w [(tokKey 0 0 0, .value a), (tokKey 1 0 0, .value b), (tokKey 2 0 0, .value c), (tokKey 3 0 0, .value 1)]
/-- What a state's next step leaves. -/
def after (s : State) : Option State :=
  match step s with
  | .next t => some t
  | _ => none
/-- The token that the next step delivers to operand a of slot 1 in lane 0. -/
def made (w : Nat) (a b c : Word) : Option Tok :=
  let s := placed w a b c
  (after s).bind (fun t => (s.env?.bind (t.frameAfter ·)).bind (·.tok 0 1 0))
/-- The frame of the placed warp. -/
def frameOf (s : State) : Option Frame := (s.warp 4).bind Warp.frame
/-- The frame of the placed warp changed. -/
def inFrame (s : State) (g : Frame → Frame) : State := s.updFid 4 5 g
/-- The placed warp stands at its slot. -/
theorem at_placed (s : State) (h : s.env?.isSome = true) (p : s.powered = true) : At s (s.env?.get h) := ⟨p, by simp⟩
/-- `At` for a state whose environment is computed. -/
theorem at_of {s : State} {e : Env} (p : s.powered = true) (h : s.env? = some e) : At s e := ⟨p, h⟩
/-- A fact about the environment of a state, as a test on it. -/
theorem at_any {s : State} {q : Env → Prop} [DecidablePred q] (p : s.powered = true) (h : (s.env?.any (fun e => decide (q e))) = true) :
    ∃ e, At s e ∧ q e := by
  cases he : s.env? with
  | none => rw [he] at h; cases h
  | some e => rw [he] at h; exact ⟨e, ⟨p, he⟩, of_decide_eq_true h⟩

/-- The same with the slot's word known. -/
theorem instr_any {s : State} {i : Instr} {q : Env → Prop} [DecidablePred q] (p : s.powered = true)
    (h : (s.env?.any (fun e => decide ((encode i).head? = some (e.f.word e.slot) ∧ q e))) = true) : ∃ e, AtInstr s e i ∧ q e :=
  let ⟨e, a, b, c⟩ := at_any p h
  ⟨e, ⟨a, b⟩, c⟩
/-- Places and causes are compared by their parts. -/
def decPlace : DecidableEq (Except (BitVec 8) (Space × Nat))
  | .ok a, .ok b => decidable_of_iff (a = b) ⟨congrArg _, fun h => by cases h; rfl⟩
  | .error a, .error b => decidable_of_iff (a = b) ⟨congrArg _, fun h => by cases h; rfl⟩
  | .ok _, .error _ => isFalse (fun h => nomatch h)
  | .error _, .ok _ => isFalse (fun h => nomatch h)

/-! ## Ill-formed terms -/

theorem test_ill_formed_operand_target : wellFormed (.add 0 0 0x1FF 0x040) = false := by decide
theorem test_ill_formed_second_target : wellFormed (.add 0 0 0x1C8 0x001) = false := by decide
theorem test_ill_formed_only_target : wellFormed (.addi 0 0 0x0C0) = false := by decide
theorem test_ill_formed_literal : wellFormed (.genl 0 0 0x1FF 0x001 7 1) = false := by decide
theorem test_ill_formed_cluster : wellFormed (.icacheFillArrive 104 0) = false := by decide
theorem test_ill_formed_context : wellFormed (.msixRateTimer 64) = false := by decide
theorem test_ill_formed_core : wellFormed (.matrixOpRetire 832) = false := by decide
theorem test_ill_formed_channel : wellFormed (.copyBeat 0 8) = false := by decide
theorem test_ill_formed_queue : wellFormed (.qbindMarkerHead 1024) = false := by decide
theorem test_ill_formed_hall : wellFormed (.hallFatalError 8 0) = false := by decide
theorem test_ill_formed_module : wellFormed (.hlRead 0 12) = false := by decide
theorem test_ill_formed_port : wellFormed (.hslPortDegrade 64) = false := by decide
theorem test_ill_formed_queue_context : wellFormed (.queueAllocate 0 64 .stage 1 none) = false := by decide
theorem test_well_formed : wellFormed (.add 3 7 0x1C7 0x13F) = true := by decide

/-! ## Decoding -/

/-- One word of each instruction of group G0, put together from the fields that the opcode table gives its row. -/
theorem test_decode_G0 : ∀ p ∈ ([
    (0x00A14704, .mov 1 0xa3 0x104), (0x01214704, .void 1 0xa3 0x104), (0x01A14704, .pick 1 0xa3 0x104),
    (0x023959AC, .genk 1 0xc 0xac 0x1ac), (0x033359AC, .sreg 1 0x9ac 0x1ac), (0x03B359FF, .swreg 1 0x9ac),
    (0x04294704, .shfl 1 2 0xa3 0x104), (0x04A94704, .vote 1 2 0xa3 0x104), (0x05294704, .redx 1 2 0xa3 0x104),
    (0x05A94704, .scanx 1 2 0xa3 0x104), (0x06214704, .elect 1 0xa3 0x104), (0x0823FFFF, .emret 1),
    (0x08A3FFFF, .yield 1), (0x093359FF, .trap 1 0x9ac), (0x09A3FFFF, .fresume 1),
    (0xCD3359AC, .gen 0x699ac 0x1ac), (0xED3359AC, .genf 0x699ac 0x1ac)] : List (Nat × Instr)), decodeTableWord 32 p.1 = some p.2 := by decide

/-- One word of each instruction of group G1, put together from the fields that the opcode table gives its row. -/
theorem test_decode_G1 : ∀ p ∈ ([
    (0x20294704, .add 1 2 0xa3 0x104), (0x20A94704, .sub 1 2 0xa3 0x104), (0x213359AC, .addi 1 0x9ac 0x1ac),
    (0x21A94704, .mul 1 2 0xa3 0x104), (0x22294704, .mulh 1 2 0xa3 0x104), (0x22A94704, .mad 1 2 0xa3 0x104),
    (0x23294704, .div 1 2 0xa3 0x104), (0x23A94704, .rem 1 2 0xa3 0x104), (0x24294704, .min 1 2 0xa3 0x104),
    (0x24A94704, .max 1 2 0xa3 0x104), (0x25294704, .abs 1 2 0xa3 0x104), (0x25A94704, .neg 1 2 0xa3 0x104),
    (0x26294704, .and 1 2 0xa3 0x104), (0x26A94704, .or 1 2 0xa3 0x104), (0x27294704, .xor 1 2 0xa3 0x104),
    (0x27A94704, .andn 1 2 0xa3 0x104), (0x28294704, .not 1 2 0xa3 0x104), (0x28A94704, .shl 1 2 0xa3 0x104),
    (0x29294704, .shr 1 2 0xa3 0x104), (0x29A94704, .sar 1 2 0xa3 0x104), (0x2A294704, .rotl 1 2 0xa3 0x104),
    (0x2AA059AC, .shli 1 0 0x2c 0x1ac), (0x2B2059AC, .shri 1 0 0x2c 0x1ac), (0x2BA059AC, .sari 1 0 0x2c 0x1ac),
    (0x2C294704, .bfx 1 2 0xa3 0x104), (0x2CA94704, .bfi 1 2 0xa3 0x104), (0x2D294704, .popc 1 2 0xa3 0x104),
    (0x2DA94704, .clz 1 2 0xa3 0x104), (0x2E294704, .ctz 1 2 0xa3 0x104), (0x2EA94704, .brev 1 2 0xa3 0x104),
    (0x2F214704, .sel 1 0xa3 0x104), (0x30294704, .cmpeq 1 2 0xa3 0x104), (0x30A94704, .cmpne 1 2 0xa3 0x104),
    (0x31294704, .cmplt 1 2 0xa3 0x104), (0x31A94704, .cmple 1 2 0xa3 0x104), (0x323359AC, .cmpeqi 1 0x9ac 0x1ac),
    (0x32B359AC, .cmplti 1 0x9ac 0x1ac), (0x33294704, .lea 1 2 0xa3 0x104), (0x343359AC, .andi 1 0x9ac 0x1ac),
    (0x34B359AC, .ori 1 0x9ac 0x1ac), (0x353359AC, .xori 1 0x9ac 0x1ac), (0x35A94704, .sext 1 2 0xa3 0x104),
    (0x36294704, .zext 1 2 0xa3 0x104), (0x36A14704, .byteperm 1 0xa3 0x104)] : List (Nat × Instr)), decodeTableWord 32 p.1 = some p.2 := by decide

/-- One word of each instruction of group G2, put together from the fields that the opcode table gives its row. -/
theorem test_decode_G2 : ∀ p ∈ ([
    (0x40294704, .fadd 1 2 0xa3 0x104), (0x40A94704, .fsub 1 2 0xa3 0x104), (0x41294704, .fmul 1 2 0xa3 0x104),
    (0x41A94704, .ffma 1 2 0xa3 0x104), (0x42294704, .fdiv 1 2 0xa3 0x104), (0x42A94704, .fsqrt 1 2 0xa3 0x104),
    (0x43294704, .fmin 1 2 0xa3 0x104), (0x43A94704, .fmax 1 2 0xa3 0x104), (0x44214704, .fabs 1 0xa3 0x104),
    (0x44A14704, .fneg 1 0xa3 0x104), (0x45294704, .fcmp 1 2 0xa3 0x104), (0x45A14704, .fclass 1 0xa3 0x104),
    (0x46294704, .frnd 1 2 0xa3 0x104), (0x46A94704, .fscale 1 2 0xa3 0x104), (0x48294704, .dadd 1 2 0xa3 0x104),
    (0x48A94704, .dsub 1 2 0xa3 0x104), (0x49294704, .dmul 1 2 0xa3 0x104), (0x49A94704, .dfma 1 2 0xa3 0x104),
    (0x4A294704, .ddiv 1 2 0xa3 0x104), (0x4AA94704, .dsqrt 1 2 0xa3 0x104), (0x4B294704, .dcmp 1 2 0xa3 0x104),
    (0x4BA94704, .dminmax 1 2 0xa3 0x104), (0x50294704, .faddX2 1 2 0xa3 0x104), (0x50A94704, .fsubX2 1 2 0xa3 0x104),
    (0x51294704, .fmulX2 1 2 0xa3 0x104), (0x51A94704, .ffmaX2 1 2 0xa3 0x104), (0x52294704, .fdotX2 1 2 0xa3 0x104),
    (0x54294704, .haddX4 1 2 0xa3 0x104), (0x54A94704, .hmulX4 1 2 0xa3 0x104), (0x55294704, .hfmaX4 1 2 0xa3 0x104),
    (0x55A94704, .baddX4 1 2 0xa3 0x104), (0x56294704, .bmulX4 1 2 0xa3 0x104), (0x56A94704, .bfmaX4 1 2 0xa3 0x104),
    (0x58294704, .cvtF2i 1 2 0xa3 0x104), (0x58A94704, .cvtI2f 1 2 0xa3 0x104), (0x59294704, .cvtF2f 1 2 0xa3 0x104),
    (0x59A94704, .cvtI2i 1 2 0xa3 0x104), (0x5A294704, .cvtH2f 1 2 0xa3 0x104), (0x5AA14704, .cvtF2d 1 0xa3 0x104),
    (0x5AB14704, .cvtD2f 1 0 0xa3 0x104), (0x5C294704, .ncvtH 1 2 0xa3 0x104), (0x5CA94704, .ncvtB 1 2 0xa3 0x104),
    (0x5D294704, .ncvtE4 1 2 0xa3 0x104), (0x5DA94704, .ncvtE5 1 2 0xa3 0x104), (0x5E294704, .ncvtF4 1 2 0xa3 0x104),
    (0x5EA94704, .ncvtSc 1 2 0xa3 0x104), (0x5F294704, .ncvtI8 1 2 0xa3 0x104), (0x5FA94704, .ncvtI4 1 2 0xa3 0x104)] : List (Nat × Instr)), decodeTableWord 32 p.1 = some p.2 := by decide

/-- One word of each instruction of group G3, put together from the fields that the opcode table gives its row. -/
theorem test_decode_G3 : ∀ p ∈ ([
    (0x60294704, .rcp 1 2 0xa3 0x104), (0x60A94704, .rsq 1 2 0xa3 0x104), (0x61294704, .exp2 1 2 0xa3 0x104),
    (0x61A94704, .log2 1 2 0xa3 0x104), (0x62294704, .sin 1 2 0xa3 0x104), (0x62A94704, .cos 1 2 0xa3 0x104),
    (0x63294704, .tanh 1 2 0xa3 0x104), (0x64294704, .pack 1 2 0xa3 0x104), (0x64A94704, .unpack 1 2 0xa3 0x104),
    (0x68294704, .mres 1 2 0xa3 0x104), (0x68A3FFFF, .mrel 1), (0x69294704, .mma 1 2 0xa3 0x104),
    (0x69A94704, .mman 1 2 0xa3 0x104), (0x6A294704, .mmanp 1 2 0xa3 0x104), (0x6AA14704, .mzero 1 0xa3 0x104),
    (0x6B214704, .mcom 1 0xa3 0x104), (0x6BA14704, .mwait 1 0xa3 0x104), (0x6C214704, .mprog 1 0xa3 0x104),
    (0x6CA14704, .mstat 1 0xa3 0x104), (0x70294704, .recdef 1 2 0xa3 0x104), (0x70A14704, .recpin 1 0xa3 0x104),
    (0x71214704, .recunpin 1 0xa3 0x104), (0x71A14704, .recdrop 1 0xa3 0x104), (0x7223FFFF, .recdone 1),
    (0x72A14704, .recmat 1 0xa3 0x104)] : List (Nat × Instr)), decodeTableWord 32 p.1 = some p.2 := by decide

/-- One word of each instruction of group G4, put together from the fields that the opcode table gives its row. -/
theorem test_decode_G4 : ∀ p ∈ ([
    (0x802699AC, .bri 1 0x699ac), (0x80A3FFFF, .br 1), (0x813359AC, .calli 1 0x9ac 0x1ac),
    (0x81A14704, .call 1 0xa3 0x104), (0x8223FFFF, .ret 1), (0x82A3FFFF, .exit 1),
    (0x842BFFFF, .binit 1 2), (0x84A94704, .barv 1 2 0xa3 0x104), (0x852BFFFF, .bard 1 2),
    (0x85A94704, .bwait 1 2 0xa3 0x104), (0x86294704, .bar 1 2 0xa3 0x104), (0x86ABFFFF, .bexpect 1 2),
    (0x88294704, .launch 1 2 0xa3 0x104), (0x88A3FFFF, .trig 1), (0x89214704, .depwait 1 0xa3 0x104),
    (0x8C294704, .qput 1 2 0xa3 0x104), (0x8CA94704, .qtake 1 2 0xa3 0x104), (0x8D23FFFF, .qclose 1),
    (0x8DA14704, .qstat 1 0xa3 0x104), (0x8E23FFFF, .qbind 1)] : List (Nat × Instr)), decodeTableWord 32 p.1 = some p.2 := by decide

/-- One word of each instruction of group G5, put together from the fields that the opcode table gives its row. -/
theorem test_decode_G5 : ∀ p ∈ ([
    (0xA02C59AC, .ld 1 0xc 2 0xc 0x1ac), (0xA0AC59AC, .ldO 1 0xc 2 0xc 0x1ac), (0xA12C59AC, .lda32 1 0xc 2 0xc 0x1ac),
    (0xA1AC59AC, .lda64 1 0xc 2 0xc 0x1ac), (0xA22C59AC, .lds 1 0xc 2 0xc 0x1ac), (0xA2AC59AC, .ldsFe 1 0xc 2 0xc 0x1ac),
    (0xA32C59AC, .ldc 1 0xc 2 0xc 0x1ac), (0xA3AC59AC, .ldt 1 0xc 2 0xc 0x1ac), (0xA42C19AC, .ldk 1 0xc 0xc 0x1ac),
    (0xA82C59AC, .st 1 0xc 2 0x19ac), (0xA8AC59AC, .sts 1 0xc 2 0x19ac), (0xA92C19AC, .stsFe 1 0xc 0x19ac),
    (0xA9AC59AC, .stc 1 0xc 2 0x19ac), (0xAA2C59AC, .stt 1 0xc 2 0x19ac), (0xAAAC59AC, .strel32 1 0xc 2 0x19ac),
    (0xAB2C59AC, .strel64 1 0xc 2 0x19ac), (0xB02C59AC, .atom32 1 0xc 2 0xc 0x1ac), (0xB0AC59AC, .atom64 1 0xc 2 0xc 0x1ac),
    (0xB12C19AC, .atomf 1 0xc 0xc 0x1ac), (0xB1AC19AC, .cas32 1 0xc 0xc 0x1ac), (0xB22C19AC, .cas64 1 0xc 0xc 0x1ac),
    (0xB2AC59AC, .atoms 1 0xc 2 0xc 0x1ac), (0xB32C59AC, .red32 1 0xc 2 0x19ac), (0xB82C4000, .fenceAcq 1 0xc 2),
    (0xB8AC4000, .fenceRel 1 0xc 2), (0xB92C4000, .fenceAr 1 0xc 2), (0xBA2C59AC, .pref 1 0xc 2 0x19ac),
    (0xBAAC19AC, .resid 1 0xc 0x19ac), (0xBB2C19AC, .disc 1 0xc 0x19ac), (0xBBAC19AC, .clean 1 0xc 0x19ac),
    (0xBC2C19AC, .ipref 1 0xc 0x19ac), (0xBCA14704, .iinv 1 0xa3 0x104), (0xBD2BFFFF, .cpy 1 2),
    (0xBE2C19AC, .feset 1 0xc 0x19ac), (0xBEAC19AC, .feclr 1 0xc 0x19ac)] : List (Nat × Instr)), decodeTableWord 32 p.1 = some p.2 := by decide

/-- Words of the spec's examples (R46, R54 to R58, and the examples of chapters 3, 6 to 10, 12, 18 and 19), each with the fields that the spec gives it. -/
theorem test_decode_spec_words : ∀ p ∈ ([
    (0xA0008403, .ld 0 0 4 2 0x003), (0x4103FE01, .fmul 0 0 0x1FF 0x001), (0x4003FFC0, .fadd 0 0 0x1FF 0x1C0), (0xE7F80081, .genf 0x3FC00 0x081),
    (0x80000003, .bri 0 3), (0x20010A04, .add 0 0 0x085 0x004), (0x3103FF85, .cmplt 0 0 0x1FF 0x185), (0x8283FFFF, .exit 0),
    (0xA8218002, .st 1 1 4 2), (0x5D1FFFC1, .ncvtE4 0 7 0x1FF 0x1C1), (0x5D03FE85, .ncvtE4 0 0 0x1FF 0x085), (0x6403FE06, .pack 0 0 0x1FF 0x006),
    (0x640C13C0, .pack 0 3 0x009 0x1C0), (0x090F43FF, .trap 0 0x7A1), (0x850FFFFF, .bard 0 3), (0x8607FFC0, .bar 0 1 0x1FF 0x1C0),
    (0xA003DC04, .ld 0 3 6 14 0x004), (0xA2840202, .ldsFe 0 4 0 1 0x002), (0xAA878000, .strel32 0 7 4 0), (0xB0000003, .atom32 0 0 0 0 0x003),
    (0xB20601C2, .cas64 0 6 0 0x1C2), (0xB3095FFF, .red32 0 9 2 0x1FFF), (0xB8818000, .fenceRel 0 1 4), (0xBA052001, .pref 0 5 1 1),
    (0xBB020000, .disc 0 2 0), (0xBC83FE05, .iinv 0 0x1FF 0x005), (0xBD03FFFF, .cpy 0 0), (0x6807FF81, .mres 0 1 0x1FF 0x181),
    (0x6883FFFF, .mrel 0), (0x6903FE05, .mma 0 0 0x1FF 0x005), (0x6993FE06, .mman 0 4 0x1FF 0x006), (0x8D03FFFF, .qclose 0),
    (0x8E03FFFF, .qbind 0), (0x8883FFFF, .trig 0), (0x8903FFC0, .depwait 0 0x1FF 0x1C0), (0x7203FFFF, .recdone 0),
    (0x7013FE04, .recdef 0 4 0x1FF 0x004), (0x4A23FFC0, .ddiv 1 0 0x1FF 0x1C0), (0x038121FF, .swreg 0 0x090), (0x03A125FF, .swreg 1 0x092),
    (0x330B8203, .lea 0 2 0x1C1 0x003), (0xA000E002, .ld 0 0 7 0 0x002), (0x50810804, .fsubX2 0 0 0x084 0x004), (0x40810A05, .fsub 0 0 0x085 0x005),
    (0x41810FC0, .ffma 0 0 0x087 0x1C0), (0xA8028003, .st 0 2 4 3), (0x0803FFFF, .emret 0), (0x0883FFFF, .yield 0),
    (0x0983FFFF, .fresume 0)] : List (Nat × Instr)), decodeTableWord 32 p.1 = some p.2 := by decide
/-- The GENL of block `bump` with its literal (R54 to R58), and one with two literals (R49). -/
theorem test_decode_genl : decodeTableWord 64 (0x00012345 * 2 ^ 32 + 0x0283FE83) = some (.genl 0 0 0x1FF 0x083 0x12345 0) ∧
    decodeTableWord 96 (0xCAFE0002 * 2 ^ 64 + 0xBEEF0001 * 2 ^ 32 + 0x028FFE83) = some (.genl 0 3 0x1FF 0x083 0xBEEF0001 0xCAFE0002) := by decide
/-- Code 0, the unassigned 0x067 (R62), and a word with IMM12[11:7] of SHLI not zero (R136) give no instruction. -/
theorem test_decode_refuses : ∀ w ∈ ([0, 0x33FFFFFF, 0x2A81FE01] : List Nat), decodeTableWord 32 w = none := by decide

/-! ### Blocks -/

/-- The header of block `axpy` (R34 to R38): four slots, two reads, one write of w3, SPECOK, and the nibble sum of R36. -/
theorem test_header_axpy : (fun h : Head => (h.valid, h.nslot, h.nread, h.wregs, h.specok, h.nsink))
    { h0 := 0xB70C8412, h1 := 0, h2 := 3, h3 := 0 } = (true, 4, 2, [3], true, 0) := by decide
/-- The header of block `bump`: seven slots, landing block, device release scope, one sink, prefetch of 64 KiB at 128 KiB. -/
theorem test_header_bump : (fun h : Head => (h.valid, h.nslot, h.nread, h.landing, h.relscope))
      { h0 := 0xB718831F, h1 := 1, h2 := 0, h3 := 0x08100000 } = (true, 7, 2, true, 4) ∧
    (fun h : Head => (h.nsink, (h.block 0 []).pfBase, (h.block 0 []).pfLen)) { h0 := 0xB718831F, h1 := 1, h2 := 0, h3 := 0x08100000 } = (1, 2, 4) := by decide
/-- A literal read as a header fails check 3 (the spec's BR to 0x0000_1050). -/
theorem test_header_literal : Head.valid { h0 := 0x00012345, h1 := 0x20010A04, h2 := 0x3103FF85, h3 := 0xA8218002 } = false := by decide
/-- The words of block `bump`. -/
def bump (w3 : Insn) : Block :=
  Head.block { h0 := 0xB718831F, h1 := 1, h2 := 0, h3 := 0x08100000 } 0x1030
    [0x04000A00, 0x0503FE84, 0xA0008403, 0x0283FE83, 0x00012345, w3, 0x3103FF85, 0xA8218002, 0x80000004]
/-- Block `bump` passes checks 6 and 7; retargeted to i5.a it passes check 6 and fails check 7 at slot 3 (the spec's last fault of that section). -/
theorem test_block_checks : ((bump 0x20010A04).check6 1, (bump 0x20010A04).check7) = (none, none) ∧
    ((bump 0x20010A05).check6 1, (bump 0x20010A05).check7) = (none, some 3) := by decide

/-! ## Class L slots: one result each, from the spec's examples or by hand from the rule named -/

/-- R131. -/
theorem test_add_wraps : made 0x2003FE01 0xffffffff 2 0 = some (.value 1) := by decide
/-- R131. -/
theorem test_sub_64_wraps : made 0x2087FE01 0 1 0 = some (.value 0xffffffffffffffff) := by decide
/-- R131. -/
theorem test_addi_negative : made 0x211FFE01 0 0 0 = some (.value 0xffffffffffffffff) := by decide
/-- R131. -/
theorem test_mul_low_half : made 0x2183FE01 0x10001 0x10001 0 = some (.value 0x20001) := by decide
/-- R131. -/
theorem test_mulh_rounds_down : made 0x2203FE01 0xffffffff 1 0 = some (.value 0xffffffff) := by decide
/-- R131. -/
theorem test_mulh_unsigned : made 0x220BFE01 0xffffffff 0xffffffff 0 = some (.value 0xfffffffe) := by decide
/-- R131. -/
theorem test_mad_wraps_once : made 0x2283FE01 0x80000000 2 7 = some (.value 7) := by decide
/-- R132. -/
theorem test_div_by_zero : made 0x230BFE01 7 0 0 = some (.value 0xffffffff) := by decide
/-- R132. -/
theorem test_div_min_by_minus_one : made 0x2303FE01 0x80000000 0xffffffff 0 = some (.value 0x80000000) := by decide
/-- R132. -/
theorem test_rem_sign : made 0x2383FE01 0xfffffff9 2 0 = some (.value 0xffffffff) := by decide
/-- R132. -/
theorem test_rem_by_zero : made 0x2383FE01 0x100000007 0 0 = some (.value 7) := by decide
/-- R133. -/
theorem test_min_signed : made 0x2403FE01 1 0xffffffff 0 = some (.value 0xffffffff) := by decide
/-- R133. -/
theorem test_max_unsigned : made 0x248BFE01 1 0xffffffff 0 = some (.value 0xffffffff) := by decide
/-- R133. -/
theorem test_abs_of_min : made 0x2503FE01 0x80000000 0 0 = some (.value 0x80000000) := by decide
/-- R133. -/
theorem test_neg_32 : made 0x2583FE01 1 0 0 = some (.value 0xffffffff) := by decide
/-- R134. -/
theorem test_and_32 : made 0x2603FE01 0xff00ff00ff00 0xfffff0f0f0f0 0 = some (.value 0xf000f000) := by decide
/-- R134. -/
theorem test_or_64 : made 0x2687FE01 0x8000000000000000 1 0 = some (.value 0x8000000000000001) := by decide
/-- R134. -/
theorem test_xor_32 : made 0x2703FE01 0xfffffffff 0xf 0 = some (.value 0xfffffff0) := by decide
/-- R134. -/
theorem test_andn : made 0x2783FE01 0xff 0xf 0 = some (.value 0xf0) := by decide
/-- R134. -/
theorem test_not_64 : made 0x2807FE01 0 0 0 = some (.value 0xffffffffffffffff) := by decide
/-- R135. -/
theorem test_shl_count_modulo : made 0x2883FE01 1 0x21 0 = some (.value 2) := by decide
/-- R135. -/
theorem test_shr_zeros_enter : made 0x2903FE01 0x80000000 0x1f 0 = some (.value 1) := by decide
/-- R135. -/
theorem test_sar_sign_enters : made 0x2983FE01 0x80000000 0x1f 0 = some (.value 0xffffffff) := by decide
/-- R135. -/
theorem test_rotl : made 0x2A03FE01 0x80000001 1 0 = some (.value 3) := by decide
/-- R136. -/
theorem test_shli_32 : made 0x2A803E01 3 0 0 = some (.value 0x80000000) := by decide
/-- R136. -/
theorem test_shri_64 : made 0x2B00D001 0xabcdef0000000000 0 0 = some (.value 0xabcdef) := by decide
/-- R136. -/
theorem test_sari_64 : made 0x2B80FE01 0x8000000000000000 0 0 = some (.value 0xffffffffffffffff) := by decide
/-- R137. -/
theorem test_bfx_sign : made 0x2C0BFE01 0xf00 0x408 0 = some (.value 0xffffffff) := by decide
/-- R137. -/
theorem test_bfx_long : made 0x2C0BFE01 0xf00 0xc808 0 = some (.value 0xf) := by decide
/-- R137. -/
theorem test_bfi : made 0x2C83FE01 0xffffffff 0 0x404 = some (.value 0xffffff0f) := by decide
/-- R138. -/
theorem test_popc_32 : made 0x2D03FE01 0xfffffffff 0 0 = some (.value 0x20) := by decide
/-- R138. -/
theorem test_clz_zero : made 0x2D83FE01 0 0 0 = some (.value 0x20) := by decide
/-- R138. -/
theorem test_ctz_64 : made 0x2E07FE01 0x10000000000 0 0 = some (.value 0x28) := by decide
/-- R138. -/
theorem test_brev_32 : made 0x2E83FE01 1 0 0 = some (.value 0x80000000) := by decide
/-- R139. -/
theorem test_sel_false : made 0x2F03FE01 5 6 2 = some (.value 6) := by decide
/-- R140. -/
theorem test_cmpeq_32 : made 0x3003FE01 0x100000001 1 0 = some (.value 1) := by decide
/-- R140. -/
theorem test_cmpne_64 : made 0x3087FE01 0x100000001 1 0 = some (.value 1) := by decide
/-- R140. -/
theorem test_cmplt_signed : made 0x3103FE01 0xffffffff 0 0 = some (.value 1) := by decide
/-- R140. -/
theorem test_cmple_unsigned : made 0x318BFE01 0xffffffff 0 0 = some (.value 0) := by decide
/-- R140. -/
theorem test_cmpeqi : made 0x321FFE01 0xffffffffffffffff 0 0 = some (.value 1) := by decide
/-- R140. -/
theorem test_cmplti : made 0x329FFE01 0xfffffffffffffffe 0 0 = some (.value 1) := by decide
/-- R141. -/
theorem test_lea : made 0x330FFE01 0x1000 5 0 = some (.value 0x1028) := by decide
/-- R134. -/
theorem test_andi_sign : made 0x341FE001 0x12340000000000ff 0 0 = some (.value 0x12340000000000f0) := by decide
/-- R134. -/
theorem test_ori : made 0x34800201 2 0 0 = some (.value 3) := by decide
/-- R134. -/
theorem test_xori_inverts : made 0x351FFE01 0 0 0 = some (.value 0xffffffffffffffff) := by decide
/-- R141. -/
theorem test_sext_8 : made 0x3583FE01 0x180 0 0 = some (.value 0xffffffffffffff80) := by decide
/-- R141. -/
theorem test_zext_16 : made 0x3607FE01 0x12345 0 0 = some (.value 0x2345) := by decide
/-- R142. -/
theorem test_byteperm_reverses : made 0x3683FE01 0x102030405060708 0 0x1234567 = some (.value 0x807060504030201) := by decide
/-- R142. -/
theorem test_byteperm_takes_b : made 0x3683FE01 0 0x1122334455667788 0xfedcba98 = some (.value 0x1122334455667788) := by decide
/-- R127. -/
theorem test_mov : made 0x0083FE01 0x77 0 0 = some (.value 0x77) := by decide
/-- R124. -/
theorem test_gen_sign : made 0xDFFFFE01 0 0 0 = some (.value 0xffffffffffffffff) := by decide
/-- R124. -/
theorem test_genf_places_20_bits : made 0xE7F80001 0 0 0 = some (.value 0x3fc00000) := by decide
/-- R129. -/
theorem test_sreg_width : made 0x03000601 0 0 0 = some (.value 0x20) := by decide
/-- R17. -/
theorem test_sreg_version : made 0x03008801 0 0 0 = some (.value 0x200) := by decide
/-- R145. -/
theorem test_vote_ballot : made 0x048BFE01 1 0 0 = some (.value 1) := by decide
/-- R145. -/
theorem test_vote_all_false : made 0x0487FE01 2 0 0 = some (.value 0) := by decide
/-- R146. -/
theorem test_redx_low_half : made 0x0503FE01 0x500000007 0 0 = some (.value 7) := by decide
/-- R146. -/
theorem test_scanx_subnormal : made 0x0587FE01 1 0 0 = some (.value 1) := by decide
/-- R144. -/
theorem test_shfl_out_of_range : made 0x040BFE01 9 0x20 0 = some (.value 9) := by decide
/-- R147. -/
theorem test_elect_lowest : made 0x0603FE01 0 0 0 = some (.value 1) := by decide
/-- R150. -/
theorem test_fadd : made 0x4003FE01 0x3f800000 0x40000000 0 = some (.value 0x40400000) := by decide
/-- R150. -/
theorem test_fadd_opposite_infinities : made 0x4003FE01 0x7f800000 0xff800000 0 = some (.value 0x7fc00000) := by decide
/-- R111. -/
theorem test_fsub_zero_rdn : made 0x408FFE01 0x3f800000 0x3f800000 0 = some (.value 0x80000000) := by decide
/-- R150. -/
theorem test_fmul_inf_zero : made 0x4103FE01 0x7f800000 0x80000000 0 = some (.value 0x7fc00000) := by decide
/-- R116. -/
theorem test_ffma_rounds_once : made 0x4183FE01 0x3f800800 0x3f800800 0xbf800000 = some (.value 0x3a000400) := by decide
/-- R150. -/
theorem test_fdiv_by_zero : made 0x4203FE01 0xbf800000 0 0 = some (.value 0xff800000) := by decide
/-- R150. -/
theorem test_fdiv_ftz_divisor : made 0x4213FE01 0x3f800000 1 0 = some (.value 0x7f800000) := by decide
/-- R150. -/
theorem test_fsqrt_minus_zero : made 0x4283FE01 0x80000000 0 0 = some (.value 0x80000000) := by decide
/-- R150. -/
theorem test_fsqrt_four : made 0x4283FE01 0x40800000 0 0 = some (.value 0x40000000) := by decide +kernel
/-- R151. -/
theorem test_fmin_zero_signs : made 0x4303FE01 0 0x80000000 0 = some (.value 0x80000000) := by decide
/-- R151. -/
theorem test_fmax_one_nan : made 0x4383FE01 0x7fc00000 0xbf800000 0 = some (.value 0xbf800000) := by decide
/-- R152. -/
theorem test_fabs : made 0x4403FE01 0xc0200000 0 0 = some (.value 0x40200000) := by decide
/-- R152. -/
theorem test_fneg_nan : made 0x4483FE01 0xffffffff 0 0 = some (.value 0x7fc00000) := by decide
/-- R153. -/
theorem test_fcmp_ne_nan : made 0x4507FE01 0x7fc00000 0x3f800000 0 = some (.value 1) := by decide
/-- R153. -/
theorem test_fcmp_lt_infinity : made 0x450BFE01 0xff800000 0xff7fffff 0 = some (.value 1) := by decide
/-- R154. -/
theorem test_fclass_minus_zero : made 0x4583FE01 0x80000000 0 0 = some (.value 8) := by decide
/-- R155. -/
theorem test_frnd_up : made 0x460BFE01 0x40200000 0 0 = some (.value 0x40400000) := by decide
/-- R155. -/
theorem test_frnd_down : made 0x460FFE01 0xc0200000 0 0 = some (.value 0xc0400000) := by decide
/-- R156. -/
theorem test_fscale_smallest : made 0x4687FE01 0x3f800000 0xffffffffffffff6b 0 = some (.value 1) := by decide +kernel
/-- R156. -/
theorem test_fscale_underflow : made 0x4687FE01 0x3f800000 0xffffffffffffff6a 0 = some (.value 0) := by decide +kernel
/-- R157. -/
theorem test_dadd : made 0x4803FE01 0x3ff0000000000000 0x3ff0000000000000 0 = some (.value 0x4000000000000000) := by decide
/-- R157. -/
theorem test_dsub_nan : made 0x4883FE01 0x7ff0000000000000 0x7ff0000000000000 0 = some (.value 0x7ff8000000000000) := by decide
/-- R157. -/
theorem test_dmul : made 0x4903FE01 0x4000000000000000 0x4000000000000000 0 = some (.value 0x4010000000000000) := by decide
/-- R157. -/
theorem test_dfma : made 0x4983FE01 0x3ff0000000000000 0x3ff0000000000000 0x3ff0000000000000 = some (.value 0x4000000000000000) := by decide
/-- R153. -/
theorem test_dcmp_le : made 0x4B0FFE01 0x8000000000000000 0 0 = some (.value 1) := by decide
/-- R157. -/
theorem test_dminmax_max : made 0x4B87FE01 0x8000000000000000 0 0 = some (.value 0) := by decide
/-- R159. -/
theorem test_fadd_x2 : made 0x5003FE01 0x3f80000040000000 0x3f80000040000000 0 = some (.value 0x4000000040800000) := by decide
/-- R159. -/
theorem test_fsub_x2_nan_apart : made 0x5083FE01 0x7fc0000040400000 0x3f8000003f800000 0 = some (.value 0x7fc0000040000000) := by decide
/-- R159. -/
theorem test_fmul_x2 : made 0x5103FE01 0x4000000040400000 0x4000000040000000 0 = some (.value 0x4080000040c00000) := by decide
/-- R159. -/
theorem test_ffma_x2 : made 0x5183FE01 0x3f8000003f800800 0x3f8000003f800800 0xbf800000bf800000 = some (.value 0x3a000400) := by decide
/-- R116. -/
theorem test_fdot_x2 : made 0x5203FE01 0xbf8000003f800800 0x3f8000003f800800 0 = some (.value 0x3a000400) := by decide
/-- R160. -/
theorem test_hadd_x4 : made 0x5403FE01 0x3c003c003c003c00 0x3c00bc0040007e00 0 = some (.value 0x4000000042007e00) := by decide
/-- R160. -/
theorem test_hmul_x4 : made 0x5483FE01 0x40003c00 0x40004000 0 = some (.value 0x44004000) := by decide
/-- R160. -/
theorem test_hfma_x4 : made 0x5503FE01 0x3c00 0x3c00 0x3c00 = some (.value 0x4000) := by decide
/-- R160. -/
theorem test_badd_x4 : made 0x5583FE01 0x3f80 0x3f80 0 = some (.value 0x4000) := by decide
/-- R160. -/
theorem test_bmul_x4 : made 0x5603FE01 0x4000 0x4000 0 = some (.value 0x4080) := by decide
/-- R160. -/
theorem test_bfma_x4 : made 0x5683FE01 0x3f80 0x3f80 0xbf80 = some (.value 0) := by decide
/-- R164. -/
theorem test_cvt_f2i_saturates : made 0x5803FE01 0x4f000000 0 0 = some (.value 0x7fffffff) := by decide
/-- R164. -/
theorem test_cvt_f2i_rdn : made 0x580FFE01 0xbfc00000 0 0 = some (.value 0xfffffffe) := by decide
/-- R163. -/
theorem test_cvt_i2f_unsigned : made 0x5893FE01 0xffffffffffffffff 0 0 = some (.value 0x5f800000) := by decide
/-- R163. -/
theorem test_cvt_f2f_half : made 0x5907FE01 0x3c000000 0 0 = some (.value 0x3ff0000000000000) := by decide
/-- R164. -/
theorem test_cvt_i2i_s8 : made 0x598FFE01 0xffffffffffffff00 0 0 = some (.value 0x80) := by decide
/-- R163. -/
theorem test_cvt_h2f_subnormal : made 0x5A03FE01 1 0 0 = some (.value 0x33800000) := by decide
/-- R163. -/
theorem test_cvt_f2d : made 0x5A83FE01 0x3f800000 0 0 = some (.value 0x3ff0000000000000) := by decide
/-- R163. -/
theorem test_cvt_d2f_rounds : made 0x5A93FE01 0x3ff0000010000000 0 0 = some (.value 0x3f800000) := by decide
/-- R115. -/
theorem test_ncvt_h : made 0x5C03FE01 0x3eaaaaab 0 0 = some (.value 0x3555) := by decide
/-- R115. -/
theorem test_ncvt_b_rtz : made 0x5C93FE01 0x3eaaaaab 0 0 = some (.value 0x3eaa) := by decide
/-- R115. -/
theorem test_ncvt_e4_saturates : made 0x5D03FE01 0x43fa0000 0 0 = some (.value 0x7e) := by decide
/-- R114. -/
theorem test_ncvt_e4_nan_policy : made 0x5D0BFE01 0x43fa0000 0 0 = some (.value 0x7f) := by decide
/-- R115. -/
theorem test_ncvt_e5_rtz : made 0x5D93FE01 0x43fa0000 0 0 = some (.value 0x5f) := by decide
/-- R115. -/
theorem test_ncvt_f4_tie : made 0x5E03FE01 0xc0200000 0 0 = some (.value 0xc) := by decide
/-- R115. -/
theorem test_ncvt_sc : made 0x5E83FE01 0x3eaaaaab 0 0 = some (.value 0x79) := by decide
/-- R115. -/
theorem test_ncvt_i8_tie : made 0x5F03FE01 0xc0200000 0 0 = some (.value 0xfe) := by decide
/-- R115. -/
theorem test_ncvt_i4 : made 0x5F83FE01 0xc0200000 0 0 = some (.value 0xe) := by decide
/-- R161. -/
theorem test_rcp_two : made 0x6003FE01 0x40000000 0 0 = some (.value 0x3f000000) := by decide
/-- R161. -/
theorem test_rsq_four : made 0x6083FE01 0x40800000 0 0 = some (.value 0x3f000000) := by decide +kernel
/-- R162. -/
theorem test_rsq_ftz : made 0x6093FE01 0x80000001 0 0 = some (.value 0xff800000) := by decide
/-- R161. -/
theorem test_exp2_integer : made 0x6103FE01 0xc3150000 0 0 = some (.value 1) := by decide +kernel
/-- R162. -/
theorem test_exp2_overflow : made 0x6103FE01 0x43000000 0 0 = some (.value 0x7f800000) := by decide +kernel
/-- R161. -/
theorem test_log2_power : made 0x6183FE01 0x41000000 0 0 = some (.value 0x40400000) := by decide +kernel
/-- R162. -/
theorem test_sin_infinity : made 0x6203FE01 0x7f800000 0 0 = some (.value 0x7fc00000) := by decide +kernel
/-- R162. -/
theorem test_cos_zero : made 0x6283FE01 0x80000000 0 0 = some (.value 0x3f800000) := by decide +kernel
/-- R162. -/
theorem test_tanh_minus_infinity : made 0x6303FE01 0xff800000 0 0 = some (.value 0xbf800000) := by decide +kernel
/-- R166. -/
theorem test_pack_byte_one : made 0x6407FE01 0xffffffff 0x1ab 0 = some (.value 0xffffabff) := by decide
/-- R166. -/
theorem test_unpack_e4 : made 0x648BFE01 0x7e2b 1 0 = some (.value 0x43e00000) := by decide

/-! ## What meets the hypotheses of the statements -/

/-! ### Encoding and the step -/

theorem witness_DecodeOfEncode : encode (.add 0 1 0x1FF 0x001) ≠ [] ∧ wellFormed (.add 0 1 0x1FF 0x001) = true := ⟨by decide, by decide⟩
/-- The highest well-formed fields, and a GENL of two literals. -/
theorem witness_DecodeOfEncode_edges : encode (.genl 3 7 0x1C7 0x13F 0xFFFFFFFF 0xFFFFFFFF) ≠ [] ∧ wellFormed (.genl 3 7 0x1C7 0x13F 0xFFFFFFFF 0xFFFFFFFF) = true :=
  ⟨by decide, by decide⟩
theorem witness_EncodeOfDecode : decodeWord 0x2003FE01 0 0 = .ok (.add 0 0 0x1FF 0x001) := rfl
theorem witness_EncodeOfDecode_literals : decodeWord 0x028FFE83 0xBEEF0001 0xCAFE0002 = .ok (.genl 0 3 0x1FF 0x083 0xBEEF0001 0xCAFE0002) := rfl
theorem witness_StepRunsDecoded : ∃ e, At (placed 0x2003FE01 1 2 0) e ∧ e.slot ∉ e.f.blk.litSlots ∧
    decodeWord (e.f.word e.slot) (e.f.word (e.slot + 1)) (e.f.word (e.slot + 2)) = .ok (.add 0 0 0x1FF 0x001) := by
  obtain ⟨e, h, q⟩ := at_any (s := placed 0x2003FE01 1 2 0) (q := fun e => e.slot ∉ e.f.blk.litSlots ∧ e.f.word e.slot = 0x2003FE01 ∧ e.f.word (e.slot + 1) = 0 ∧
    e.f.word (e.slot + 2) = 0) (by decide) (by decide)
  exact ⟨e, h, q.1, by rw [q.2.1, q.2.2.1, q.2.2.2]; rfl⟩
theorem witness_StepRunsDecoded_rejected : ∃ e, At (placed 0x33FFFFFF 0 0 0) e ∧ e.slot ∉ e.f.blk.litSlots ∧
    decodeWord (e.f.word e.slot) (e.f.word (e.slot + 1)) (e.f.word (e.slot + 2)) = .error .unassigned := by
  obtain ⟨e, h, q⟩ := at_any (s := placed 0x33FFFFFF 0 0 0) (q := fun e => e.slot ∉ e.f.blk.litSlots ∧ e.f.word e.slot = 0x33FFFFFF ∧ e.f.word (e.slot + 1) = 0 ∧
    e.f.word (e.slot + 2) = 0) (by decide) (by decide)
  exact ⟨e, h, q.1, by rw [q.2.1, q.2.2.1, q.2.2.2]; rfl⟩
theorem witness_StepRunsDecoded_literal : ∃ e, At { placed 0x0283FE83 0 0 0 with cur := some ⟨4, 1⟩ } e ∧ e.slot ∈ e.f.blk.litSlots :=
  at_any (by decide) (by decide)
theorem witness_PlacedInstructionRuns : decodeTableWord 32 (0xB000E1FF : BitVec 32).toNat = some (.atom32 0 0 7 0 0x1FF) := by decide
theorem witness_StepKeepsSafe : ∃ t, (placed 0x2003FE01 1 2 0).Safe ∧ step (placed 0x2003FE01 1 2 0) = .next t := ⟨_, ⟨by decide, by decide⟩, rfl⟩
theorem witness_FusesAndTimeKept : ∃ t, (placed 0x2003FE01 1 2 0).powered = true ∧ exec (.add 0 0 0x1FF 0x001) (placed 0x2003FE01 1 2 0) = .next t ∧
    step (placed 0x2003FE01 1 2 0) = .next t := ⟨_, by decide, rfl, rfl⟩
/-- A module without power, to which inputs come. -/
def offState (l : List Input) : State := { State.reset with powered := false, inbox := l }
theorem witness_OffUntilPowerOn : ∃ t, (offState []).powered = false ∧ exec (.powerOn [] (Config.imageSecver []) (Config.imageSigned []) (Config.imageRaise [])) (offState []) = .next t := ⟨_, by decide, execPowerOn_own _ [] rfl⟩
theorem witness_OffUntilPowerOn_step : ∃ t, (offState [.event (.powerOn [] (Config.imageSecver []) (Config.imageSigned []) (Config.imageRaise []))]).powered = false ∧
    step (offState [.event (.powerOn [] (Config.imageSecver []) (Config.imageSigned []) (Config.imageRaise []))]) = .next t ∧ t.powered = true := ⟨_, by decide, execPowerOn_own (offState []) [] rfl, rfl⟩

/-! ### Class L slots -/

/-- An instruction of a table under the cursor of a powered module, with a valid encoding, unresolved in lane 0. -/
def RowMet (row : Instr → Option LRow) : Prop :=
  ∃ i r s e, row i = some r ∧ At s e ∧ r.pm ≠ 3#2 ∧ r.bad e = false ∧ 0 ∈ lanesOf e.f.mask ∧ e.f.doneIn e.slot 0 = false
theorem row_met {row : Instr → Option LRow} (i : Instr) {r : LRow} (s : State) (hr : row i = some r) (hm : r.pm ≠ 3#2) (p : s.powered = true)
    (h : (s.env?.any (fun e => decide (r.bad e = false ∧ 0 ∈ lanesOf e.f.mask ∧ e.f.doneIn e.slot 0 = false))) = true) : RowMet row := by
  obtain ⟨e, a, q⟩ := at_any p h
  exact ⟨i, r, s, e, hr, a, hm, q⟩
theorem witness_IntegerArithmetic : RowMet arithRow := row_met (.mulh 0 2 0x1FF 0x001) (placed 0x220BFE01 7 9 0) rfl (by decide) (by decide) (by decide)
theorem witness_LogicAndShifts : RowMet logicRow := row_met (.shli 0 1 63 0x001) (placed 0x2A80FE01 7 0 0) rfl (by decide) (by decide) (by decide)
theorem witness_BitFieldsAndCounts : RowMet fieldRow := row_met (.bfx 0 3 0x1FF 0x001) (placed 0x2C0FFE01 7 9 0) rfl (by decide) (by decide) (by decide)
theorem witness_SelectAndCompare : RowMet compareRow := row_met (.sext 0 2 0x1FF 0x001) (placed 0x358BFE01 7 9 0) rfl (by decide) (by decide) (by decide)
theorem witness_FloatingPoint : RowMet floatRow := row_met (.dadd 0 3 0x1FF 0x001) (placed 0x480FFE01 7 9 0) rfl (by decide) (by decide) (by decide)
theorem witness_PackedFloat : RowMet packedRow := row_met (.hfmaX4 0 3 0x1FF 0x001) (placed 0x550FFE01 7 9 0) rfl (by decide) (by decide) (by decide)
theorem witness_ConversionsAndSpecial : RowMet convertRow := row_met (.cvtI2i 0 3 0x1FF 0x001) (placed 0x598FFE01 7 9 0) rfl (by decide) (by decide) (by decide)
/-- The relations of a compare, and a policy that every destination encodes. -/
theorem witness_FloatingPoint_relations : ∀ md ∈ ([0, 1, 2, 3, 4, 5] : List (BitVec 3)), md.toNat < 6 := by decide
theorem witness_ConversionsAndSpecial_policies : ∀ n ∈ [NF.h, .b, .e4, .e5, .f4, .sc, .i8, .i4], policyReserved n 0 = false ∧ policyReserved n 7 = false := by decide
theorem witness_MovesAndConstants : RowMet constRow := row_met (.sreg 0 0x045 0x001) (placed 0x03008A01 7 9 0) rfl (by decide) (by decide) (by decide)
theorem witness_BranchesAndSinks : RowMet sinkRow := row_met (.fresume 0) (placed 0x0983FFFF 7 9 0) rfl (by decide) (by decide) (by decide)
/-- A slot of a table with PM 11, and one with a reserved MOD. -/
theorem witness_ReservedVectors : ∃ r e, arithRow (.add 3 0 0x1FF 0x001) = some r ∧ At (placed 0x2063FE01 1 2 0) e ∧ r.pm = 3#2 := by
  obtain ⟨e, h, _⟩ := at_any (s := placed 0x2063FE01 1 2 0) (q := fun _ => True) (by decide) (by decide)
  exact ⟨_, e, rfl, h, rfl⟩
theorem witness_ReservedVectors_mod : ∃ r e, arithRow (.add 0 2 0x1FF 0x001) = some r ∧ At (placed 0x200BFE01 1 2 0) e ∧ r.bad e = true := by
  obtain ⟨e, h, _⟩ := at_any (s := placed 0x200BFE01 1 2 0) (q := fun _ => True) (by decide) (by decide)
  exact ⟨_, e, rfl, h, rfl⟩
theorem witness_ClassLFrame : ∃ e t, (arithRow (.add 0 0 0x1FF 0x001)).isSome = true ∧ At (placed 0x2003FE01 1 2 0) e ∧ (placed 0x2003FE01 1 2 0).hbmq = [] ∧
    exec (.add 0 0 0x1FF 0x001) (placed 0x2003FE01 1 2 0) = .next t ∧ ∀ r, arithRow (.add 0 0 0x1FF 0x001) = some r → r.pm ≠ 3#2 ∧ r.bad e = false := by
  obtain ⟨e, h, _⟩ := at_any (s := placed 0x2003FE01 1 2 0) (q := fun _ => True) (by decide) (by decide)
  exact ⟨e, _, rfl, h, by decide, rfl, fun r hr => by cases hr; exact ⟨by decide, rfl⟩⟩

/-! ### Lane operations, exceptions -/

theorem witness_LaneOperations : ∃ r e, laneRow (.redx 0 5 0x1FF 0x001) = some r ∧ At (placed 0x0517FE01 7 9 0) e ∧ r.pm ≠ 3#2 ∧ r.bad = false ∧
    ∀ l ∈ lanesOf e.f.mask, e.f.doneIn e.slot l = true ∨ e.f.laneGo e.slot 1 0 l ≠ .wait := by
  obtain ⟨e, h, q⟩ := at_any (s := placed 0x0517FE01 7 9 0) (q := fun e => ∀ l ∈ lanesOf e.f.mask, e.f.doneIn e.slot l = true ∨ e.f.laneGo e.slot 1 0 l ≠ .wait)
    (by decide) (by decide)
  exact ⟨_, e, rfl, h, by decide, rfl, q⟩
theorem witness_LaneOperations_waits : ∃ r e, laneRow (.redx 0 5 0x1FF 0x001) = some r ∧ At (placedTok 0x0517FE01 []) e ∧ r.pm ≠ 3#2 ∧ r.bad = false ∧
    ∃ l ∈ lanesOf e.f.mask, e.f.doneIn e.slot l = false ∧ e.f.laneGo e.slot 1 0 l = .wait := by
  obtain ⟨e, h, q⟩ := at_any (s := placedTok 0x0517FE01 []) (q := fun e => ∃ l ∈ lanesOf e.f.mask, e.f.doneIn e.slot l = false ∧ e.f.laneGo e.slot 1 0 l = .wait)
    (by decide) (by decide)
  exact ⟨_, e, rfl, h, by decide, rfl, q⟩
/-- A pick whose operand a is null. -/
theorem witness_PicksAndYields : ∃ e, At (placedTok 0x0183FE01 [(tokKey 0 0 0, .null), (tokKey 1 0 0, .value 9)]) e ∧ (0 : BitVec 2) ≠ 3#2 ∧
    e.f.laneGo e.slot 2 0 0 = .fire ∧ 0 ∈ lanesOf e.f.mask ∧ e.f.tok 0 e.slot 0 = some .null ∧ e.f.tok 1 e.slot 0 = some (.value 9) :=
  at_any (by decide) (by decide)
theorem witness_PicksAndYields_yield : ∃ e, At (placed 0x0883FFFF 0 0 0) e ∧ (0 : BitVec 2) ≠ 3#2 ∧ 0 ∈ lanesOf e.f.mask ∧ e.f.laneGo e.slot 0 0 0 = .fire :=
  at_any (by decide) (by decide)
theorem witness_EmulationEntry_disabled : ∃ e, At (placed 0x4A0FFE01 0 0 0) e ∧ (0 : BitVec 2) ≠ 3#2 ∧ (3 : BitVec 3).getLsbD 2 = false :=
  at_any (by decide) (by decide)
theorem witness_EmulationEntry_unassigned : ∃ e, (placed 0x33FFFFFF 0 0 0).powered = true ∧ (placed 0x33FFFFFF 0 0 0).envAt 4 0 = some e ∧ 0 ∉ e.f.blk.litSlots ∧
    decodeWord (e.f.word 0) (e.f.word 1) (e.f.word 2) = .error .unassigned := by
  obtain ⟨e, he⟩ := Option.isSome_iff_exists.1 (show ((placed 0x33FFFFFF 0 0 0).envAt 4 0).isSome = true by decide)
  have hw : ((placed 0x33FFFFFF 0 0 0).envAt 4 0).any (fun e => decide (0 ∉ e.f.blk.litSlots ∧ e.f.word 0 = 0x33FFFFFF ∧ e.f.word 1 = 0 ∧ e.f.word 2 = 0)) = true := by decide
  rw [he] at hw
  have q := of_decide_eq_true hw
  exact ⟨e, by decide, he, q.1, by rw [q.2.1, q.2.2.1, q.2.2.2]; rfl⟩
theorem witness_EmulationEntry_entry : ∃ e c, At (placed 0x4A0FFE01 0 0 0) e ∧ (e.f.mask ≠ 0 ∧
    (∀ l ∈ lanesOf e.f.mask, e.f.laneGo e.slot 2 0 l = .fire ∧ e.lv.recorded e.slot l = none) ∧ e.w.depth < 2 ∧
    mget (placed 0x4A0FFE01 0 0 0).ctxs e.w.ctx = some c ∧ c.cfg.emu = some 4096) := by
  obtain ⟨e, h, q⟩ := at_any (s := placed 0x4A0FFE01 0 0 0) (q := fun e => e.f.mask ≠ 0 ∧ (∀ l ∈ lanesOf e.f.mask, e.f.laneGo e.slot 2 0 l = .fire ∧ e.lv.recorded e.slot l = none) ∧
    e.w.depth < 2 ∧ e.w.ctx = 0) (by decide) (by decide)
  exact ⟨e, _, h, q.1, q.2.1, q.2.2.1, by rw [q.2.2.2]; rfl, rfl⟩
/-- The placed warp, its level and its context, in which a trap handler is set. -/
theorem witness_TrapEntry : ∃ w lv c, (placed 0x2003FE01 1 2 0).warp 4 = some w ∧ w.levels.head? = some lv ∧ (placed 0x2003FE01 1 2 0).sliceOf w.wg = none ∧
    mget (placed 0x2003FE01 1 2 0).ctxs w.ctx = some c ∧ c.cfg.trap = some 8192 ∧ lv.kind ≠ .trap ∧ w.depth < 2 := ⟨_, _, _, rfl, rfl, rfl, rfl, rfl, by decide, by decide⟩
/-- The same, with no trap handler set. -/
def noTrap : State := { placed 0x2003FE01 1 2 0 with ctxs := [(0, ctxNew { oneCfg with trap := none })] }
theorem witness_TrapEntry_absent : ∃ w lv c, noTrap.warp 4 = some w ∧ w.levels.head? = some lv ∧ noTrap.sliceOf w.wg = none ∧ mget noTrap.ctxs w.ctx = some c ∧
    c.stopped = false ∧ c.cfg.trap = none := ⟨_, _, _, rfl, rfl, rfl, rfl, rfl, rfl⟩
theorem witness_FaultQueuePark : ∃ w lv c, (placed 0x2003FE01 1 2 0).warp 4 = some w ∧ w.levels.head? = some lv ∧ mget (placed 0x2003FE01 1 2 0).ctxs w.ctx = some c :=
  ⟨_, _, _, rfl, rfl, rfl⟩
/-- A fault queue of 64 records whose PROD reads 64. -/
def fullRing : State := { placed 0x2003FE01 1 2 0 with mem := [(2048, 64)] }
theorem witness_FaultQueuePark_full : ∃ w lv c, fullRing.warp 4 = some w ∧ w.levels.head? = some lv ∧ mget fullRing.ctxs w.ctx = some c ∧ fullRing.ringRoom c = false :=
  ⟨_, _, _, rfl, rfl, rfl, by decide⟩
/-- The state after a DDIV has vectored, its results marked as values in the window; and with the frame unfrozen of a trap in place of it. -/
def vectored : State := ((after (placed 0x4A03FE01 0 0 0)).getD State.reset).updWarp 4 (fun w => w.setTop (fun lv => { lv with win := { lv.win with dkind := [(0, 1)] } }))
def trapped : State := (placed 0x2003FE01 1 2 0).enterTrap 4 0x32 0 0 0 0 1
theorem witness_HandlerReturn : ∃ w lv lo rest f v, vectored.warp 4 = some w ∧ w.levels = lv :: lo :: rest ∧ lv.kind = .emu ∧ lo.frame = some f ∧ f.vec = some v ∧
    absentLanes lv.win v (targetsOf (f.word v.slot)) = [] ∧ f.sinks.all (fun x => !x.stale) = true ∧ lanesOf v.mask = [0] :=
  ⟨_, _, _, _, _, _, rfl, rfl, rfl, rfl, rfl, by decide⟩
theorem witness_HandlerReturn_trap : ∃ w lv lo rest, trapped.warp 4 = some w ∧ w.levels = lv :: lo :: rest ∧ lv.kind = .trap := ⟨_, _, _, _, rfl, rfl, rfl⟩

/-! ### Memory -/

/-- A page of 2 MiB that core 0 translates, and a context that may use key ID 0. -/
def page : Xlat := ⟨0, 0x200000, 0x200000, 0x400000, 0, true, true, true⟩
def mapped (s : State) : State :=
  { s.updCore 0 (fun c => { c with tlb := [page] }) with ctxs := [(0, { ctxNew oneCfg with keys := [0], nextSeq := 2 })] }
/-- LDS of the last 8 bytes of the allocation. -/
def ldsEnd : State := placed 0xA200C001 0xFFF8 0 0
theorem witness_LocalLoads : ∃ r, loadRow (.lds 0 0 6 0 0x001) = some r ∧ r.bad = false ∧ ∃ e, AtInstr ldsEnd e (.lds 0 0 6 0 0x001) ∧ ldsEnd.hbmq = [] ∧
    e.Only r.pm 1 0 0xFFF8 0 0 ∧ loadFree r ldsEnd e 0 0xFFF8 ∧ ldsEnd.reach e.w e.lv r.form (eaOf 0xFFF8 r.off r.unit) r.n r.unit = .ok (.scratch 3, 0xFFF8) ∧
    (.scratch 3 : Space) ≠ .global ∧ (ldsEnd.spaceRead e.w (.scratch 3) 0xFFF8 r.n).2 = false ∧ e.f.storesBelow r.mos 0 (.scratch 3) = [] := by
  letI := decPlace
  exact ⟨_, rfl, rfl, instr_any (by decide) (by decide)⟩
/-- A load, a store and an atomic of global memory. -/
def ldGlob : State := placed 0xA000C001 0x200000 0 0
def stGlob : State := placed 0xA800C000 0x200000 7 0
def atomGlob : State := placed 0xB0000001 0x200000 7 0
theorem witness_GlobalAccessesBegin_load : ∃ r, loadRow (.ld 0 0 6 0 0x001) = some r ∧ r.bad = false ∧ ∃ e, At ldGlob e ∧ e.Only r.pm 1 0 0x200000 0 0 ∧
    loadFree r ldGlob e 0 0x200000 ∧ ldGlob.reach e.w e.lv r.form (eaOf 0x200000 r.off r.unit) r.n r.unit = .ok (.global, 0x200000) := by
  letI := decPlace
  exact ⟨_, rfl, rfl, at_any (by decide) (by decide)⟩
theorem witness_GlobalAccessesBegin_store : ∃ r, storeRow (.st 0 0 6 0) = some r ∧ r.bad = false ∧ ∃ e, At stGlob e ∧ e.Only r.pm 2 0 0x200000 7 0 ∧
    storeFree r stGlob e 0 0x200000 ∧ stGlob.reach e.w e.lv r.form (eaOf 0x200000 r.off r.unit) r.n r.unit = .ok (.global, 0x200000) := by
  letI := decPlace
  exact ⟨_, rfl, rfl, at_any (by decide) (by decide)⟩
theorem witness_GlobalAccessesBegin_atomic : ∃ r, atomRow (.atom32 0 0 0 0 0x001) = some r ∧ r.bad = false ∧ ∃ e, At atomGlob e ∧ e.Only r.pm r.nops 0 0x200000 7 0 ∧
    e.f.opVal 2 e.slot 0 = 0 ∧ atomFree r atomGlob e 0 0x200000 ∧ e.lv.recorded e.slot 0 = none ∧ atomGlob.sliceOf e.w.wg = none ∧
    atomGlob.reach e.w e.lv r.form (eaOf 0x200000 r.off r.n) r.n r.n = .ok (.global, 0x200000) := by
  letI := decPlace
  exact ⟨_, rfl, rfl, at_any (by decide) (by decide)⟩
/-- STS to the last 8 bytes, and to 4 bytes before the end. -/
def stsEnd : State := placed 0xA880C000 0xFFF8 7 0
def stsOut : State := placed 0xA880C000 0x10000 7 0
def stsOdd : State := placed 0xA880C000 1 7 0
theorem witness_StoresAreBuffered : ∃ r, storeRow (.sts 0 0 6 0) = some r ∧ r.bad = false ∧ ∃ e, At stsEnd e ∧ stsEnd.hbmq = [] ∧ e.Only r.pm 2 0 0xFFF8 7 0 ∧
    storeFree r stsEnd e 0 0xFFF8 ∧ stsEnd.reach e.w e.lv r.form (eaOf 0xFFF8 r.off r.unit) r.n r.unit = .ok (.scratch 3, 0xFFF8) ∧ (.scratch 3 : Space) ≠ .global ∧
    stsEnd.sliceOf e.w.wg = none := by
  letI := decPlace
  exact ⟨_, rfl, rfl, at_any (by decide) (by decide)⟩
def fesetEnd : State := placed 0xBE000000 0xFFF0 16 0
theorem witness_StoresAreBuffered_feset : ∃ e, At fesetEnd e ∧ fesetEnd.hbmq = [] ∧ e.Only 0 2 0 0xFFF0 16 0 ∧
    (eaOf 0xFFF0 0 16).toNat % 16 = 0 ∧ (16 : Word).toNat % 16 = 0 ∧ fesetEnd.locate e.w e.lv .scr (eaOf 0xFFF0 0 16) 16 = .ok (.scratch 3, 0xFFF0) := by
  letI := decPlace
  exact at_any (by decide) (by decide)
theorem witness_StoresAreBuffered_empty : ∃ e, At (placed 0xBE000000 0x3FFFF0 0 0) e ∧ (placed 0xBE000000 0x3FFFF0 0 0).hbmq = [] ∧ e.Only 0 2 0 0x3FFFF0 0 0 ∧
    (eaOf 0x3FFFF0 0 16).toNat % 16 = 0 ∧ (eaOf 0x3FFFF0 0 16).toNat < 2 ^ 22 := at_any (by decide) (by decide)
/-- LDS past the allocation, at an odd address, and aligned but longer than what is left. -/
def ldsOut : State := placed 0xA200C001 0x10000 0 0
def ldsOdd : State := placed 0xA200C001 0xFFFC 0 0
theorem witness_FailedChecksPoison_range : ∃ r, loadRow (.lds 0 0 6 0 0x001) = some r ∧ r.bad = false ∧ ∃ e, AtInstr ldsOut e (.lds 0 0 6 0 0x001) ∧ ldsOut.hbmq = [] ∧
    e.Only r.pm 1 0 0x10000 0 0 ∧ checkCause ldsOut e r.form (eaOf 0x10000 r.off r.unit) r.n r.unit = some 0x14 := ⟨_, rfl, rfl, instr_any (by decide) (by decide)⟩
theorem witness_FailedChecksPoison_align : ∃ r, loadRow (.lds 0 0 6 0 0x001) = some r ∧ r.bad = false ∧ ∃ e, AtInstr ldsOdd e (.lds 0 0 6 0 0x001) ∧ ldsOdd.hbmq = [] ∧
    e.Only r.pm 1 0 0xFFFC 0 0 ∧ checkCause ldsOdd e r.form (eaOf 0xFFFC r.off r.unit) r.n r.unit = some 0x16 := ⟨_, rfl, rfl, instr_any (by decide) (by decide)⟩
theorem witness_FailedChecksPoison_store : ∃ r, storeRow (.sts 0 0 6 0) = some r ∧ r.bad = false ∧ ∃ e, At stsOut e ∧ stsOut.hbmq = [] ∧ e.Only r.pm 2 0 0x10000 7 0 ∧
    checkCause stsOut e r.form (eaOf 0x10000 r.off r.unit) r.n r.unit = some 0x14 := ⟨_, rfl, rfl, at_any (by decide) (by decide)⟩
theorem witness_FailedChecksPoison_store_align : ∃ r, storeRow (.sts 0 0 6 0) = some r ∧ r.bad = false ∧ ∃ e, At stsOdd e ∧ stsOdd.hbmq = [] ∧ e.Only r.pm 2 0 1 7 0 ∧
    checkCause stsOdd e r.form (eaOf 1 r.off r.unit) r.n r.unit = some 0x16 := ⟨_, rfl, rfl, at_any (by decide) (by decide)⟩
/-- An aligned LDS of two words of which the second lies past the allocation. -/
def ldsSpan : State := placed 0xA200E001 0xFFFC 0 0
theorem witness_FailedChecksPoison_span : ∃ r, loadRow (.lds 0 0 7 0 0x001) = some r ∧ r.bad = false ∧ ∃ e, AtInstr ldsSpan e (.lds 0 0 7 0 0x001) ∧ ldsSpan.hbmq = [] ∧
    e.Only r.pm 1 0 0xFFFC 0 0 ∧ (eaOf 0xFFFC r.off r.unit).toNat % r.unit = 0 ∧ checkCause ldsSpan e r.form (eaOf 0xFFFC r.off r.unit) r.n r.unit = some 0x14 :=
  ⟨_, rfl, rfl, instr_any (by decide) (by decide)⟩
/-- ATOMS on the last word of the allocation, and on the word after it. -/
def atomsEnd : State := placed 0xB2800001 0xFFFC 7 0
def atomsOut : State := placed 0xB2800001 0x10000 7 0
theorem witness_FailedChecksPoison_atomic : ∃ r, atomRow (.atoms 0 0 0 0 0x001) = some r ∧ r.bad = false ∧ ∃ e, AtInstr atomsOut e (.atoms 0 0 0 0 0x001) ∧ atomsOut.hbmq = [] ∧
    e.Only r.pm r.nops 0 0x10000 7 0 ∧ e.lv.recorded e.slot 0 = none ∧ atomsOut.sliceOf e.w.wg = none ∧
    checkCause atomsOut e r.form (eaOf 0x10000 r.off r.n) r.n r.n = some 0x14 := ⟨_, rfl, rfl, instr_any (by decide) (by decide)⟩
theorem witness_LocalAtomics : ∃ r, atomRow (.atoms 0 0 0 0 0x001) = some r ∧ r.bad = false ∧ ∃ e, AtInstr atomsEnd e (.atoms 0 0 0 0 0x001) ∧ atomsEnd.hbmq = [] ∧
    e.Only r.pm r.nops 0 0xFFFC 7 0 ∧ e.f.opVal 2 e.slot 0 = 0 ∧ atomFree r atomsEnd e 0 0xFFFC ∧ e.lv.recorded e.slot 0 = none ∧ atomsEnd.sliceOf e.w.wg = none ∧
    atomsEnd.reach e.w e.lv r.form (eaOf 0xFFFC r.off r.n) r.n r.n = .ok (.scratch 3, 0xFFFC) ∧ (.scratch 3 : Space) ≠ .global ∧
    (atomsEnd.spaceRead e.w (.scratch 3) 0xFFFC r.n).2 = false ∧ (mget atomsEnd.wgs e.w.wg).isSome = true ∧ 0xFFFC % r.n = 0 := by
  letI := decPlace
  exact ⟨_, rfl, rfl, instr_any (by decide) (by decide)⟩
/-- An access of the placed warp. -/
def acc (kind : AKind) (va size : Nat) : Access :=
  { wid := 4, fid := 5, slot := 0, lane := 0, mos := 0, kind := kind, scope := 0, va := va, size := size, b := 7, c := 0, xl := [], stat := .walk 0, seen := 0 }
theorem witness_AccessProgress_walk : ∃ w, ldGlob.warp 4 = some w ∧ ldGlob.inWindow w 0x200000 = none ∧
    ldGlob.missing (ldGlob.coreOf w) w.ctx (acc (.load 6) 0x200000 8) = 32 :: [] ∧ ldGlob.walks.length < 2048 := ⟨_, rfl, by decide⟩
/-- The mapped page's first line in the L1. -/
def cachedL1 : State := (mapped ldGlob).updCore 0 (fun c => { c with l1 := [(0x8000, ⟨0, 0, 15, 0, 9⟩)] })
theorem witness_AccessProgress_hit : ∃ w, cachedL1.warp 4 = some w ∧ cachedL1.inWindow w 0x200000 = none ∧ cachedL1.accPages (acc (.load 6) 0x200000 8) = [0x200000 / 65536] ∧
    cachedL1.tlbFind (cachedL1.coreOf w) w.ctx 0x200000 = some page ∧ cachedL1.pageOk page .rd 0x200000 = true ∧ cachedL1.recRead w.ctx w.wg 0x200000 = .plain ∧
    mget (cachedL1.core (cachedL1.coreOf w)).l1 (page.phys 0x200000 / 128) = some ⟨0, 0, 15, 0, 9⟩ ∧
    (15 : BitVec 4) &&& sectTouched (byteMask (page.phys 0x200000 % 128) 8) = sectTouched (byteMask (page.phys 0x200000 % 128) 8) ∧
    cachedL1.accDep (acc (.load 6) 0x200000 8) ≤ 9 ∧ scopeL1 0 = false ∧ cachedL1.home (page.phys 0x200000) = .dev 0x400000 :=
  ⟨_, rfl, by decide⟩
theorem witness_AccessProgress_miss : ∃ w, (mapped ldGlob).warp 4 = some w ∧ mget ((mapped ldGlob).core ((mapped ldGlob).coreOf w)).l1 (page.phys 0x3FFFF8 / 128) = none ∧
    mget ((mapped ldGlob).hall (hallOfCore ((mapped ldGlob).coreOf w))).cache (0x5FFFF8 / 128) = none ∧ (mapped ldGlob).accPages (acc (.load 6) 0x3FFFF8 8) = [0x3FFFF8 / 65536] ∧
    (mapped ldGlob).tlbFind ((mapped ldGlob).coreOf w) w.ctx 0x3FFFF8 = some page ∧ 0x3FFFF8 < page.va + page.size ∧
    (mapped ldGlob).pageOk page .rd 0x3FFFF8 = true ∧ (mapped ldGlob).home (page.phys 0x3FFFF8) = .dev 0x5FFFF8 :=
  ⟨_, rfl, by decide⟩
/-- The warp has read the line ahead; another access of the core waits for a tracker. -/
def aheadLd : State := (mapped ldGlob).updWarp 4 (fun w => { w with early := [{ space := .global, line := 0x8000, data := 9, valid := 15, stamp := 3 }] })
theorem witness_AccessProgress_ahead : aheadLd.readAhead 4 5 0 .global (page.phys 0x200000) 8 (aheadLd.accDep (acc (.load 6) 0x200000 8)) = some 9 := by decide
def behindLd : State := { mapped ldGlob with accs := [(1, { acc (.load 6) 0x200000 8 with stat := .queued })] }
theorem witness_AccessProgress_queued : behindLd.coreFree 0 behindLd.nextId = false ∧ (mapped ldGlob).coreFree 0 (mapped ldGlob).nextId = true := by decide
theorem witness_AccessProgress_store : ∃ w f, (mapped stGlob).warp 4 = some w ∧ (mapped stGlob).fidFrame 4 5 = some f ∧
    (mapped stGlob).accPages (acc (.store .store) 0x200000 8) = [0x200000 / 65536] ∧ (mapped stGlob).tlbFind ((mapped stGlob).coreOf w) w.ctx 0x200000 = some page ∧
    (mapped stGlob).pageOk page .wr 0x200000 = true ∧ (mapped stGlob).immutable w.ctx 0x200000 8 = false ∧ (mapped stGlob).sliceOf w.wg = none :=
  ⟨_, _, rfl, rfl, by decide⟩

/-! ### Fences, hints, ranges, full-empty bits, constant banks, invalidation -/

def arFence : State := placed 0xB9018000 0 0 0
theorem witness_FencesComplete : fenceRow (.fenceAr 0 1 4) = some (0, 1, 4, true, true) ∧ ∃ e, At arFence e ∧ arFence.hbmq = [] ∧
    (4 : BitVec 3) ≠ 0 ∧ (4 : BitVec 3) ≠ 7 ∧ mgetD e.f.fired e.slot 0 = 0 ∧ (∀ l ∈ lanesOf e.f.mask, e.f.doneIn e.slot l = true ∨ e.f.laneGo e.slot 0 0 l ≠ .wait) ∧
    (∃ l ∈ lanesOf e.f.mask, e.f.laneGo e.slot 0 0 l = .fire) ∧ fenceReady arFence e 1 4 true true = true :=
  ⟨rfl, at_any (by decide) (by decide)⟩
/-- A fence below which a load of its frame is still on its way. -/
def busyFence : State := { arFence with accs := [(9, acc (.load 6) 0x200000 8)] }
theorem witness_FencesComplete_waits : ∃ e, At busyFence e ∧ mgetD e.f.fired e.slot 0 = 0 ∧ (∀ l ∈ lanesOf e.f.mask, e.f.doneIn e.slot l = true ∨ e.f.laneGo e.slot 0 0 l = .fire) ∧
    (∃ l ∈ lanesOf e.f.mask, e.f.laneGo e.slot 0 0 l = .fire) ∧ fenceReady busyFence e 1 4 true true = false := at_any (by decide) (by decide)
/-- A PREF past the address space's end, whose one line is dropped and counted. -/
def prefOut : State := placed 0xBA000000 0x200000000000000 0 0
theorem witness_HintsNeverFault_dropped : hintRow (.pref 0 0 0 0) = some (0, 1, 0, .rd, fun _ => 1) ∧ ∃ e, At prefOut e ∧ e.Only 0 1 0 0x200000000000000 0 0 ∧
    prefOut.walkClear (prefOut.coreOf e.w) e.w.ctx (eaOf 0x200000000000000 (0 : BitVec 13).toInt 128).toNat 1 = true ∧
    hintLines (eaOf 0x200000000000000 (0 : BitVec 13).toInt 128).toNat 1 = [0x4000000000000] ∧ 2 ^ 57 ≤ 128 * 0x4000000000000 ∧
    prefOut.inWindow e.w (128 * 0x4000000000000) = none ∧ (mget prefOut.ctxs e.w.ctx).isSome = true := ⟨rfl, at_any (by decide) (by decide)⟩
/-- The line of the mapped page at 2 MiB, as a hint of the placed warp finds it. -/
theorem plain_at {s : State} {e : Env} {need : Need} (h : s.inWindow e.w 0x200000 = none ∧ s.recRead e.w.ctx e.w.wg 0x200000 = .plain ∧
    s.tlbFind (s.coreOf e.w) e.w.ctx 0x200000 = some page ∧ s.pageOk page need 0x200000 = true) :
    PlainAt s e need 0x200000 0x400000 0 := ⟨by decide, h.1, h.2.1, page, h.2.2.1, h.2.2.2, rfl, rfl⟩
def prefMap : State := mapped (placed 0xBA000000 0x200000 0 0)
/-- A PREF at a level of the page's first line, which is free to run and finds `more`. -/
def PrefMet (s : State) (need : Bool) (more : Env → Prop) : Prop :=
  ∃ e, At s e ∧ e.Only 0 1 0 0x200000 0 0 ∧ s.walkClear (s.coreOf e.w) e.w.ctx (eaOf 0x200000 (0 : BitVec 13).toInt 128).toNat 1 = true ∧
    (need = true → s.coreNext (s.coreOf e.w) = true) ∧ 128 * ((eaOf 0x200000 (0 : BitVec 13).toInt 128).toNat / 128) = 0x200000 ∧ more e
theorem witness_HintsNeverFault_pref : PrefMet prefMap true (fun e => PlainAt prefMap e .rd 0x200000 0x400000 0 ∧ prefMap.home 0x400000 = .dev 0x400000 ∧
    prefMap.hallHit (hallOfCore (prefMap.coreOf e.w)) 0x8000 15 0 = none) :=
  let ⟨e, a, o, w, n, p, h, m⟩ := at_any (s := prefMap) (q := fun e => e.Only 0 1 0 0x200000 0 0 ∧
    prefMap.walkClear (prefMap.coreOf e.w) e.w.ctx (eaOf 0x200000 (0 : BitVec 13).toInt 128).toNat 1 = true ∧ prefMap.coreNext (prefMap.coreOf e.w) = true ∧
    128 * ((eaOf 0x200000 (0 : BitVec 13).toInt 128).toNat / 128) = 0x200000 ∧ (prefMap.inWindow e.w 0x200000 = none ∧
      prefMap.recRead e.w.ctx e.w.wg 0x200000 = .plain ∧ prefMap.tlbFind (prefMap.coreOf e.w) e.w.ctx 0x200000 = some page ∧ prefMap.pageOk page .rd 0x200000 = true) ∧
    prefMap.home 0x400000 = .dev 0x400000 ∧ prefMap.hallHit (hallOfCore (prefMap.coreOf e.w)) 0x8000 15 0 = none) (by decide) (by decide)
  ⟨e, a, o, w, fun _ => n, p, plain_at h, m⟩
/-- A page of memory outside the package, at a physical address. -/
def pageAt (pa : Nat) : Xlat := ⟨0, 0x200000, 0x200000, pa, 0, true, true, true⟩
def mappedAt (pa : Nat) (s : State) : State :=
  { s.updCore 0 (fun c => { c with tlb := [pageAt pa] }) with domain := 0x8000000003FF0000, ctxs := [(0, { ctxNew oneCfg with keys := [0], nextSeq := 2 })] }
def prefOf (pa : Nat) : State := mappedAt pa (placed 0xBA000000 0x200000 0 0)
theorem witness_HintsNeverFault_outside : ∀ pa ∈ [0x8020000000000, 0x4000000400000], PrefMet (prefOf pa) true (fun e => PlainAt (prefOf pa) e .rd 0x200000 pa 0 ∧
    mget ((prefOf pa).core ((prefOf pa).coreOf e.w)).l1 (pa / 128) = none ∧
      ((prefOf pa).home pa = .remote 2 0 ∨ (prefOf pa).home pa = .host 0x400000)) := by
  intro pa hp
  obtain ⟨e, a, o, w, n, p, h, m⟩ := at_any (s := prefOf pa) (q := fun e => e.Only 0 1 0 0x200000 0 0 ∧
    (prefOf pa).walkClear ((prefOf pa).coreOf e.w) e.w.ctx (eaOf 0x200000 (0 : BitVec 13).toInt 128).toNat 1 = true ∧ (prefOf pa).coreNext ((prefOf pa).coreOf e.w) = true ∧
    128 * ((eaOf 0x200000 (0 : BitVec 13).toInt 128).toNat / 128) = 0x200000 ∧ ((prefOf pa).inWindow e.w 0x200000 = none ∧
      (prefOf pa).recRead e.w.ctx e.w.wg 0x200000 = .plain ∧ (prefOf pa).tlbFind ((prefOf pa).coreOf e.w) e.w.ctx 0x200000 = some (pageAt pa) ∧
      (prefOf pa).pageOk (pageAt pa) .rd 0x200000 = true ∧ (pageAt pa).phys 0x200000 = pa ∧ (pageAt pa).key = 0) ∧
    mget ((prefOf pa).core ((prefOf pa).coreOf e.w)).l1 (pa / 128) = none ∧ ((prefOf pa).home pa = .remote 2 0 ∨ (prefOf pa).home pa = .host 0x400000)) rfl
    (by simp only [List.mem_cons, List.not_mem_nil, or_false] at hp; rcases hp with rfl | rfl <;> decide)
  exact ⟨e, a, o, w, fun _ => n, p, ⟨by decide, h.1, h.2.1, pageAt pa, h.2.2⟩, m⟩
def residMap : State := mapped (placed 0xBA800000 0x200000 1 0)
theorem witness_HintsNeverFault_resid : ∃ e, At residMap e ∧ e.Only 0 2 0 0x200000 1 0 ∧ (1 : Word).toNat ≤ 2 ^ 16 ∧
    residMap.walkClear (residMap.coreOf e.w) e.w.ctx (eaOf 0x200000 (0 : BitVec 13).toInt 128).toNat (1 : Word).toNat = true ∧
    hintLines (eaOf 0x200000 (0 : BitVec 13).toInt 128).toNat (1 : Word).toNat = [0x4000] ∧ PlainAt residMap e .rd (128 * 0x4000) 0x400000 0 ∧
    PlainAt residMap e .ex (128 * 0x4000) 0x400000 0 ∧ residMap.home 0x400000 = .dev 0x400000 ∧ residMap.hostAbsent 0x8000 = false :=
  let ⟨e, a, o, m, w, p, h, x⟩ := at_any (s := residMap) (q := fun e => e.Only 0 2 0 0x200000 1 0 ∧ (1 : Word).toNat ≤ 2 ^ 16 ∧
    residMap.walkClear (residMap.coreOf e.w) e.w.ctx (eaOf 0x200000 (0 : BitVec 13).toInt 128).toNat (1 : Word).toNat = true ∧
    hintLines (eaOf 0x200000 (0 : BitVec 13).toInt 128).toNat (1 : Word).toNat = [0x4000] ∧ (residMap.inWindow e.w 0x200000 = none ∧
      residMap.recRead e.w.ctx e.w.wg 0x200000 = .plain ∧ residMap.tlbFind (residMap.coreOf e.w) e.w.ctx 0x200000 = some page ∧
      residMap.pageOk page .rd 0x200000 = true) ∧ residMap.pageOk page .ex 0x200000 = true ∧ residMap.home 0x400000 = .dev 0x400000 ∧
      residMap.hostAbsent 0x8000 = false) (by decide) (by decide)
  ⟨e, a, o, m, w, p, plain_at h, plain_at ⟨h.1, h.2.1, h.2.2.1, x.1⟩, x.2⟩
def discMap : State := mapped (placed 0xBB000000 0x200000 128 0)
theorem witness_RangesAreBuffered : ∃ e s1 xs, At discMap e ∧ (discMap.hbmq = [] ∧ e.Only 0 2 0 0x200000 128 0 ∧
    discMap.sliceOf e.w.wg = none ∧ discMap.rangeBad e.w (eaOf 0x200000 (0 : BitVec 13).toInt 128).toNat 128 = false ∧
    (eaOf 0x200000 (0 : BitVec 13).toInt 128).toNat % 128 = 0 ∧ discMap.walkClear (discMap.coreOf e.w) e.w.ctx (eaOf 0x200000 (0 : BitVec 13).toInt 128).toNat 128 = true) ∧
    (discMap.firedIn e 0).xlatRange (discMap.coreOf e.w) e.w.ctx (eaOf 0x200000 (0 : BitVec 13).toInt 128).toNat 128 .wr (fun v => (discMap.inWindow e.w v).isSome) = (s1, .ok xs) ∧
    ∀ c, mget discMap.ctxs e.w.ctx = some c → c.pinnedAt (eaOf 0x200000 (0 : BitVec 13).toInt 128).toNat 128 = false :=
  ⟨_, _, _, at_placed _ (by decide) (by decide), by decide, rfl, fun c h => by cases h; decide⟩
/-- LDS.FE of the last granule. -/
def feEnd : State := placed 0xA2800001 0xFFF8 0 0
theorem witness_FullEmptyReads : ∃ e, At feEnd e ∧ feEnd.hbmq = [] ∧ (0 : BitVec 3).toNat < 2 ∧ e.Only 0 1 0 0xFFF8 0 0 ∧
    feOk 0 0 false e (feEnd.dispatched e) 0 0xFFF8 0 0 = true ∧ e.lv.recorded e.slot 0 = none ∧
    feEnd.reach e.w e.lv .scr (eaOf 0xFFF8 0 8) 8 8 = .ok (.scratch 3, 0xFFF8) := by
  letI := decPlace
  exact at_any (by decide) (by decide)
/-- A full-empty read that waits in lane 0, its granule full; and one that has read and waits for the invalidations of its acquire. -/
def feWaiting : State :=
  (inFrame (placed 0xA2840001 0xFFF8 0 0) (fun f => { f with waits := [(0, .fe 0 3 0xFFF8 false 6)] })).updMem 3 (fun m => m.fill 0xFFF0 16)
def feRead : State := inFrame (placed 0xA2840001 0xFFF8 0 0) (fun f => { f with waits := [(0, .feDone 0 (.value 5) 0 0 0)] })
theorem witness_FullEmptyReads_end : ∃ w lv f, feWaiting.powered = true ∧ feWaiting.warp 4 = some w ∧ w.levels.head? = some lv ∧ lv.frame = some f ∧
    Frame.FirstWait f 0 (.fe 0 3 0xFFF8 false 6) (isFeOrDone 0) ∧ feWaiting.feReady (.fe 0 3 0xFFF8 false 6) = true ∧ (feWaiting.memOf 3).scrPois 0xFFF8 8 = false ∧
    f.storesBelow ((mosOf (f.word 0)).getD 0) 0 (.scratch 3) = [] ∧ feWaiting.mayAcquire (feWaiting.coreOf w) (f.acqScope 0) = true :=
  ⟨_, _, _, rfl, rfl, rfl, rfl, ⟨[], [], rfl, fun x h => nomatch h⟩, by decide⟩
theorem witness_FullEmptyReads_acquire : ∃ w lv f, feRead.powered = true ∧ feRead.warp 4 = some w ∧ w.levels.head? = some lv ∧ lv.frame = some f ∧
    Frame.FirstWait f 0 (.feDone 0 (.value 5) 0 0 0) (isFeOrDone 0) ∧ feRead.invsApplied (hallOfCore 0) 0 = true :=
  ⟨_, _, _, rfl, rfl, rfl, rfl, ⟨[], [], rfl, fun x h => nomatch h⟩, by decide⟩
/-- GENK of word 15 of bank 0, and LDK at 0x78, with the bank absent, and on the mapped page. -/
def genkAbs : State := placed 0x02001E01 0 0 0
def ldkAbs : State := placed 0xA4000001 0x78 0 0
def banked (s : State) : State := { mapped s with grids := s.grids.map (fun p => (p.1, { p.2 with lr := { p.2.lr with cbase := 0x200000, banks := 0x8000 } })) }
theorem witness_ConstantBanks_absent : ∃ e, AtInstr genkAbs e (.genk 0 0 15 0x001) ∧ e.Only 0 0 0 0 0 0 ∧ genkAbs.bankAddr e.w 0 15 = none := instr_any (by decide) (by decide)
theorem witness_ConstantBanks_present : ∃ e, AtInstr (banked genkAbs) e (.genk 0 0 15 0x001) ∧ e.Only 0 0 0 0 0 0 ∧ (banked genkAbs).bankAddr e.w 0 15 = some 0x200078 ∧
    mget e.f.samples e.slot = none ∧ (banked genkAbs).rangeBad e.w 0x200078 8 = false ∧ ∀ p ∈ (banked genkAbs).accs, ¬(p.2.wid = e.wid ∧ p.2.fid = e.f.fid ∧ p.2.slot = e.slot) :=
  instr_any (by decide) (by decide)
/-- The same, while the word's load is on its way; and after it has come. -/
def genkJoin : State := { banked genkAbs with accs := [(9, acc (.load 6) 0x200078 8)] }
def genkHas : State := inFrame (banked genkAbs) (fun f => { f with samples := [(0, .value 5)] })
theorem witness_ConstantBanks_joins : ∃ e, AtInstr genkJoin e (.genk 0 0 15 0x001) ∧ e.Only 0 0 0 0 0 0 ∧ genkJoin.bankAddr e.w 0 15 = some 0x200078 ∧
    mget e.f.samples e.slot = none ∧ ∃ p ∈ genkJoin.accs, p.2.wid = e.wid ∧ p.2.fid = e.f.fid ∧ p.2.slot = e.slot := instr_any (by decide) (by decide)
theorem witness_ConstantBanks_kept : ∃ e, AtInstr genkHas e (.genk 0 0 15 0x001) ∧ e.Only 0 0 0 0 0 0 ∧ genkHas.bankAddr e.w 0 15 = some 0x200078 ∧
    mget e.f.samples e.slot = some (.value 5) := instr_any (by decide) (by decide)
/-- The word's line has come. -/
def genkGot : State := (inFrame (banked genkAbs) (fun f => f.markFired 0 0))
def genkCome : State := { genkGot with accs := [(9, { acc (.load 6) 0x200078 8 with stat := .got 0 false })] }
theorem witness_ConstantBanks_comes : ∃ a w lv f, genkCome.powered = true ∧ mget genkCome.accs 9 = some a ∧ a.stat = .got 0 false ∧ a.kind = .load 6 ∧
    genkCome.warp a.wid = some w ∧ w.levels.head? = some lv ∧ lv.frame = some f ∧ f.fid = a.fid ∧ fOp (f.word a.slot) = 0x004#9 ∧ a.va % 128 + 8 ≤ 128 ∧ a.size = 8 ∧
    hasLane (mgetD f.fired a.slot 0) 0 = true ∧ f.doneIn a.slot 0 = false := ⟨_, _, _, _, rfl, rfl, rfl, rfl, rfl, rfl, rfl, by decide⟩
theorem witness_ConstantBanks_ldk : ∃ e, AtInstr (banked ldkAbs) e (.ldk 0 0 0 0x001) ∧ e.Only 0 1 0 0x78 0 0 ∧ e.f.acquired e.slot 0 false = true ∧
    (banked ldkAbs).mayAcquire ((banked ldkAbs).coreOf e.w) (e.f.acqScope e.slot) = true ∧ (eaOf 0x78 (0 : BitVec 4).toInt 8).toNat % 8 = 0 ∧
    (banked ldkAbs).bankAddr e.w (fld (eaOf 0x78 (0 : BitVec 4).toInt 8) 14 11) (fld (eaOf 0x78 (0 : BitVec 4).toInt 8) 10 3) = some 0x200078 :=
  instr_any (by decide) (by decide)
theorem witness_ConstantBanks_ldk_absent : ∃ e, AtInstr ldkAbs e (.ldk 0 0 0 0x001) ∧ e.Only 0 1 0 0x78 0 0 ∧ (eaOf 0x78 (0 : BitVec 4).toInt 8).toNat % 8 = 0 ∧
    ldkAbs.bankAddr e.w (fld (eaOf 0x78 (0 : BitVec 4).toInt 8) 14 11) (fld (eaOf 0x78 (0 : BitVec 4).toInt 8) 10 3) = none := instr_any (by decide) (by decide)
theorem witness_ConstantBanks_ldk_align : ∃ e, AtInstr (placed 0xA4000001 4 0 0) e (.ldk 0 0 0 0x001) ∧ e.Only 0 1 0 4 0 0 ∧ (eaOf 4 (0 : BitVec 4).toInt 8).toNat % 8 ≠ 0 :=
  instr_any (by decide) (by decide)
def iinvAt : State := placed 0xBC83FE01 0x1000 (2 ^ 30) 0
theorem witness_InstructionInvalidation : ∃ e, At iinvAt e ∧ iinvAt.hbmq = [] ∧ e.Only 0 2 0 0x1000 (2 ^ 30) 0 ∧ (∀ j ∈ lanesOf e.f.mask, e.f.doneIn e.slot j = true ∨ j = 0) ∧
    iinvAt.sliceOf e.w.wg = none ∧ (0x1000 : Word).toNat < 2 ^ 57 ∧ ∀ q ∈ e.f.waits, q.1 ≠ e.slot := at_any (by decide) (by decide)
/-- A length above the limit. -/
def iinvAll : State := placed 0xBC83FE01 0x1000 (2 ^ 30 + 1) 0
theorem witness_InstructionInvalidation_all : ∃ e, At iinvAll e ∧ iinvAll.hbmq = [] ∧ e.Only 0 2 0 0x1000 (2 ^ 30 + 1) 0 ∧ (∀ j ∈ lanesOf e.f.mask, e.f.doneIn e.slot j = true ∨ j = 0) ∧
    iinvAll.sliceOf e.w.wg = none ∧ 2 ^ 30 < (2 ^ 30 + 1 : Word).toNat ∧ ∀ q ∈ e.f.waits, q.1 ≠ e.slot := at_any (by decide) (by decide)
def iinvWaiting : State := inFrame (placed 0xBC83FE01 0x1000 128 0) (fun f => { f with waits := [(0, .iinv [(0x1000, 128)] 1)] })
theorem witness_InstructionInvalidation_end : ∃ w lv f, iinvWaiting.powered = true ∧ iinvWaiting.warp 4 = some w ∧ w.levels.head? = some lv ∧ lv.frame = some f ∧
    Frame.FirstWait f 0 (.iinv [(0x1000, 128)] 1) isIinv ∧ iinvWaiting.released (iinvWaiting.hallOf w) w.ctx 4 = true :=
  ⟨_, _, _, rfl, rfl, rfl, rfl, ⟨[], [], rfl, fun x h => nomatch h⟩, by decide⟩

/-! ### Commands -/

/-- An instruction of a table of commands, performed under the cursor with operands that meet the row's condition. -/
def UMet (row : Instr → Option URow) (i : Instr) (s : State) : Prop :=
  ∃ r e a b c, row i = some r ∧ At s e ∧ e.Performs r.pm r.nops a b c ∧ s.sliceOf e.w.wg = none ∧
    (r.all = true → ∀ l ∈ lanesOf e.f.mask, ∃ k, e.f.tok (r.nops - 1) e.slot l = some k ∧ k.isPoison = false) ∧ r.pre (s.dispatched e) e a b c
theorem u_met {row : Instr → Option URow} {i : Instr} {s : State} {r : URow} (a b c : Word) (hr : row i = some r) (h : s.env?.isSome = true)
    (g : s.powered = true ∧ (s.env?.get h).Performs r.pm r.nops a b c ∧ s.sliceOf (s.env?.get h).w.wg = none ∧
      (r.all = true → ∀ l ∈ lanesOf (s.env?.get h).f.mask, ((s.env?.get h).f.tok (r.nops - 1) (s.env?.get h).slot l).any (fun k => !k.isPoison) = true))
    (q : r.pre (s.dispatched (s.env?.get h)) (s.env?.get h) a b c) : UMet row i s :=
  ⟨r, _, a, b, c, hr, at_placed s h g.1, g.2.1, g.2.2.1, fun x l hl => by
    obtain ⟨k, hk, hp⟩ := (Option.any_eq_true _ _).1 (g.2.2.2 x l hl)
    exact ⟨k, hk, by simpa using hp⟩, q⟩
theorem witness_CommandDelivery : ∃ w lv f, (placed 0x8D03FFFF 0 0 0).warp 4 = some w ∧ w.levels.head? = some lv ∧ lv.frame = some f ∧ f.mask ≠ 0 := ⟨_, _, _, rfl, rfl, rfl, by decide⟩

/-- The state with a barrier object in the last 16 bytes of the allocation. -/
def obj (arrived : Nat) : BObj := { st := 1, scope := 0, halls := 0, expect := 2, arrived := arrived, phase := 65535, drops := 0, pend := 0 }
def withObj (o : BObj) (s : State) : State := s.updMem 3 (fun m => m.scrPut 0xFFF0 16 (bobjBytes o 0))
theorem bar_met {c : BCmd} {md : BitVec 3} {s : State} {e : Env} {a b : Word} (n : md.toNat < 4) (q : e.acqFree = true) (h : md ≠ 3)
    (r : c = .arrive ∨ c = .drop ∨ c = .arriveWait → s.released (s.hallOf e.w) e.w.ctx (md.toNat + 1) = true) (sp : Space) (x : Nat)
    (f : s.bfind e.w e.lv md a = .ok (sp, x)) (p : (s.spaceRead e.w sp x 16).2 = false) (t : barTakes c md b (bobjOf (s.spaceRead e.w sp x 16).1)) :
    barPre c md s e a b := ⟨n, q, r, by unfold barAt; rw [if_neg h]; exact ⟨sp, x, f, p, t⟩⟩
theorem witness_BarrierCommands_binit : UMet barRow (.binit 0 0) (placed 0x8403FFFF 0xFFF0 2 0) :=
  u_met 0xFFF0 2 0 rfl rfl (by decide) (bar_met (by decide) rfl (by decide) (fun _ => rfl) (.scratch 3) 0xFFF0 rfl rfl (by unfold barTakes; decide))
theorem witness_BarrierCommands_barv : UMet barRow (.barv 0 0 0x1FF 0x001) (withObj (obj 1) (placed 0x8483FE01 0xFFF0 0 0)) :=
  u_met 0xFFF0 0 0 rfl rfl (by decide) (bar_met (by decide) rfl (by decide) (fun _ => rfl) (.scratch 3) 0xFFF0 rfl rfl (by unfold barTakes; decide))
theorem witness_BarrierCommands_bard : UMet barRow (.bard 0 0) (withObj (obj 0) (placed 0x8503FFFF 0xFFF0 0 0)) :=
  u_met 0xFFF0 0 0 rfl rfl (by decide) (bar_met (by decide) rfl (by decide) (fun _ => rfl) (.scratch 3) 0xFFF0 rfl rfl (by unfold barTakes; decide))
theorem witness_BarrierCommands_bwait : UMet barRow (.bwait 0 0 0x1FF 0x001) (withObj (obj 0) (placed 0x8583FE01 0xFFF0 65535 0)) :=
  u_met 0xFFF0 65535 0 rfl rfl (by decide) (bar_met (by decide) rfl (by decide) (fun _ => rfl) (.scratch 3) 0xFFF0 rfl rfl (by unfold barTakes; decide))
theorem witness_BarrierCommands_bar : UMet barRow (.bar 0 0 0x1FF 0x001) (withObj (obj 1) (placed 0x8603FE01 0xFFF0 0 0)) :=
  u_met 0xFFF0 0 0 rfl rfl (by decide) (bar_met (by decide) rfl (by decide) (fun _ => rfl) (.scratch 3) 0xFFF0 rfl rfl (by unfold barTakes; decide))
theorem witness_BarrierCommands_bexpect : UMet barRow (.bexpect 0 0) (withObj (obj 0) (placed 0x8683FFFF 0xFFF0 8388607 0)) :=
  u_met 0xFFF0 8388607 0 rfl rfl (by decide) (bar_met (by decide) rfl (by decide) (fun _ => rfl) (.scratch 3) 0xFFF0 rfl rfl (by unfold barTakes; decide))
/-- A BINIT at device scope of the last 16 bytes of the address space. -/
theorem witness_BarrierCommands_device : UMet barRow (.binit 0 3) (placed 0x840FFFFF (BitVec.ofNat 64 (2 ^ 57 - 16)) 2 0) :=
  u_met (BitVec.ofNat 64 (2 ^ 57 - 16)) 2 0 rfl rfl (by decide) ⟨by decide, rfl, fun _ => rfl, by unfold barAt; rw [if_pos rfl]; decide⟩

/-- A reservation of the placed workgroup, with two tiles; and a pair's two reservations, the follower on core 1. -/
def resv (wg mode : Nat) : MRes := { rid := wg, wg := wg, mode := mode, nextOp := 0, closed := 0, complete := 0, batches := [], ops := [], held := none, releasing := false, slaved := 0 }
def oneRes (mode : Nat) (s : State) : State := { s.updCore 0 (fun c => { c with mres := [resv 3 mode] }) with wgs := s.wgs.map (fun p => (p.1, { p.2 with tiles := 2, slots := 2 })) }
def pairRes (s : State) : State :=
  let s1 := (oneRes 1 s).updCore 1 (fun c => { c with mres := [resv 7 2] })
  match mget s1.wgs 3 with
  | some g => { s1 with wgs := mset s1.wgs 7 { g with core := 1, warps := [] } }
  | none => s1
/-- Descriptors: tile 1, rows of 1024 bytes, the last at the allocation's end; K of 64. -/
def descA : Word := BitVec.ofNat 64 (2 ^ 38 + 1024 * 2 ^ 22)
def descB (k : Nat) : Word := BitVec.ofNat 64 (k * 2 ^ 38 + 1024 * 2 ^ 22)
theorem witness_MatrixCommands_mres : UMet matrixRow (.mres 0 2 0x1FF 0x001) (placed 0x680BFE01 0 0 0) := u_met 0 0 0 rfl rfl (by decide) (by decide : (2 : Nat) < 3)
theorem witness_MatrixCommands_mrel : UMet matrixRow (.mrel 0) (oneRes 0 (placed 0x6883FFFF 0 0 0)) := u_met 0 0 0 rfl rfl (by decide) ⟨_, rfl, rfl⟩
theorem witness_MatrixCommands_mma : UMet matrixRow (.mma 0 2 0x1FF 0x001) (oneRes 0 (placed 0x690BFE01 descA (descB 1024) 0)) :=
  u_met descA (descB 1024) 0 rfl rfl (by decide) ⟨by decide, rfl, _, _, ⟨rfl, rfl⟩, by decide, by decide, rfl, rfl, by unfold descOk; decide, by unfold descOk; decide, by decide, nofun⟩
theorem witness_MatrixCommands_mma_pair : UMet matrixRow (.mma 0 6 0x1FF 0x001) (pairRes (placed 0x691BFE01 descA (descB 1024) 0)) :=
  u_met descA (descB 1024) 0 rfl rfl (by decide) ⟨by decide, rfl, _, _, ⟨rfl, rfl⟩, by decide, by decide, rfl, rfl, by unfold descOk; decide, by unfold descOk; decide, by decide,
    fun _ => ⟨_, _, rfl, rfl, by decide⟩⟩
theorem witness_MatrixCommands_mman : UMet matrixRow (.mman 0 0 0x1FF 0x001) (oneRes 0 (placed 0x6983FE01 descA (descB 32) 0)) :=
  u_met descA (descB 32) 0 rfl rfl (by decide) ⟨by unfold i4Off; decide, rfl, _, _, ⟨rfl, rfl⟩, by decide, by decide, rfl, rfl, by unfold descOk; decide, by unfold descOk; decide, by decide, nofun⟩
theorem witness_MatrixCommands_mmanp : UMet matrixRow (.mmanp 0 3 0x1FF 0x001) (pairRes (placed 0x6A0FFE01 descA (descB 32) 0)) :=
  u_met descA (descB 32) 0 rfl rfl (by decide) ⟨by unfold i4Off; decide, rfl, _, _, ⟨rfl, rfl⟩, by decide, by decide, rfl, rfl, by unfold descOk; decide, by unfold descOk; decide, by decide,
    fun _ => ⟨_, _, rfl, rfl, by decide⟩⟩
theorem witness_MatrixCommands_mzero : UMet matrixRow (.mzero 0 0x1FF 0x001) (oneRes 0 (placed 0x6A83FE01 1 0 0)) :=
  u_met 1 0 0 rfl rfl (by decide) ⟨rfl, _, _, ⟨rfl, rfl⟩, by decide, by decide, rfl, by decide⟩
theorem witness_MatrixCommands_mcom : UMet matrixRow (.mcom 0 0x1FF 0x001) (oneRes 1 (placed 0x6B03FE01 0 0 0)) := u_met 0 0 0 rfl rfl (by decide) ⟨_, ⟨rfl, rfl⟩, by decide⟩
theorem witness_MatrixCommands_mwait : UMet matrixRow (.mwait 0 0x1FF 0x001) (oneRes 0 (placed 0x6B83FE01 1 0 0)) := u_met 1 0 0 rfl rfl (by decide) ⟨_, rfl, rfl⟩
theorem witness_MatrixCommands_mprog : UMet matrixRow (.mprog 0 0x1FF 0x001) (placed 0x6C03FE01 0 0 0) := u_met 0 0 0 rfl rfl (by decide) trivial
theorem witness_MatrixCommands_mstat : UMet matrixRow (.mstat 0 0x1FF 0x001) (placed 0x6C83FE01 0 0 0) := u_met 0 0 0 rfl rfl (by decide) trivial

theorem witness_RecipeCommands_recdef : UMet recipeRow (.recdef 0 0 0x1FF 0x001) (placed 0x7003FE01 0 0x1FC0 0) :=
  u_met 0 0x1FC0 0 rfl rfl (by decide) ⟨⟨by decide, rfl, nofun⟩, by decide, of_decide_eq_true (p := (0x1FC0 : Word).toNat + 64 ≤ 2 ^ 57) rfl⟩
theorem witness_RecipeCommands_recpin : UMet recipeRow (.recpin 0 0x1FF 0x001) (placed 0x7083FE01 0x1000 0 0) := u_met 0x1000 0 0 rfl rfl (by decide) ⟨rfl, _, rfl⟩
theorem witness_RecipeCommands_recunpin : UMet recipeRow (.recunpin 0 0x1FF 0x001) (placed 0x7103FE01 0x1000 0 0) := u_met 0x1000 0 0 rfl rfl (by decide) ⟨rfl, _, rfl⟩
theorem witness_RecipeCommands_recdrop : UMet recipeRow (.recdrop 0 0x1FF 0x001) (placed 0x7183FE01 0 0 0) := u_met 0 0 0 rfl rfl (by decide) rfl
theorem witness_RecipeCommands_recmat : UMet recipeRow (.recmat 0 0x1FF 0x001) (placed 0x7283FE01 0 0 0) := u_met 0 0 0 rfl rfl (by decide) rfl

/-- A queue of the placed warp's context. -/
def queueOf (role : QRole) (items : List QItem) : Queue :=
  { ctx := 0, role := role, cap := 4, closed := false, spill := false, onDie := 4, items := items, bindings := [], bound := none, nextMark := 0, batchSeq := 0, drops := 0, graph := none }
def withQueue (role : QRole) (items : List QItem) (s : State) : State := { s with queues := [(1023, queueOf role items)] }
/-- Two records at the allocation's end. -/
def recs : Word := BitVec.ofNat 64 (2 ^ 24 + 0xFF80)
theorem witness_WorkAndQueueCommands_launch : UMet workRow (.launch 0 4 0x1FF 0x001) (placed 0x8813FE01 0x1F80 0 0) :=
  u_met 0x1F80 0 0 rfl rfl (by decide) ⟨⟨by decide, rfl, by decide⟩, by decide, _, rfl⟩
theorem witness_WorkAndQueueCommands_trig : UMet workRow (.trig 0) (placed 0x8883FFFF 0 0 0) := u_met 0 0 0 rfl rfl (by decide) rfl
theorem witness_WorkAndQueueCommands_depwait : UMet workRow (.depwait 0 0x1FF 0x001) (placed 0x8903FE01 0 0 0) := u_met 0 0 0 rfl rfl (by decide) trivial
theorem witness_WorkAndQueueCommands_qput : UMet workRow (.qput 0 0 0x1FF 0x001) (withQueue .stage [] (placed 0x8C03FE01 1023 recs 0)) :=
  u_met 1023 recs 0 rfl rfl (by decide) ⟨⟨by decide, rfl, nofun⟩, ⟨by decide, by decide, by decide, _, rfl, by decide⟩, _, _, rfl, rfl, .inr rfl⟩
theorem witness_WorkAndQueueCommands_qtake : UMet workRow (.qtake 0 4 0x1FF 0x001) (withQueue .stage [] (placed 0x8C93FE01 1023 recs 0)) :=
  u_met 1023 recs 0 rfl rfl (by decide) ⟨by decide, rfl, by decide, by decide, by decide, _, rfl, by decide⟩
theorem witness_WorkAndQueueCommands_qclose : UMet workRow (.qclose 0) (withQueue .stage [] (placed 0x8D03FFFF 1023 0 0)) := u_met 1023 0 0 rfl rfl (by decide) trivial
theorem witness_WorkAndQueueCommands_qstat : UMet workRow (.qstat 0 0x1FF 0x001) (withQueue .stage [] (placed 0x8D83FE01 1023 0 0)) := u_met 1023 0 0 rfl rfl (by decide) trivial
theorem witness_WorkAndQueueCommands_qbind : UMet workRow (.qbind 0) (withQueue .stage [] (placed 0x8E03FFFF 1023 0x1FC0 0)) :=
  u_met 1023 0x1FC0 0 rfl rfl (by decide) ⟨by decide, rfl, _, _, rfl, rfl, .inr ⟨by decide, of_decide_eq_true (p := (0x1FC0 : Word).toNat + 64 ≤ 2 ^ 57) rfl⟩⟩

/-! ### The copy engine and the waits -/

/-- Tables that map the 2 MiB at 0x200000 to 0x400000: the root at 0, and a table of each level to the leaf. -/
def tables : List Host.Cell := [(0, 1), (1, 0x10), (0x1000, 1), (0x1001, 0x20), (0x2000, 1), (0x2001, 0x30), (0x3008, 0x1F), (0x300A, 0x40)]
def tabled (s : State) : State := { s with mem := tables }
theorem test_walk : (tabled (placed 0x2003FE01 0 0 0)).walk 0 0x212345 = .ok page [(1, 1, 0x40001F), (2, 0, 0x3001), (3, 0, 0x2001), (4, 0, 0x1001)] := by decide
theorem test_walk_absent : (tabled (placed 0x2003FE01 0 0 0)).walk 0 0x412345 = .bad 0x10 := by decide

theorem witness_CopyEngine_command : UMet copyRow (.cpy 0 2) (oneRes 0 (placed 0xBD0BFFFF 0xFFF0 0x7FF0 0)) :=
  u_met 0xFFF0 0x7FF0 0 rfl rfl (by decide) (by show copyPre _ _ _ _ _ _; unfold copyPre; decide)
/-- A copy of the page's last bytes to scratch that a barrier object counts. -/
def shape : Word := BitVec.ofNat 64 (2 * 2 ^ 57 + 3 * 2 ^ 49)
theorem witness_CopyEngine_global : UMet copyRow (.cpy 0 0) (mapped (placed 0xBD03FFFF 0x3FFFF0 0 shape)) :=
  u_met 0x3FFFF0 0 shape rfl rfl (by decide) (by show copyPre _ _ _ _ _ _; unfold copyPre; decide)
/-- A copy of the placed workgroup; a recipe; and the state with both. -/
def copy (dir src rowBytes beat : Nat) : Copy :=
  { wid := 4, wg := 3, ctx := 0, dir := dir, src := src, dst := 0, srcWg := 3, dstWg := 3, scope := 4, acq := true, rel := true, cmpl := 2, bar := 0xFFF, rows := 1,
    rowBytes := rowBytes, sstr := rowBytes, dstr := rowBytes, srcX := [page], dstX := [], beat := beat, wait := none, failed := [], asked := [], got := [], fixed := true, dep := 0, id := 8 }
def recipe (framed : Bool) (present : List Nat) : Recipe :=
  { tile := 0x200000, size := 4096, entry := 0, srcs := [none, none, none, none], param0 := 0, param1 := 0, crc := 0, mat := framed, framed := framed, run := false, depth := 0,
    pinned := 0, warps := 1, img := 0, present := present, bytes := present.map (fun k => (k, 7)), pois := [], used := present.map (fun k => (k, 0)) }
def copying (q : Copy) : State := (mapped (placed 0x2003FE01 0 0 0)).updCore 0 (fun c => { c with chans := [(7, q)] })
def withRecipe (r : Recipe) (s : State) : State := { s with ctxs := [(0, { ctxNew oneCfg with nextSeq := 2, recipes := [(0, r)] })] }
theorem beat_due {s : State} {core ch : Nat} {q : Copy} (h : mget (s.core core).chans ch = some q)
    (g : s.powered = true ∧ q.beat < q.beats ∧ q.wait = none ∧ (q.acq = true → q.beat = 0 → s.mayAcquire core q.scope = true)) : BeatDue s core ch q :=
  ⟨g.1, h, g.2⟩
/-- A copy of scratch bytes to tile memory of one piece and of two; of a recipe line that is missing; of a line that the hall has not; and one that is done. -/
def onePiece : State := copying (copy 2 0xFFF0 16 0)
def twoPieces : State := copying (copy 2 0xFFE0 32 0)
def missPiece : State := withRecipe (recipe false []) (copying (copy 0 0x200FF0 16 0))
def askPiece : State := copying (copy 0 0x200FF0 16 0)
def copied : State := copying (copy 2 0xFFE0 32 1)
theorem witness_CopyEngine_one : ∃ q s1 v p m, BeatDue onePiece 0 7 q ∧ q.pieces = 1 ∧ onePiece.copyRead 0 q (beatSrc q) = (s1, .data v p, m) :=
  ⟨_, _, _, _, _, beat_due rfl (by decide), rfl, rfl⟩
theorem witness_CopyEngine_two : ∃ q s1 s2 v1 v2 p1 p2 m1 m2, BeatDue twoPieces 0 7 q ∧ q.pieces = 2 ∧ twoPieces.copyRead 0 q (beatSrc q) = (s1, .data v1 p1, m1) ∧
    s1.copyRead 0 q (beatSrc q + 16) = (s2, .data v2 p2, m2) ∧ dirDst q.dir ≠ .glob := ⟨_, _, _, _, _, _, _, _, _, beat_due rfl (by decide), rfl, rfl, rfl, by decide⟩
/-- Two pieces that fill a sector of the mapped page. -/
def sectorCopy : State := (copying { copy 1 0xFFE0 32 0 with dst := 0x200000, dstX := [page], srcX := [] })
theorem witness_CopyEngine_sector : ∃ q s1 s2 v1 v2 p1 p2 m1 m2, BeatDue sectorCopy 0 7 q ∧ q.pieces = 2 ∧ sectorCopy.copyRead 0 q (beatSrc q) = (s1, .data v1 p1, m1) ∧
    s1.copyRead 0 q (beatSrc q + 16) = (s2, .data v2 p2, m2) ∧ dirDst q.dir = .glob ∧ beatDst q % 32 = 0 ∧ s2.copyPhys q q.dstX .wr (beatDst q) = some (0x400000, 0) ∧
    s2.copyPhys q q.dstX .wr (beatDst q + 16) = some (0x400010, 0) := ⟨_, _, _, _, _, _, _, _, _, beat_due rfl (by decide), rfl, rfl, rfl, by decide⟩
theorem witness_CopyEngine_missing : ∃ q s1 i ln m, BeatDue missPiece 0 7 q ∧ q.pieces = 1 ∧ missPiece.copyRead 0 q (beatSrc q) = (s1, .miss i ln, m) :=
  ⟨_, _, _, _, _, beat_due rfl (by decide), rfl, rfl⟩
theorem witness_CopyEngine_asks : ∃ q s1 pa key m, BeatDue askPiece 0 7 q ∧ q.pieces = 1 ∧ askPiece.copyRead 0 q (beatSrc q) = (s1, .ask pa key, m) ∧
    askPiece.copyAsked 0 q (beatSrc q) = false ∧ askPiece.coreNext 0 = true := ⟨_, _, _, _, _, beat_due rfl (by decide), rfl, rfl, by decide⟩
/-- Where a piece goes: scratch, with its granule filled or not, a tile, and the mapped page; and a releasing copy that fills. -/
theorem witness_CopyEngine_piece : ∃ g, mget onePiece.wgs (copy 0 0 16 0).dstWg = some g ∧ 0x100 % 16 = 0 ∧ dirDst (copy 0 0 16 0).dir = .scr ∧ dirDst (copy 2 0 16 0).dir = .tile :=
  ⟨_, rfl, by decide⟩
theorem witness_CopyEngine_line : dirDst (copy 1 0xFFE0 32 0).dir = .glob ∧ sectorCopy.home 0x40007F = .dev 0x40007F ∧ 0x400070 % 128 + 16 ≤ 128 ∧
    sectorCopy.copyPhys { copy 1 0xFFE0 32 0 with dst := 0x200000, dstX := [page], srcX := [] } [page] .wr 0x200070 = some (0x400070, 0) := by decide
theorem witness_CopyEngine_fills : ∃ g, mget onePiece.wgs ({ copy 0 0 32 1 with cmpl := 1, dst := 0x40 } : Copy).dstWg = some g ∧ 0 < (copy 0 0 32 1).rows ∧ 1 < (copy 0 0 32 1).rowBytes / 16 ∧
    (copy 0 0 32 1).rel = true ∧ (copy 0 0 32 1).scope ≠ 0 ∧ (copy 0 0 32 1).dstr % 16 = 0 := ⟨_, rfl, by decide⟩
theorem witness_CopyEngine_complete : ∃ q, copied.powered = true ∧ mget (copied.core 0).chans 7 = some q ∧
    q.beat = q.rows * ((q.rowBytes + 31) / 32) ∧ copied.copyReleased 0 q = true := ⟨_, rfl, rfl, by decide⟩

/-- A state whose slot waits. -/
def waiting (q : Wait) (s : State) : State := inFrame s (fun f => { f with waits := [(0, q)] })
theorem waits_on {s : State} {wid slot fid k : Nat} {w : Warp} {q : Wait} (hw : s.warp wid = some w) (h : w.uWait slot = some (fid, k, q)) (p : s.powered = true) :
    WaitsOn s wid slot w fid q := ⟨p, hw, k, h⟩
def barPlace : BHome := .space (.scratch 3) 0xFFF0
def barWait (o : BObj) (phase : Nat) (past : Option (Nat × Bool)) : State :=
  waiting (.bar 0 0xFFF0 phase barPlace past) (withObj o (placed 0x8603FE01 0xFFF0 0 0))
/-- The phase has changed; it changed and changed back; the object broke. No answer is awaited. -/
theorem witness_WaitsEnd_answered : (barWait (obj 0) 65534 none).accs = [] ∧ (barWait (obj 0) 65535 (some (0, false))).accs = [] ∧ (barWait { obj 0 with st := 2 } 65535 none).accs = [] := by decide
theorem witness_WaitsEnd_bar : ∃ w, WaitsOn (barWait (obj 0) 65534 none) 4 0 w 5 (.bar 0 0xFFF0 65534 barPlace none) ∧
    (barWait (obj 0) 65534 none).mayAcquire ((barWait (obj 0) 65534 none).coreOf w) (0 + 1) = true ∧
    (none : Option (Nat × Bool)).or (ended (bobjOf ((barWait (obj 0) 65534 none).bread w barPlace).1) 65534) = some (65535, false) := ⟨_, waits_on rfl rfl rfl, by decide⟩
theorem witness_WaitsEnd_over : ∃ w, WaitsOn (barWait (obj 0) 65535 (some (0, false))) 4 0 w 5 (.bar 0 0xFFF0 65535 barPlace (some (0, false))) ∧
    (barWait (obj 0) 65535 (some (0, false))).mayAcquire ((barWait (obj 0) 65535 (some (0, false))).coreOf w) (0 + 1) = true ∧
    (some (0, false)).or (ended (bobjOf ((barWait (obj 0) 65535 (some (0, false))).bread w barPlace).1) 65535) = some (0, false) := ⟨_, waits_on rfl rfl rfl, by decide⟩
theorem witness_WaitsEnd_broken : ∃ w, WaitsOn (barWait { obj 0 with st := 2 } 65535 none) 4 0 w 5 (.bar 0 0xFFF0 65535 barPlace none) ∧
    (barWait { obj 0 with st := 2 } 65535 none).mayAcquire ((barWait { obj 0 with st := 2 } 65535 none).coreOf w) (0 + 1) = true ∧
    (none : Option (Nat × Bool)).or (ended (bobjOf ((barWait { obj 0 with st := 2 } 65535 none).bread w barPlace).1) 65535) = some (65535, true) := ⟨_, waits_on rfl rfl rfl, by decide⟩
def matrixWait : State :=
  { waiting (.mwait 0 3 1 1) (placed 0x6B83FE01 1 0 0) with cores := [(0, { Core.idle with mres := [{ resv 3 0 with closed := 1, complete := 1 }] })] }
theorem witness_WaitsEnd_matrix : ∃ w, WaitsOn matrixWait 4 0 w 5 (.mwait 0 3 1 1) ∧ ∀ r ∈ (matrixWait.core 0).mres, r.rid = 3 → past32 r.complete 1 = true :=
  ⟨_, waits_on rfl rfl rfl, by decide⟩
def takeWait (ctx : Nat) (closed : Bool) (l : List QItem) : State :=
  { waiting (.qtake 1023 1 0xFFC0 0 0) (placed 0x8C83FE01 1023 0xFFC0 0) with queues := [(1023, { queueOf .stage l with ctx := ctx, closed := closed })] }
theorem witness_WaitsEnd_closed : ∃ w q, WaitsOn (takeWait 0 true []) 4 0 w 5 (.qtake 1023 1 0xFFC0 0 0) ∧ mget (takeWait 0 true []).queues 1023 = some q ∧
    q.items = [] ∧ q.closed = true := ⟨_, _, waits_on rfl rfl rfl, rfl, rfl, rfl⟩
theorem witness_WaitsEnd_foreign : ∃ w q, WaitsOn (takeWait 1 false [.rcd 9 0 0 false]) 4 0 w 5 (.qtake 1023 1 0xFFC0 0 0) ∧
    mget (takeWait 1 false [.rcd 9 0 0 false]).queues 1023 = some q ∧ q.ctx ≠ w.ctx := ⟨_, _, waits_on rfl rfl rfl, rfl, by decide⟩
theorem witness_WaitsEnd_take : ∃ w q, WaitsOn (takeWait 0 false [.rcd 9 0 0 false]) 4 0 w 5 (.qtake 1023 1 0xFFC0 0 0) ∧ mget (takeWait 0 false [.rcd 9 0 0 false]).queues 1023 = some q ∧
    q.ctx = w.ctx ∧ q.items = .rcd 9 0 0 false :: [] := ⟨_, _, waits_on rfl rfl rfl, rfl, rfl, rfl⟩
def depWait : State := waiting .dep (placed 0x8903FE01 0 0 0)
theorem witness_WaitsEnd_dep : ∃ w g, WaitsOn depWait 4 0 w 5 .dep ∧ depWait.gridOf w = some g ∧ depWait.depsComplete w.ctx g.lr = true ∧ depWait.mayAcquire (depWait.coreOf w) 4 = true :=
  ⟨_, _, waits_on rfl rfl rfl, rfl, by decide⟩
def spaceWait : State := waiting .space (oneRes 0 (placed 0x6A83FE01 1 0 0))
theorem witness_WaitsEnd_space : ∃ w lv f s1 o k, WaitsOn spaceWait 4 0 w 5 .space ∧ w.levelOf 5 = some lv ∧ lv.frame = some f ∧ spacePerform (f.word 0) = some k ∧
    k ⟨4, 0, w, lv, f⟩ spaceWait (f.opVal 0 0 (leaderOf f.mask)) (f.opVal 1 0 (leaderOf f.mask)) (f.opVal 2 0 (leaderOf f.mask)) = (s1, o) ∧ o ≠ .hold ∧ o ≠ .waits .space :=
  ⟨_, _, _, _, .done 0, _, waits_on rfl rfl rfl, rfl, rfl, rfl, rfl, by decide⟩

/-! ### Accesses, the matrix engine, slices and lines -/

def parked (s : State) : State := { s with accs := [(9, { acc (.load 6) 0x200000 8 with stat := .walk 32 })], walks := [{ ctx := 0, page := 32 }] }
def parkedGood : State := parked (tabled ldGlob)
def parkedBad : State := parked ldGlob
theorem witness_AccessEnds_walk : ∃ x used, parkedGood.walk 0 (32 * 65536) = .ok x used ∧ ({ ctx := 0, page := 32 } : Walk) ∈ parkedGood.walks.take 512 ∧
    parkedGood.parkedOn 0 32 = [(9, { acc (.load 6) 0x200000 8 with stat := .walk 32 })] := ⟨_, _, rfl, by decide⟩
theorem witness_AccessEnds_walk_bad : ∃ c, parkedBad.walk 0 (32 * 65536) = .bad c ∧ parkedBad.parkedOn 0 32 = [(9, { acc (.load 6) 0x200000 8 with stat := .walk 32 })] :=
  ⟨_, rfl, by decide⟩
/-- An access whose line has come. -/
def came (w : Nat) (a : Access) : State := { placed w 0x200078 0 0 with accs := [(9, a)] }
def gotLoad : Access := { acc (.load 6) 0x200078 8 with stat := .got 5 true, scope := 4 }
theorem witness_AccessEnds_load : ∃ w lv f, (came 0xA000C001 gotLoad).warp 4 = some w ∧ w.levels.head? = some lv ∧ lv.frame = some f ∧ f.fid = gotLoad.fid ∧
    mget (came 0xA000C001 gotLoad).accs 9 = some gotLoad ∧ gotLoad.lane < 64 ∧ (came 0xA000C001 gotLoad).readsOnce 4 5 0 = false ∧
    gotLoad.va % 128 + gotLoad.size ≤ 128 ∧ gotLoad.size = szBytes 6 ∧ f.storesBelow gotLoad.mos gotLoad.lane .global = [] ∧
    (scopeDev gotLoad.scope = true → (came 0xA000C001 gotLoad).invsApplied (hallOfCore ((came 0xA000C001 gotLoad).coreOf w)) gotLoad.seen = true) :=
  ⟨_, _, _, rfl, rfl, rfl, by decide⟩
def gotAtom : Access := { acc (.atomic 0 true false false false) 0x200078 8 with stat := .got 5 false, scope := 6 }
theorem witness_AccessEnds_atomic : ∃ w lv f, (came 0xB0800001 gotAtom).warp 4 = some w ∧ w.levels.head? = some lv ∧ lv.frame = some f ∧ f.fid = gotAtom.fid ∧
    mget (came 0xB0800001 gotAtom).accs 9 = some gotAtom ∧ gotAtom.lane < 64 ∧
    (scopeDev gotAtom.scope = true → (came 0xB0800001 gotAtom).invsApplied (hallOfCore ((came 0xB0800001 gotAtom).coreOf w)) gotAtom.seen = true) :=
  ⟨_, _, _, rfl, rfl, rfl, by decide⟩
def gotRecord : Access := { acc (.record 0 false) 0x200000 128 with stat := .got 0 false }
theorem witness_AccessEnds_record : ∃ w f, (came 0x8813FE01 gotRecord).warp 4 = some w ∧ (came 0x8813FE01 gotRecord).fidFrame 4 5 = some f ∧
    mget (came 0x8813FE01 gotRecord).accs 9 = some gotRecord ∧ gotRecord.scope = 0 ∧ (fOp (f.word 0)).toNat = 0x110 := ⟨_, _, rfl, rfl, by decide⟩
/-- An image of the tile at 2 MiB, in a context of four recipes; and an index past them. -/
def recipeCtx : Ctx := ctxNew { oneCfg with recipeCount := 4 }
theorem witness_AccessEnds_recdef : recdefCode recipeCtx 3 (0x200000 : Rec64) = none ∧ recdefCode recipeCtx 4 (0x200000 : Rec64) = some 0x09 := by decide

/-- A core whose one reservation holds one operation. -/
def operation (zero : Bool) (ktot : Nat) : MOp :=
  { num := 0, zero := zero, fmt := 2, pair := none, slave := none, tile := 1, aAddr := 0, aStride := 32, bAddr := 0, bStride := 32, k := 64, scales := [], kdone := 0, ktot := ktot, order := 8 }
def operating (o : MOp) : State := (oneRes 0 (placed 0x2003FE01 0 0 0)).updCore 0 (fun c => { c with mres := [{ resv 3 0 with ops := [o], nextOp := 1 }] })
theorem witness_MatrixEngine_kstep : ∃ r o, ((operating (operation false 2)).core 0).nextOp = some (r, o) ∧ (operating (operation false 2)).opMayRun 0 o = true ∧ o.kdone + 1 < o.ktot :=
  ⟨_, _, rfl, by decide⟩
theorem witness_MatrixEngine_retire : ∃ r o g, ((operating (operation true 1)).core 0).nextOp = some (r, o) ∧ mget (operating (operation true 1)).wgs r.wg = some g ∧ g.ended = false ∧
    (operating (operation true 1)).opMayRun 0 o = true ∧ o.ktot ≤ o.kdone + 1 ∧ o.pair = none ∧ o.zero = true ∧ 16384 * o.tile ≤ 32764 ∧ 32764 + 4 ≤ 16384 * o.tile + 16384 ∧
    32764 % 4 = 0 := ⟨_, _, _, rfl, rfl, by decide⟩
/-- The same for a pair: the follower's workgroup has a part of the operation. -/
def pairOp : MOp := { operation false 1 with pair := some 6, slave := some 5 }
def pairing : State :=
  let s := operating pairOp
  { s with wgs := s.wgs ++ [(6, { gang := 9, gid := 9, ctx := 0, num := 1, rank := 1, core := 1, base := 0x10000, size := 0x10000, tiles := 2, tile0 := 0, slots := 1,
                                  warps := [], mem := WgMem.start, triggered := false, ended := false, saved := false, alcove := false })] }
theorem witness_MatrixEngine_pair : ∃ r o g h, (pairing.core 0).nextOp = some (r, o) ∧ mget pairing.wgs r.wg = some g ∧ mget pairing.wgs 6 = some h ∧ pairing.opMayRun 0 o = true ∧
    o.ktot ≤ o.kdone + 1 ∧ o.pair = some 6 ∧ 6 ≠ r.wg ∧ o.zero = false := ⟨_, _, _, _, rfl, rfl, rfl, by decide⟩
def draining : State := inFrame (placed 0x2003FE01 0 0 0) (fun f => { f with vec := some ⟨0, 4, 1, true⟩ })
theorem witness_MatrixEngine_drain : ∃ w f v c entry, draining.warp 4 = some w ∧ w.frame = some f ∧ f.vec = some v ∧ mget draining.ctxs w.ctx = some c ∧ c.cfg.emu = some entry ∧
    v.drain = true ∧ w.stat = .ready ∧ draining.drained w = true := ⟨_, _, _, _, _, rfl, rfl, rfl, rfl, rfl, by decide⟩

/-- The formats of the element commands, and an element outside tile 1. -/
theorem witness_MatrixEngine_formats : ∀ n ∈ [0, 1, 2, 4, 5, 6, 7], (mformat n).isSome = true := by decide
theorem witness_MatrixEngine_outside : 4095 < 4096 * (operation false 2).tile ∧ 4096 * (operation false 2).tile + 4096 ≤ 8192 := by decide

/-- A slice of the recipe, placed in the workgroup of the state or not yet placed. -/
def slice (placed : Bool) : Slice :=
  { ctx := 0, idx := 0, band := 1, order := 8, hall := 0, cluster := 0, wgs := if placed then [3] else [], doneWids := [], staging := [], placed := placed }
def sliced (p : Bool) : State := { withRecipe (recipe false []) (placed 0x7203FFFF 0 0 0) with slices := [slice p] }
theorem witness_SlicesAndLines_done : ∃ e x, At (sliced true) e ∧ ((sliced true).dispatched e).sliceOf e.w.wg = some x ∧ e.Performs 0 1 0 0 0 ∧ (0 : Word).toNat = x.idx ∧
    ((sliced true).dispatched e).released ((sliced true).hallOf e.w) e.w.ctx 4 = true := ⟨_, _, at_placed _ (by decide) (by decide), rfl, by decide⟩
theorem witness_SlicesAndLines_place : ∃ x c r k, (sliced false).slices.find? (fun y => y.ctx == 0 && y.idx == 0 && !y.placed) = some x ∧ mget (sliced false).ctxs 0 = some c ∧
    mget c.recipes 0 = some r ∧ (sliced false).sliceCluster x r.warps c.savedHalls = some k ∧ k < 104 ∧
    (∀ y ∈ (sliced false).slices, y.placed = false → y.band = x.band → x.order ≤ y.order) ∧ (sliced false).stagingUsed x.band + r.size ≤ 33554432 :=
  ⟨_, _, _, 0, rfl, rfl, rfl, by decide⟩
def galLine (dirty : Bool) : GLine := { ctx := 0, data := 0xFF, dirty := dirty, key := 0, halls := [0], pois := 0, keep := [], used := 0 }
def galled (dirty : Bool) : State := { placed 0x2003FE01 0 0 0 with gal := [(5, galLine dirty)] }
theorem witness_SlicesAndLines_evict : ∃ g, mget (galled true).gal 5 = some g ∧ (galled true).tileAt 5 = none ∧ hostLine 5 = false ∧ g.dirty = true := ⟨_, rfl, by decide⟩
theorem witness_SlicesAndLines_evict_clean : ∃ g, mget (galled false).gal 5 = some g ∧ (galled false).tileAt 5 = none ∧ hostLine 5 = false ∧ g.dirty = false := ⟨_, rfl, by decide⟩
def tileState (framed : Bool) : State := tabled (withRecipe (recipe framed [31]) (placed 0x2003FE01 0 0 0))
theorem witness_SlicesAndLines_tile : ∃ c r, mget (tileState true).ctxs 0 = some c ∧ mget c.recipes 0 = some r ∧ r.framed = true ∧ (tileState true).tileAt (0x8000 + 31) = some (0, 0, 31, 0) :=
  ⟨_, _, rfl, rfl, by decide⟩
theorem witness_SlicesAndLines_tile_dropped : ∃ c r, mget (tileState false).ctxs 0 = some c ∧ mget c.recipes 0 = some r ∧ r.framed = false ∧
    (tileState false).tileAt (0x8000 + 31) = some (0, 0, 31, 0) := ⟨_, _, rfl, rfl, by decide⟩
def filling : State :=
  { placed 0x2003FE01 0 0 0 with clusters := [(103, { Cluster.idle with fills := [{ ctx := 0, line := 5, key := 0, sent := true, got := some ⟨0, 9, 15, 0, 0⟩ }] })] }
theorem witness_SlicesAndLines_fill : ∃ f c, (filling.cluster 103).fills.find? (fun f => f.line == 5 && f.got.isSome) = some f ∧ f.got = some c := ⟨_, _, rfl, rfl⟩

/-! ### The life of a block -/

/-- The placed warp between two blocks, with a decoded block in its core's buffer. -/
def blockAtZero : Block :=
  { addr := 0, nread := 1, nslot := 2, landing := false, acq := false, specok := false, relscope := 0, nsink := 0, pfBase := 0, pfLen := 0, wregs := [], reads := [0x3F03FE00],
    slots := [0x2003FE01, 0x8283FFFF] }
def between (pc : Word) : State :=
  ((placed 0x2003FE01 1 2 0).updWarp 4 (fun w => w.setTop (fun lv => { lv with frame := none, pc := pc, mask := 1 }))).updCore 0 (fun c => { c with l0 := [⟨0, blockAtZero⟩] })
theorem runs {s : State} {wid : Nat} {w : Warp} {lv : Level} (h : s.warp wid = some w) (l : w.levels.head? = some lv) (g : s.powered = true ∧ w.stat = .ready ∧ w.fetch = Fetching.idle ∧ w.stq = []) :
    Runs s wid w lv := ⟨g.1, h, l, g.2⟩
theorem witness_BlockLife_start : ∃ w lv s1 b, Runs (between 0) 4 w lv ∧ (between 0).blockAt ((between 0).coreOf w) w lv.pc = (s1, .ok b) ∧ s1.warp 4 = some w ∧ lv.frame = none ∧ lv.mask ≠ 0 ∧
    (between 0).holdsFrame 4 w = true ∧ (between 0).mustPass 4 w = false ∧ (between 0).fetchStopped w = false ∧ (between 0).walkClear ((between 0).coreOf w) w.ctx lv.pc.toNat 304 = true ∧
    startScope w b = 0 ∧ b.reads = [] ++ [0x3F03FE00] ∧ 0 ∈ lanesOf lv.mask := ⟨_, _, _, _, runs rfl rfl (by decide), rfl, rfl, by decide⟩
theorem witness_BlockLife_decode_trap : ∃ w lv s1 c slot info, Runs (between 8) 4 w lv ∧ (between 8).blockAt ((between 8).coreOf w) w lv.pc = (s1, .trap c slot info) ∧ lv.frame = none ∧
    lv.mask ≠ 0 ∧ (between 8).holdsFrame 4 w = true ∧ (between 8).mustPass 4 w = false ∧ (between 8).fetchStopped w = false ∧
    (between 8).walkClear ((between 8).coreOf w) w.ctx lv.pc.toNat 304 = true ∧ (between 8).postRoom w.ctx = true := ⟨_, _, _, _, _, _, runs rfl rfl (by decide), rfl, by decide⟩
/-- The warp stands on a page of code that its core translates and no cache holds. -/
def coldCode : State := { (between 0x200000).updCore 0 (fun c => { c with tlb := [page] }) with ctxs := [(0, { ctxNew oneCfg with keys := [0], nextSeq := 2 })] }
theorem witness_BlockLife_fetch : ∃ w lv s1, Runs coldCode 4 w lv ∧ coldCode.blockAt (coldCode.coreOf w) w lv.pc = (s1, .wait [] [0x8000]) ∧ lv.frame = none ∧ lv.mask ≠ 0 ∧
    coldCode.holdsFrame 4 w = true ∧ coldCode.mustPass 4 w = false ∧ coldCode.fetchStopped w = false ∧ coldCode.walkClear (coldCode.coreOf w) w.ctx lv.pc.toNat 304 = true ∧
    (s1.cluster (coldCode.coreOf w / 8)).fills ≠ (coldCode.cluster (coldCode.coreOf w / 8)).fills := ⟨_, _, _, runs rfl rfl (by decide), rfl, by decide⟩
/-- The warp stands on a recipe's tile that has not been materialized. -/
def tileCode : State := { coldCode with ctxs := [(0, { ctxNew oneCfg with keys := [0], nextSeq := 2, recipes := [(0, recipe false [])] })] }
theorem witness_BlockLife_fetch_tile : ∃ w lv s1 m l, Runs tileCode 4 w lv ∧ tileCode.blockAt (tileCode.coreOf w) w lv.pc = (s1, .wait m l) ∧ m ≠ [] ∧ lv.frame = none ∧ lv.mask ≠ 0 ∧
    tileCode.holdsFrame 4 w = true ∧ tileCode.mustPass 4 w = false ∧ tileCode.fetchStopped w = false ∧ tileCode.walkClear (tileCode.coreOf w) w.ctx lv.pc.toNat 304 = true :=
  ⟨_, _, _, _, _, runs rfl rfl (by decide), rfl, by decide⟩
/-- A frame that is complete: register 63 written, one successor. -/
def complete (g : Frame → Frame) : State :=
  inFrame (placed 0 0 0 0) (fun f => g { f with blk := { f.blk with slots := [], wregs := [63], nslot := 0 }, toks := [(tokKey 4 0 0, .value 9)], bouts := [(0, 0, .succ 0x40)] })
theorem only_first (m : Nat) (h : ([63] : List (BitVec 6))[m]? = some 63) : m = 0 := by
  cases m with
  | zero => rfl
  | succ n => exact nomatch (show (none : Option (BitVec 6)) = some 63 from h)
theorem commit_ready {s : State} {wid : Nat} {w : Warp} {lv : Level} {f : Frame} (r : Runs s wid w lv) (h : lv.frame = some f) (g : s.hbmq = [] ∧ f.complete = true ∧ f.poisoned = [] ∧
    f.offending = 0 ∧ f.mask ≠ 0 ∧ s.released (s.hallOf w) w.ctx f.blk.relscope = true ∧ ∀ b ∈ f.bouts, b.2.1 ∈ lanesOf f.mask) : CommitReady s wid w lv f := ⟨r, g.1, h, g.2⟩
/-- Where a block commits to one successor, with what else a clause asks of its frame. -/
def Commits (s : State) (q : Warp → Level → Frame → Prop) : Prop := ∃ w lv f, CommitReady s 4 w lv f ∧ OneWay lv f 0x40 ∧ q w lv f
theorem commits {s : State} {q : Warp → Level → Frame → Prop} {w : Warp} {lv : Level} {f : Frame} (r : Runs s 4 w lv) (h : lv.frame = some f) (g : s.hbmq = [] ∧ f.complete = true ∧
    f.poisoned = [] ∧ f.offending = 0 ∧ f.mask ≠ 0 ∧ s.released (s.hallOf w) w.ctx f.blk.relscope = true ∧ ∀ b ∈ f.bouts, b.2.1 ∈ lanesOf f.mask)
    (o : lv.div = [] ∧ ∀ b ∈ f.bouts, b.2.2 = .succ 0x40) (k : q w lv f) : Commits s q := ⟨w, lv, f, commit_ready r h g, o, k⟩
theorem witness_BlockLife_commit : Commits (complete id) (fun _ _ f => Plain f ∧ (∀ m : Nat, f.blk.wregs[m]? = some (63 : BitVec 6) → m = 0) ∧ f.blk.wregs[(0 : Nat)]? = some (63 : BitVec 6) ∧
    f.tok 4 0 0 = some (.value 9)) := commits (runs rfl rfl (by decide)) rfl (by decide) (by decide) ⟨by unfold Plain NoFence; decide, only_first, by decide⟩
/-- SWREG of a handler register, twice, and of a window register. -/
theorem witness_BlockLife_swreg : Commits (complete (fun f => { f with swr := [(0, 0, 0x0C0, 5), (1, 0, 0x0C0, 6)] })) (fun _ _ f => Plain f ∧ (∀ q ∈ f.swr, q.2.1 < 64 ∧ 0x0C0 ≤ q.2.2.1) ∧
      ∃ q ∈ f.swr, ∀ p ∈ f.swr, p.2.1 = q.2.1 → p.2.2.1 = q.2.2.1 → p.1 < q.1 ∨ p = q) ∧
    Commits (complete (fun f => { f with swr := [(0, 0, 0x090, 5)] })) (fun _ _ f => Plain f ∧ f.swr = [(0, 0, 0x090, 5)]) :=
  ⟨commits (runs rfl rfl (by decide)) rfl (by decide) (by decide) (by unfold Plain NoFence; decide), commits (runs rfl rfl (by decide)) rfl (by decide) (by decide) (by unfold Plain NoFence; decide)⟩
/-- One buffered sink of a complete block. -/
def sinkOf (kind : SinkKind) (space : Space) (addr size : Nat) : Sink :=
  { slot := 0, lane := 0, mos := 0, kind := kind, space := space, addr := addr, size := size, data := 77, xl := [page], stale := false, lost := 0 }
def storing (k : Sink) : State := complete (fun f => { f with sinks := [k] })
theorem stands_in {s : State} {wg : Nat} {g : Wg} (h : mget s.wgs wg = some g) (e : g.ended = false) : Stands s wg := ⟨g, h, e⟩
theorem witness_BlockLife_store : Commits (storing (sinkOf .store (.scratch 3) 0xFFF8 8)) (fun w _ f => OneSink f (sinkOf .store (.scratch 3) 0xFFF8 8) ∧
      Freed (storing (sinkOf .store (.scratch 3) 0xFFF8 8)) w f (sinkOf .store (.scratch 3) 0xFFF8 8) ∧ StoreStands (storing (sinkOf .store (.scratch 3) 0xFFF8 8)) w (.scratch 3) 0xFFF8 8) ∧
    Commits (storing (sinkOf (.strel 6) .global 0x2FFFFC 4)) (fun w _ f => OneSink f (sinkOf (.strel 6) .global 0x2FFFFC 4) ∧
      Freed (storing (sinkOf (.strel 6) .global 0x2FFFFC 4)) w f (sinkOf (.strel 6) .global 0x2FFFFC 4) ∧ (storing (sinkOf (.strel 6) .global 0x2FFFFC 4)).sliceOf w.wg = none ∧
      physIn [page] 0x2FFFFC = some (0x4FFFFC, 0) ∧ ∃ p, (storing (sinkOf (.strel 6) .global 0x2FFFFC 4)).home 0x4FFFFC = .dev p ∧ p % 128 = 0x4FFFFC % 128) :=
  ⟨commits (runs rfl rfl (by decide)) rfl (by decide) (by decide) ⟨by unfold OneSink NoFence; decide, .inl rfl, stands_in rfl rfl⟩,
   commits (runs rfl rfl (by decide)) rfl (by decide) (by decide) ⟨by unfold OneSink NoFence; decide, .inr ⟨6, rfl, by decide⟩, rfl, rfl, _, rfl, by decide⟩⟩
theorem witness_BlockLife_full_empty : ∀ k ∈ [SinkKind.storeFE, .feset, .feclr], Commits (storing (sinkOf k (.scratch 3) 0xFFF8 8)) (fun _ _ f =>
    OneSink f (sinkOf k (.scratch 3) 0xFFF8 8) ∧ Stands (storing (sinkOf k (.scratch 3) 0xFFF8 8)) 3) := by
  intro k hk
  simp only [List.mem_cons, List.not_mem_nil, or_false] at hk
  rcases hk with rfl | rfl | rfl <;>
    exact commits (runs rfl rfl (by decide)) rfl (by decide) (by decide) ⟨by unfold OneSink NoFence; decide, stands_in rfl rfl⟩
theorem witness_BlockLife_line : ∀ k ∈ [SinkKind.disc, .clean], Commits (storing (sinkOf k .global 0x200080 128)) (fun w _ f => OneSink f (sinkOf k .global 0x200080 128) ∧
    ∃ p, LineAt (storing (sinkOf k .global 0x200080 128)) w (sinkOf k .global 0x200080 128) 0x400080 p 0 ∧
    ∀ sc ∈ [4, 5], (storing (sinkOf k .global 0x200080 128)).released ((storing (sinkOf k .global 0x200080 128)).hallOf w) w.ctx sc = true) := by
  intro k hk
  simp only [List.mem_cons, List.not_mem_nil, or_false] at hk
  rcases hk with rfl | rfl <;>
    exact commits (runs rfl rfl (by decide)) rfl (by decide) (by decide) ⟨by unfold OneSink NoFence; decide, _, ⟨rfl, by decide, rfl, rfl, rfl, rfl⟩, by decide⟩
/-- A FRESUME for another warp of the context, which services its own faults. -/
def resuming : State :=
  let s := complete (fun f => { f with fres := [(0, 99)] })
  { s with
    warps := s.warps ++ [(50, { warpStart 0 3 1 1 .supervisor 0 0 0 [] with stat := .parked 99 })],
    ctxs := [(0, { ctxNew { oneCfg with servicer := some 0 } with nextSeq := 2 })] }
theorem witness_BlockLife_fresume : Commits resuming (fun w _ f => f.sinks = [] ∧ NoFence f ∧ f.fres = [(0, 99)] ∧ resuming.released (resuming.hallOf w) w.ctx 4 = true ∧
    ∃ v c, resuming.warp 50 = some v ∧ v.stat = .parked 99 ∧ mget resuming.ctxs v.ctx = some c ∧ c.cfg.servicer = some w.ctx) :=
  commits (runs rfl rfl (by decide)) rfl (by decide) (by decide) ⟨rfl, by unfold NoFence; decide, rfl, by decide, _, _, rfl, rfl, rfl, by decide⟩
def exiting : State := complete (fun f => { f with bouts := [(0, 0, .exit)] })
theorem witness_BlockLife_exit : ∃ w lv f, CommitReady exiting 4 w lv f ∧ Plain f ∧ lv.div = [] ∧ exiting.postRoom w.ctx = true ∧ (∀ b ∈ f.bouts, b.2.2 = .exit) ∧ exiting.sliceOf w.wg = none :=
  ⟨_, _, _, commit_ready (runs rfl rfl (by decide)) rfl (by decide), by unfold Plain NoFence; decide⟩
/-- The handler level's block returns in every lane. -/
def returningBlock : State :=
  (complete (fun f => { f with bouts := [(0, 0, .ret)] })).updWarp 4 (fun w => { w with levels := w.levels ++ w.levels.map (fun v => { v with frame := none }) })
theorem witness_BlockLife_return : ∃ w lv f lo, CommitReady returningBlock 4 w lv f ∧ Plain f ∧ lv.div = [] ∧ returningBlock.postRoom w.ctx = true ∧ (∀ b ∈ f.bouts, b.2.2 = .ret) ∧
    lv.exited = 0 ∧ w.levels = [lv, lo] := ⟨_, _, _, _, commit_ready (runs rfl rfl (by decide)) rfl (by decide), by unfold Plain NoFence; decide, rfl, by decide, by decide, by decide, rfl⟩
/-- Two lanes and the addresses they go to; blocks of the context at both, the first a landing or not. -/
def splitting (la : Bool) (a b : Word) : State :=
  (complete (fun f => { f with mask := 3, toks := [(tokKey 4 0 0, .value 9), (tokKey 4 0 1, .value 9)], bouts := [(0, 0, .succ a), (0, 1, .succ b)] })).updCore 0 (fun c =>
    { c with l0 := [⟨0, { blockAtZero with addr := 0x40, landing := la }⟩, ⟨0, { blockAtZero with addr := 0x80 }⟩] })
theorem witness_BlockLife_split : ∀ la, ∃ w lv f s1, CommitReady (splitting la 0x40 0x80) 4 w lv f ∧ Plain f ∧ (splitting la 0x40 0x80).postRoom w.ctx = true ∧ lv.div = [] ∧
    (∀ o ∈ f.bouts, o.2.2 = .succ 0x40 ∨ o.2.2 = .succ 0x80) ∧ (∃ o ∈ f.bouts, o.2.2 = .succ 0x40) ∧ (∃ o ∈ f.bouts, o.2.2 = .succ 0x80) ∧
    (splitting la 0x40 0x80).walkClear ((splitting la 0x40 0x80).coreOf w) w.ctx 0x40 16 = true ∧ (splitting la 0x40 0x80).walkClear ((splitting la 0x40 0x80).coreOf w) w.ctx 0x80 16 = true ∧
    (splitting la 0x40 0x80).landings ((splitting la 0x40 0x80).coreOf w) w [0x40, 0x80] = (s1, [(0x40, .is la), (0x80, .is false)]) := by
  intro la
  cases la <;>
    exact ⟨_, _, _, _, commit_ready (runs rfl rfl (by decide)) rfl (by decide), by unfold Plain NoFence; decide, by decide, rfl, by decide, by decide, by decide, by decide, by decide, rfl⟩
/-- The level has split: its running path reaches the landing where the other is parked. -/
def merging : State :=
  (splitting true 0x40 0x40).updWarp 4 (fun w => w.setTop (fun v => { v with div := [{ parent := 15, paths := [{ addr := 0, mask := 3, st := .running }, { addr := 0x40, mask := 12, st := .parked }] }] }))
theorem witness_BlockLife_merge : ∃ w lv f p q r s1, CommitReady merging 4 w lv f ∧ Plain f ∧ merging.postRoom w.ctx = true ∧ lv.div = [r] ∧ r.paths = [p, q] ∧ p.st = .running ∧ q.st = .parked ∧
    q.addr = 0x40 ∧ (∀ o ∈ f.bouts, o.2.2 = .succ 0x40) ∧ merging.walkClear (merging.coreOf w) w.ctx 0x40 16 = true ∧ merging.landings (merging.coreOf w) w [0x40] = (s1, [(0x40, .is true)]) :=
  ⟨_, _, _, _, _, _, _, commit_ready (runs rfl rfl (by decide)) rfl (by decide), by unfold Plain NoFence; decide, by decide, rfl, rfl, rfl, rfl, rfl, by decide, by decide, rfl⟩
def spoiled : State := complete (fun f => { f with spois := [(5, 0, .poison 5 0x14 0x10000)] })
theorem witness_BlockLife_poisoned : ∃ w lv f, Runs spoiled 4 w lv ∧ lv.frame = some f ∧ f.complete = true ∧ reported f.poisoned = some (5, 0, .poison 5 0x14 0x10000) ∧
    spoiled.postRoom w.ctx = true := ⟨_, _, _, runs rfl rfl (by decide), rfl, by decide⟩
def branchless : State := complete (fun f => { f with bouts := [] })
theorem witness_BlockLife_no_branch : ∃ w lv f, Runs branchless 4 w lv ∧ lv.frame = some f ∧ f.complete = true ∧ f.poisoned = [] ∧ f.offending ≠ 0 ∧ branchless.postRoom w.ctx = true :=
  ⟨_, _, _, runs rfl rfl (by decide), rfl, by decide⟩
/-- Sixteen pairs of 16-lane warps on one core: the last shares a frame. -/
def pairs : State :=
  { placed 0x2003FE01 0 0 0 with
    warps := (List.range 16).map (fun i => (90 + i, { warpStart 0 3 i 16 .supervisor 0 0 0 [] with shareHold := i == 14, shareUsed := i == 14 })) }
theorem witness_BlockLife_handoff : ∃ w lv v, Runs pairs 104 w lv ∧ pairs.partner 104 w = some (105, v) ∧ pairs.sharing 104 w = true ∧ pairs.holdsFrame 104 w = true ∧ v.stat = .ready ∧
    w.frame = none ∧ w.shareUsed = true := ⟨_, _, _, runs rfl rfl (by decide), rfl, by decide⟩
def starving : State := { placed 0x2003FE01 1 2 0 with time := 320, grids := [(1, gridNew 0 1 .plain { oneLr with prio := 0 } 0)] }
theorem witness_BlockLife_starving : ∃ w lv f g, Runs starving 4 w lv ∧ lv.frame = some f ∧ starving.gridOf w = some g ∧ f.readySlot = true ∧ max g.lr.prio w.raised < 3 ∧
    256 ≤ (starving.time - w.lastDispatch) * mgetD starving.islands (starving.coreOf w) 800 / 1000 := ⟨_, _, _, _, runs rfl rfl (by decide), rfl, rfl, by decide⟩

/-! ### The hall links -/

def txn (ty : TxnType) : Txn :=
  { type := ty, tag := 5, ctx := 0, sect := 15, aop := 0, a64 := true, acas := false, af32 := false, key := 0, pa := 0x400078, data := 7, mask := byteMask 0x78 8, pois := 0 }
/-- Module 11 of hall 7 has accepted a transaction, for an access that waits under its tag; with the poisoned sectors of its line. -/
def accepted (up : Bool) (ty : TxnType) (pois : BitVec 4) : State :=
  { placed 0xA000C001 0x200078 0 0 with
    halls := [(7, { Hall.idle with mods := [(11, Module.up0.setChan up { Chan.idle with accepted := [txn ty] })] })],
    gal := [(0x8000, { ctx := 0, data := 9, dirty := false, key := 0, halls := [], pois := pois, keep := [], used := 0 })],
    accs := [(9, { acc (.load 6) 0x200078 8 with stat := .sent 7 5 })] }
theorem witness_HallTransactions_read : Head (accepted true .read 0) 7 11 true .read (txn .read) ∧ (accepted true .read 0).hostAbsent ((txn .read).pa / 128) = false ∧
    (accepted true .read 0).readTag 7 (txn .read).tag = none := by unfold Claims.Head; decide
/-- The hall reads the line for a prefetch. -/
def hallReads : State :=
  (accepted true .read 0).updHall 7 (fun h => { h with reads := [{ tag := 5, ctx := 0, seen := 0, who := .pref none }] })
theorem witness_HallTransactions_read_for : ∃ q, hallReads.readTag 7 (txn .read).tag = some q ∧ q.who.codeLine = none ∧ Head hallReads 7 11 true .read (txn .read) ∧
    hallReads.hostAbsent ((txn .read).pa / 128) = false := ⟨_, rfl, by unfold Claims.Head; decide⟩
theorem witness_HallTransactions_write : Head (accepted true .write 0) 7 11 true .write (txn .write) ∧ (accepted true .write 0).hostAbsent ((txn .write).pa / 128) = false := by unfold Claims.Head; decide
/-- A DISC, a CLEAN and a recipe line's DISC among the writes, and a barrier command among the atomics. -/
def coded (ty : TxnType) (aop : BitVec 3) : Txn := { txn ty with aop := aop, mask := 0 }
def carrying (ty : TxnType) (aop : BitVec 3) : State :=
  { accepted true ty 0 with
    halls := [(7, { Hall.idle with mods := [(11, Module.up0.setChan true { Chan.idle with accepted := [coded ty aop] })] })],
    gal := [(0x8000, { ctx := 0, data := 9, dirty := true, key := 0, halls := [], pois := 0, keep := [], used := 0 })] }
theorem witness_HallTransactions_codes : (∀ k ∈ [1, 2, 3], Head (carrying .write k) 7 11 true .write (coded .write k) ∧ (carrying .write k).hostAbsent ((coded .write k).pa / 128) = false) ∧
    (carrying .write 2).tileAt ((coded .write 2).pa / 128) = none ∧ hostLine ((coded .write 2).pa / 128) = false ∧
    Head (carrying .atomic 7) 7 11 true .atomic (coded .atomic 7) ∧ (carrying .atomic 7).hostAbsent ((coded .atomic 7).pa / 128) = false := by unfold Claims.Head; decide
def discards : State := { carrying .write 3 with ctxs := (tabled (withRecipe (recipe false [0]) (placed 0x2003FE01 0 0 0))).ctxs, mem := (tabled (placed 0x2003FE01 0 0 0)).mem }
theorem witness_HallTransactions_code_line : ∃ q, (discards.updHall 7 (fun h => { h with reads := [{ tag := 5, ctx := 0, seen := 0, who := .code 0 0x8000 }] })).readTag 7 5 = some q ∧
    q.who.codeLine.isSome = true := ⟨_, rfl, by decide⟩
theorem witness_HallTransactions_atomic : Head (accepted true .atomic 0) 7 11 true .atomic (txn .atomic) ∧ (txn .atomic).pa % 128 + (if (txn .atomic).a64 then 8 else 4) ≤ 128 ∧
    (accepted true .atomic 0).hostAbsent ((txn .atomic).pa / 128) = false ∧
    ((accepted true .atomic 0).galBytes (txn .atomic).pa 8 (txn .atomic).key).2 = false ∧ ((accepted true .atomic 8).galBytes (txn .atomic).pa 8 (txn .atomic).key).2 = true := by
  unfold Claims.Head; decide
/-- A read of a line of host memory that the Gallery does not hold. -/
def hostTxn : Txn := { txn .read with pa := 128 * 0x80000000000 }
def hostRead : State := { State.reset with halls := [(7, { Hall.idle with mods := [(11, Module.up0.setChan true { Chan.idle with accepted := [hostTxn] })] })] }
theorem witness_HallTransactions_host : Head hostRead 7 11 true .read hostTxn ∧ hostRead.hostAbsent (hostTxn.pa / 128) = true ∧ hostRead.hostAsked (hostTxn.pa / 128) = false := by unfold Claims.Head; decide
theorem witness_HallTransactions_data : ∃ a, (accepted false .readData 0).byTag 7 (txn .readData).tag = some (9, a) ∧ Head (accepted false .readData 0) 7 11 false .readData (txn .readData) ∧
    (accepted false .readData 0).readTag 7 (txn .readData).tag = none ∧ ∀ p ∈ (accepted false .readData 0).accs, p.2.stat ≠ .queued := ⟨_, rfl, by unfold Claims.Head; decide⟩
/-- The line comes for the cluster's fill, for a copy and for the L1. -/
def comesFor (who : ReadFor) : State :=
  let s := (accepted false .readData 0).updHall 7 (fun h => { h with reads := [{ tag := 5, ctx := 0, seen := 0, who := who }] })
  s.updCore 728 (fun c => { c with chans := [(7, copy 0 0x200070 16 0)] })
theorem witness_HallTransactions_data_for : ∀ who ∈ [ReadFor.code 91 0x8000, .pref none, .pref (some 728), .copy 8 0x8000],
    Head (comesFor who) 7 11 false .readData (txn .readData) ∧ ((comesFor who).readTag 7 (txn .readData).tag).any (fun q => decide (q.who = who)) = true := by unfold Claims.Head; decide
theorem witness_HallTransactions_data_copy : ∃ y, (comesFor (.copy 8 0x8000)).copyById 8 = some (728, 7, y) := ⟨_, rfl⟩
theorem witness_HallTransactions_ack : Head (accepted false .writeAck 0) 7 11 false .writeAck (txn .writeAck) := by unfold Claims.Head; decide
theorem witness_HallTransactions_result : ∃ a, (accepted false .atomicResult 0).byTag 7 (txn .atomicResult).tag = some (9, a) ∧
    Head (accepted false .atomicResult 0) 7 11 false .atomicResult (txn .atomicResult) ∧ ∀ p ∈ (accepted false .atomicResult 0).accs, p.2.stat ≠ .queued := ⟨_, rfl, by unfold Claims.Head; decide⟩
theorem witness_HallTransactions_invalidate : Head (accepted false .invalidate 0) 7 11 false .invalidate (txn .invalidate) := by unfold Claims.Head; decide
theorem witness_HallTransactions_invalidate_ack : Head (accepted true .invalidateAck 0) 7 11 true .invalidateAck (txn .invalidateAck) := by unfold Claims.Head; decide

def flit (n : Nat) (l : List Txn) : Flit := { seq := n, txns := l, ack := none, nak := none }
/-- Module 11 of hall 7 with a channel upward. -/
def linked (t width : Nat) (c : Chan) : State :=
  { State.reset with time := t, halls := [(7, { Hall.idle with mods := [(11, { Module.up0.setChan true c with width := width })] })] }
/-- A flit of one read on its way, the last sequence number expected; and a control flit. -/
def flying (l : List Txn) : State := linked 0 1 { Chan.idle with flight := [flit 1023 l], expect := 1023 }
theorem witness_HallLinkFlits_receive : LinkUp (flying [txn .read]) 7 11 ∧ (((flying [txn .read]).mod 7 11).chan true).flight = flit 1023 [txn .read] :: [] ∧
    (flit 1023 [txn .read]).txns ≠ [] ∧ (flit 1023 [txn .read]).seq = (((flying [txn .read]).mod 7 11).chan true).expect ∧
    (((flying [txn .read]).mod 7 11).crcTimes.filter (fun c => decide (0 < c + 100000))).length < 7 := by unfold LinkUp; decide
theorem witness_HallLinkFlits_control : LinkUp (flying []) 7 11 ∧ (((flying []).mod 7 11).chan true).flight = flit 1023 [] :: [] ∧ (flit 1023 []).txns = [] := by unfold LinkUp; decide
def naked : State := linked 0 2 { Chan.idle with naks := [7], replay := [flit 7 [], flit 8 []] }
theorem witness_HallLinkFlits_nak : LinkUp naked 7 11 ∧ ((naked.mod 7 11).chan true).naks = 7 :: [] ∧ ∃ f ∈ ((naked.mod 7 11).chan true).replay, seqDiff f.seq 7 ≤ 512 := by unfold LinkUp; decide
def acked : State := linked 0 2 { Chan.idle with acks := [7], replay := [flit 7 [], flit 8 []] }
theorem witness_HallLinkFlits_ack : LinkUp acked 7 11 ∧ ((acked.mod 7 11).chan true).acks = 7 :: [] ∧ ((acked.mod 7 11).chan true).waiting = [] := by unfold LinkUp; decide
def owing : State := linked 32 2 { Chan.idle with ackOwed := some 7 }
theorem witness_HallLinkFlits_timer : LinkUp owing 7 11 ∧ ((owing.mod 7 11).chan true).ackOwed.isSome = true ∧ ((owing.mod 7 11).chan true).ackSince + 32 ≤ owing.time := by unfold LinkUp; decide
def silent : State := linked 1000 2 { Chan.idle with replay := [flit 7 []] }
theorem witness_HallLinkFlits_replay : LinkUp silent 7 11 ∧ ((silent.mod 7 11).chan true).replay = flit 7 [] :: [] ∧ ((silent.mod 7 11).chan true).since + 1000 ≤ silent.time := by unfold LinkUp; decide
theorem witness_HallLinkFlits_lane : LinkUp (linked 0 2 Chan.idle) 7 11 ∧ ((linked 0 2 Chan.idle).mod 7 11).width = 2 := by unfold LinkUp; decide
/-- Retraining with an acknowledgement taken first. -/
def retraining : State := linked 0 3 { Chan.idle with acks := [7], replay := [flit 7 [], flit 8 []] }
theorem witness_HallLinkFlits_retrained_ack : (retraining.hall 7).fatal = false ∧ (retraining.mod 7 11).width = 3 ∧ (retraining.mod 7 11).up.acks = [7] ∧ (retraining.mod 7 11).up.waiting = [] ∧
    (retraining.mod 7 11).down.waiting = [] := by decide
theorem witness_HallLinkFlits_retrained : ((linked 0 3 Chan.idle).hall 7).fatal = false ∧ ((linked 0 3 Chan.idle).mod 7 11).width = 3 ∧ ((linked 0 3 Chan.idle).mod 7 11).up.waiting = [] ∧
    ((linked 0 3 Chan.idle).mod 7 11).down.waiting = [] := by decide

/-! ### Distribution and stage queues -/

/-- A launch record of one workgroup of one warp. -/
def launch : Rec64 := BitVec.ofNat 512 (2 ^ 64 + 2 ^ 80 + 2 ^ 96 + 2 ^ 128)
def entryState (a : Rec64) : State := { State.reset with ctxs := [(0, { ctxNew oneCfg with nextSeq := 2 })], queues := [(1023, queueOf .entry [.rcd a 4 0 false, .rcd 0 4 0 true])] }
theorem queue_at {s : State} {q : Nat} {x : Queue} (p : s.powered = true) (h : mget s.queues q = some x) : QueueAt s q x := ⟨p, h⟩
theorem witness_Distribution_accept : ∃ x c, QueueAt (entryState launch) 1023 x ∧ mget (entryState launch).ctxs x.ctx = some c ∧ x.items = .rcd launch 4 0 false :: .rcd 0 4 0 true :: [] ∧
    x.role = .entry ∧ c.stopped = false ∧ (entryState launch).nextEntry x.ctx c.rr = some 1023 ∧ (entryState launch).queued x.ctx < Config.launchQueue ∧
    launchInvalid (launch.toNat + (0 : Rec64).toNat * 2 ^ 512) c.nextSeq = false ∧
    (entryState launch).launchNoRoom (launchRecOf (launch.toNat + (0 : Rec64).toNat * 2 ^ 512)) = false := ⟨_, _, queue_at rfl rfl, rfl, by decide +kernel⟩
theorem witness_Distribution_refuse : ∃ x c, QueueAt (entryState 0) 1023 x ∧ mget (entryState 0).ctxs x.ctx = some c ∧ (entryState 0).nextEntry x.ctx c.rr = some 1023 ∧
    (entryState 0).queued x.ctx < Config.launchQueue ∧ (entryState 0).postRoom x.ctx = true ∧ launchInvalid ((0 : Rec64).toNat + (0 : Rec64).toNat * 2 ^ 512) c.nextSeq = true :=
  ⟨_, _, queue_at rfl rfl, rfl, by decide +kernel⟩
theorem witness_AccessEnds_launch : ∃ c, mget (entryState launch).ctxs 0 = some c ∧ ¬LaunchBad launch.toNat c.nextSeq ∧ (entryState launch).launchNoRoom (launchRecOf launch.toNat) = false ∧
    (entryState launch).queued 0 < 256 ∧ LaunchBad 0 c.nextSeq := ⟨_, rfl, by unfold LaunchBad; decide +kernel⟩
theorem witness_AccessEnds_bind : ∃ q c, mget (entryState launch).queues 1023 = some q ∧ mget (entryState launch).ctxs q.ctx = some c ∧
    ¬LaunchBad (launch.toNat + 2 ^ (128 + 32)) c.nextSeq ∧ (entryState launch).launchNoRoom (launchRecOf (launch.toNat + 2 ^ (128 + 32))) = false ∧
    ¬(recFld (launch.toNat + 2 ^ (128 + 32)) 16 41 32 < (64 * 1 + 8 + 4095) / 4096) ∧ recFld launch.toNat 16 41 32 < (64 * 1 + 8 + 4095) / 4096 :=
  ⟨_, _, rfl, rfl, by unfold LaunchBad; decide +kernel⟩
/-- A grid of one gang, accepted, and its gang. -/
def grid (e : Bool) (g : LaunchRec → LaunchRec) : Grid :=
  { gridNew 0 1 .plain (g { oneLr with scratch := 4096 }) 0 with eligible := e, halls := if e then [0] else [], handed := if e then 1 else 0 }
def pendingGang : Gang := gangOf 1 0 0 0 0 [] 0 0
def gridded (t : Nat) (gr : Grid) (gs : NMap Gang) : State := { State.reset with time := t, nextId := 3, ctxs := [(0, { ctxNew oneCfg with keys := [0], nextSeq := 2 })], grids := [(1, gr)], gangs := gs }
def newGrid : State := gridded 0 (grid false id) []
def tryGrid : State := gridded 0 (grid true id) [(2, pendingGang)]
theorem witness_Distribution_eligible : ∃ g c, mget newGrid.grids 1 = some g ∧ mget newGrid.ctxs g.ctx = some c ∧ g.kind = .plain ∧ g.eligible = false ∧
    c.stopped = false ∧ newGrid.depDone g.ctx g.lr.dep0 g.lr.early = true ∧ newGrid.depDone g.ctx g.lr.dep1 g.lr.early = true ∧
    newGrid.chooseHalls newGrid.liveHalls g.lr.halls = 0 :: [] := ⟨_, _, rfl, rfl, by decide +kernel⟩
theorem tried_gang {s : State} {gang : Nat} {g : Gang} {gr : Grid} (h : mget s.gangs gang = some g) (k : mget s.grids g.gid = some gr)
    (t : s.powered = true ∧ s.tried g gr = true) : TriedGang s gang g gr := ⟨t.1, h, k, t.2⟩
theorem witness_Distribution_place : ∃ g gr, TriedGang tryGrid 2 g gr ∧ g.restoring = false ∧ gr.kind = .plain ∧ gr.lr.gang = 1 ∧ gr.lr.hstore = 0 ∧
    tryGrid.gangFit 2 g gr.lr = some (0, [(0, 0, 0x10000)]) ∧ (∀ x ∈ tryGrid.hallGangs g.hall, before x (2, g, gr) = true → tryGrid.fits x = false) ∧ 0 < gr.lr.declared :=
  ⟨_, _, tried_gang rfl rfl (by decide), by decide +kernel⟩
/-- Hall 0 with its first cluster full and its others reserved for another gang. -/
def crowded : State :=
  { gridded 81920 (grid true id) [(2, pendingGang)] with
    wgs := (List.range 8).map (fun i => (10 + i, { gang := 9, gid := 9, ctx := 0, num := i, rank := 0, core := i, base := 0x10000, size := 0x3F0000, tiles := 0, tile0 := 0, slots := 1, warps := [],
                                                    mem := WgMem.start, triggered := false, ended := false, saved := false, alcove := false })),
    cores := (List.range 12).map (fun i => (8 * (i + 1), { Core.idle with resv := some 9 })) }
theorem witness_Distribution_patience : ∃ g gr, TriedGang crowded 2 g gr ∧ crowded.wouldReserve (2, g, gr) = some [0] ∧ crowded.starving (2, g, gr) = true ∧
    (∀ x ∈ crowded.hallGangs g.hall, before x (2, g, gr) = true → crowded.starving x = true → crowded.wouldReserve x = none) :=
  ⟨_, _, tried_gang rfl rfl (by decide), by decide +kernel⟩
def tired : State := gridded 10000000 (grid true id) [(2, pendingGang)]
theorem witness_Distribution_timeout : ∃ g gr c, TriedGang tired 2 g gr ∧ mget tired.ctxs gr.ctx = some c ∧ g.told = false ∧ g.restoring = false ∧
    c.cfg.ceiling ≤ tired.time - g.since ∧ tired.postRoom gr.ctx = true := ⟨_, _, _, tried_gang rfl rfl (by decide), rfl, by decide⟩
def finished (notify : Bool) : State := gridded 0 { grid true (fun r => { r with notify := notify, caddr := 0x200000 }) with endedWgs := 1 } []
/-- Where GRID_COMPLETE stands on a grid that notifies or not. -/
def Over (s : State) (notify : Bool) (g : Grid) : Prop :=
  mget s.grids 1 = some g ∧ ∃ c, mget s.ctxs g.ctx = some c ∧ s.powered = true ∧ c.stopped = false ∧ s.gridEnded 1 g = true ∧
    (∀ h ∈ g.halls, s.released h g.ctx (if g.lr.notify then 6 else 4) = true) ∧ g.lr.notify = notify
theorem witness_Distribution_complete : ∃ g, Over (finished false) false g := ⟨_, rfl, _, rfl, by decide⟩
theorem witness_Distribution_notify : ∃ g s1, Over (tabled (finished true)) true g ∧ (tabled (finished true)).completionWord g.ctx g.lr.caddr g.seq = .ok s1 :=
  ⟨_, _, ⟨rfl, _, rfl, by decide⟩, rfl⟩
theorem witness_Distribution_notify_bad : ∃ g k, Over (finished true) true g ∧ (finished true).completionWord g.ctx g.lr.caddr g.seq = .error k ∧
    (finished true).postRoom g.ctx = true := ⟨_, _, ⟨rfl, _, rfl, by decide⟩, rfl, by decide⟩

/-- A queue with a binding in force, of two records a batch; and a graph of the context. -/
def bound (linger : Nat) (l : List QItem) : Queue := { queueOf .stage l with bindings := [(0, { gid := 1, batch := 2, linger := linger, maxwg := 0 })], bound := some 0 }
def queued (t : Nat) (q : Queue) : State := { gridded t (grid true id) [] with queues := [(1023, q)] }
def lingers : State := queued 320 (bound 1 [.rcd 9 0 0 false])
def batched : State := queued 0 (bound 1 [.rcd 9 0 0 false, .rcd 8 0 0 false])
theorem witness_StageQueueEvents_linger : ∃ x bd s1, QueueAt lingers 1023 x ∧ x.batch = some bd ∧ lingers.launchBatch 1023 (min (0 + 1) bd.batch) = some s1 ∧
    leadRecs x.items = (9, 0, 0) :: [] ∧ 0 + bd.linger * 320 ≤ lingers.time := ⟨_, _, _, queue_at rfl rfl, rfl, rfl, by decide⟩
theorem witness_StageQueueEvents_full : ∃ x bd s1, QueueAt batched 1023 x ∧ x.batch = some bd ∧ batched.launchBatch 1023 (min (1 + 1) bd.batch) = some s1 ∧
    leadRecs x.items = (9, 0, 0) :: [(8, 0, 0)] ∧ bd.batch ≤ 1 + 1 := ⟨_, _, _, queue_at rfl rfl, rfl, rfl, by decide⟩
theorem witness_StageQueueEvents_mark : ∃ x, QueueAt (queued 0 (queueOf .stage [.mark none])) 1023 x ∧ x.items = .mark none :: [] := ⟨_, queue_at rfl rfl, rfl⟩
def graphed : State :=
  { gridded 1250 (grid true id) [] with
    ctxs := [(0, { ctxNew oneCfg with graphs := [(63, { interval := 1000, report := 1, started := 0, progress := false, quietTold := false, full := [], refused := [], accepted := [] })] })] }
theorem witness_StageQueueEvents_watchdog : ∃ c g, mget graphed.ctxs 0 = some c ∧ mget c.graphs 63 = some g ∧ c.stopped = false ∧ c.savedHalls = [] ∧
    4 * g.started + 5 * g.interval ≤ 4 * graphed.time ∧ graphed.postRoom 0 = true := ⟨_, _, rfl, rfl, by decide⟩
def alcoved : State := { gridded 0 (grid true id) [] with alcCtx := some 0, cores := [(831, { Core.idle with alcBuf := [(7, 4)] })] }
theorem witness_StageQueueEvents_alcove : ∃ c, mget alcoved.ctxs 0 = some c ∧ (alcoved.core 831).alcBuf = (7, 4) :: [] ∧ alcoved.alcCtx = some 0 ∧ (alcoved.core 831).alcWid = none ∧
    c.stopped = false ∧ c.savedOn (hallOfCore 831) = false ∧ (alcoved.hall (hallOfCore 831)).fatal = false ∧ alcoved.ctxsw.busy = false := ⟨_, rfl, by decide⟩
theorem witness_StageQueueEvents_put : ∃ x, QueueAt (queued 0 (queueOf .entry [.rcd 1 0 0 true, .rcd 2 0 0 true])) 1023 x ∧ x.role = .entry ∧ x.closed = false ∧ countRecs x.items + 2 ≤ x.cap :=
  ⟨_, queue_at rfl rfl, by decide⟩
theorem witness_StageQueueEvents_dropped : ∃ x, QueueAt (queued 0 { queueOf .entry [] with cap := 1 }) 1023 x ∧ x.role = .entry ∧ x.cap < countRecs x.items + 2 := ⟨_, queue_at rfl rfl, by decide⟩
theorem witness_StageQueueEvents_alcove_put : ∃ x, QueueAt (queued 0 { queueOf .alcove [] with cap := 1 }) 1023 x ∧ x.role = .alcove ∧ x.closed = false ∧ countRecs x.items + 1 ≤ x.cap :=
  ⟨_, queue_at rfl rfl, by decide⟩
/-- The put windows of a part whose firmware failed. -/
def badImage : State := { State.reset with fw := { Firmware.reset with ok := false } }
theorem witness_StageQueueEvents_bad_image : badImage.powered = true ∧ badImage.fw.ok = false := by decide
theorem witness_StageQueueEvents_allocate : (mget (queued 0 (queueOf .stage [])).ctxs 0).isSome = true ∧ (1023 : Nat) < 1024 ∧ 0 < 262144 ∧
    onDieElse (queued 0 (queueOf .stage [])) 1023 + 262144 ≤ 262144 ∧ ∀ n ∈ (some 63 : Option Nat), n < 64 := by decide
/-- The number is in use, by a queue with two bindings. -/
theorem witness_StageQueueEvents_allocate_again : ∃ y, mget (queued 0 { bound 1 [] with bindings := [(0, ⟨1, 2, 1, 0⟩), (1, ⟨1, 1, 1, 0⟩)] }).queues 1023 = some y ∧ y.bindings.length = 2 ∧
    (mget (queued 0 (bound 1 [])).grids 1).isSome = true := ⟨_, rfl, by decide⟩

/-! ### Translation invalidation and the context switch -/

theorem witness_TranslationInvalidation : State.reset.powered = true ∧ State.reset.xlinv.busy = false ∧ ParkedFree State.reset ∧ fld (0x2A000000000000 : Word) 33 32 = 0 ∧
    fld (0x2A000100000001 : Word) 33 32 = 1 ∧ fld (0x2A000200000000 : Word) 33 32 = 2 := by unfold ParkedFree; decide
def invalidating : State := { placed 0x2003FE01 1 2 0 with xlinv := { Xlinv.reset with busy := true, ctl := 0x200000000, accs := [9], copies := [8] } }
theorem witness_TranslationInvalidation_done : invalidating.xlinv.busy = true ∧ (∀ a ∈ invalidating.xlinv.accs, mget invalidating.accs a = none) ∧
    (∀ i ∈ invalidating.xlinv.copies, ∀ p ∈ invalidating.cores, ∀ q ∈ p.2.chans, q.2.id ≠ i) ∧ (∀ p ∈ invalidating.warps, ∀ g ∈ p.2.stq, ∀ x ∈ g.sinks, x.stale = false) ∧
    (xlinvRange invalidating.xlinv.base invalidating.xlinv.ctl).pending invalidating = false ∧ invalidating.staleBlocks = [] := by decide

/-- CTXSW_CTL for context 0 and hall 0, to save and to restore; an area just large enough. -/
def saveWord : Word := 1
def restoreWord : Word := 0x40000000000001
def area (size : Word) (s : State) : State := { s with ctxsw := { Ctxsw.reset with area := 0x1000000, size := size } }
def roomy : State := area 0x1A000 (placed 0x2003FE01 0 0 0)
def cramped : State := area 0 (placed 0x2003FE01 0 0 0)
theorem witness_ContextSwitch_save : ∃ c p l, mget roomy.ctxs (fld saveWord 53 48) = some c ∧ roomy.wgsAt (fld saveWord 53 48) (Sys2Proof.Machine.hallsOf saveWord) = p :: l ∧
    fld saveWord 55 54 = 0 ∧ roomy.ctxsw.busy = false ∧ roomy.saveBytes (fld saveWord 53 48) (Sys2Proof.Machine.hallsOf saveWord) ≤ 4096 * fld roomy.ctxsw.size 39 12 ∧
    4096 * fld cramped.ctxsw.size 39 12 < cramped.saveBytes (fld saveWord 53 48) (Sys2Proof.Machine.hallsOf saveWord) ∧ roomy.slices = [] := ⟨_, _, _, rfl, rfl, by decide⟩
theorem witness_ContextSwitch_none : mget State.reset.ctxs (fld saveWord 53 48) = none := rfl
def saving (t : Nat) (s : State) : State := { s with time := t, ctxsw := { Ctxsw.reset with busy := true, saving := true, halls := [0], area := 0x1000000, size := 0x1A000 } }
def stuckWarp : State := saving 20000 (waiting .dep (placed 0x8903FE01 0 0 0))
theorem witness_ContextSwitch_timeout : ∃ w f, stuckWarp.savingWarps = [(4, w)] ∧ w.frame = some f ∧ stuckWarp.ctxsw.since + 20000 ≤ stuckWarp.time ∧
    stuckWarp.blockStuck 4 f = true ∧ stuckWarp.blockWaits 4 f = true := ⟨_, _, rfl, rfl, by decide⟩
def saved : State := saving 0 (between 0)
theorem witness_ContextSwitch_done : saved.ctxsw.busy = true ∧ saved.ctxsw.saving = true ∧ (∀ p ∈ saved.savingWarps, saved.saveReady p = true) ∧
    saved.alcoveRuns saved.ctxsw.ctx saved.ctxsw.halls = false ∧ (saved.saveImage saved.ctxsw.ctx saved.ctxsw.halls).copyLands = false := by decide
theorem witness_ContextSwitch_no_image : fld restoreWord 55 54 = 1 ∧ roomy.imageFor (fld restoreWord 53 48) (Sys2Proof.Machine.hallsOf restoreWord) = none := ⟨by decide, rfl⟩
/-- An image of the gang, of one line that stands in its area. -/
def image : Image :=
  { id := 9, base := 0x1000000, lines := 1, ctx := 0, halls := [0], gangs := [(2, { pendingGang with stat := .saved })], wgs := [], warps := [], accs := [], copies := [], mres := [], stores := [] }
def imaged : State :=
  { area 0x1A000 (gridded 0 (grid true id) [(2, { pendingGang with stat := .saved })]) with
    images := [image], gal := [(0x20000, { ctx := 0, data := Config.imageLine 9 0, dirty := false, key := 0, halls := [], pois := 0, keep := [], used := 0 })] }
theorem witness_ContextSwitch_restore : ∃ c, mget imaged.ctxs (fld restoreWord 53 48) = some c ∧ imaged.imageFor (fld restoreWord 53 48) (Sys2Proof.Machine.hallsOf restoreWord) = some image ∧
    imaged.wgsAt (fld restoreWord 53 48) (Sys2Proof.Machine.hallsOf restoreWord) = [] ∧ imaged.gangsAt (fld restoreWord 53 48) (Sys2Proof.Machine.hallsOf restoreWord) .pending = [] ∧
    image.gangs = [(2, { pendingGang with stat := .saved })] ∧ (mget imaged.gangs 2).isSome = true := by
  refine ⟨_, rfl, ?_, rfl, rfl, rfl, by decide⟩
  have h : imaged.imageStands (4096 * fld imaged.ctxsw.area 56 12) image = true := by
    have ha : 4096 * fld imaged.ctxsw.area 56 12 = 0x1000000 := by decide
    rw [ha]
    show (((1 : Nat) != 0 || (0x1000000 : Nat) == 0x1000000) && (((imaged.galFetch 0x20000 0).data == Config.imageLine 9 0) && true)) = true
    have e : (imaged.galFetch 0x20000 0).data = Config.imageLine 9 0 := rfl
    rw [e]; simp
  exact List.find?_cons_of_pos (by rw [h]; decide)
def restoring : State := { State.reset with ctxs := [(0, { ctxNew oneCfg with savedHalls := [0] })], ctxsw := { Ctxsw.reset with busy := true, halls := [0] } }
theorem witness_ContextSwitch_restored : restoring.ctxsw.restoring = [] ∧ restoring.ctxsw.busy = true ∧ restoring.ctxsw.saving = false ∧ restoring.queues = [] := ⟨rfl, by decide⟩
theorem witness_ContextSwitch_create : mget State.reset.ctxs 63 = none ∧ (63 : Nat) < 64 := ⟨rfl, by decide⟩
theorem witness_ContextSwitch_destroy : (mget (placed 0x2003FE01 0 0 0).ctxs 0).isSome = true := by decide

/-! ### The mailbox and the host port -/

def mailed (code : Nat) (arg : BitVec 8) (ok : Bool) : State :=
  { State.reset with mb := { Mailbox.reset with busy := true, cmd := code, data := [(0, arg)] }, fw := { Firmware.reset with ok := ok } }
/-- What each command finds in MB_DATA that its clause of the statement asks for. -/
theorem witness_Mailbox_recorder : MbReady (mailed 0x0101 8 true) 0x0101 ∧ fld ((mailed 0x0101 8 true).mb.arg 0) 3 0 ≤ 8 := by unfold MbReady; decide
theorem witness_Mailbox_key : MbReady (mailed 0x0201 255 true) 0x0201 ∧ MbReady (mailed 0x0202 1 true) 0x0202 ∧ 1 ≤ ((mailed 0x0201 255 true).mb.arg 0).toNat ∧
    ((mailed 0x0201 255 true).mb.arg 0).toNat ≤ 255 ∧ 1 ≤ ((mailed 0x0202 1 true).mb.arg 0).toNat := by unfold MbReady; decide
theorem witness_Mailbox_report : MbReady (mailed 0x0301 0 true) 0x0301 ∧ ((mailed 0x0301 0 true).mb.arg 32).getLsbD 8 = false ∧ MbReady (mailed 0x0302 0 true) 0x0302 ∧
    ((mailed 0x0302 0 true).mb.arg 0).toNat ≤ 3452 := by unfold MbReady; decide
/-- The identity, read from a byte of its public key; and from past a chain of less than 2^64 - 1952 bytes. -/
theorem witness_Mailbox_identity : MbReady (mailed 0x0303 255 true) 0x0303 ∧
    ((mailed 0x0303 255 true).mb.arg 0).toNat < ((List.range 1952).map (fun i => (Config.mldsaPublic Fuses.reset.seed).getD i 0) ++ Config.identChain Fuses.reset.seed).length := by
  refine ⟨by unfold MbReady; decide, ?_⟩
  rw [show ((mailed 0x0303 255 true).mb.arg 0).toNat = 255 by decide, List.length_append, List.length_map, List.length_range]
  omega
def pastIdentity : State := { State.reset with mb := { Mailbox.reset with busy := true, cmd := 0x0303, data := (List.range 8).map (fun i => (i, 0xFF)) } }
theorem witness_Mailbox_identity_end (h : (Config.identChain Fuses.reset.seed).length < 2 ^ 64 - 1952) : MbReady pastIdentity 0x0303 ∧
    ((List.range 1952).map (fun i => (Config.mldsaPublic Fuses.reset.seed).getD i 0) ++ Config.identChain Fuses.reset.seed).length ≤ (pastIdentity.mb.arg 0).toNat := by
  refine ⟨by unfold MbReady; decide, ?_⟩
  rw [show (pastIdentity.mb.arg 0).toNat = 2 ^ 64 - 1 by decide, List.length_append, List.length_map, List.length_range]
  omega
def limited (lo hi : BitVec 8) : State := { State.reset with mb := { Mailbox.reset with busy := true, cmd := 0x0401, data := [(0, lo), (1, hi)] } }
theorem witness_Mailbox_power : MbReady (limited 0xF0 0x0A) 0x0401 ∧ 400 ≤ ((limited 0xF0 0x0A).mb.arg 0).toNat ∧ ((limited 0xF0 0x0A).mb.arg 0).toNat ≤ 2800 ∧
    2800 < ((limited 0xF1 0x0A).mb.arg 0).toNat ∧ ((limited 0x8F 0x01).mb.arg 0).toNat < 400 ∧ MbReady (mailed 0x0402 0 true) 0x0402 := by unfold MbReady; decide
theorem witness_Mailbox_unknown : (mailed 0xFFFF 0 true).mb.performed = false ∧ ∀ i c, mbCodeOf i = some c → (mailed 0xFFFF 0 true).mb.cmd ≠ c :=
  ⟨rfl, fun i c h e => by
    have hc : c = 0xFFFF := e.symm
    subst hc
    unfold mbCodeOf at h
    split at h <;> simp at h⟩
theorem witness_Mailbox_recovery : mbCodeOf .keyGen = some 0x0201 ∧ (mailed 0x0201 1 false).mb.busy = true ∧ (mailed 0x0201 1 false).mb.performed = false ∧ (mailed 0x0201 1 false).mb.cmd = 0x0201 ∧
    (mailed 0x0201 1 false).fw.ok = false := by decide
/-- A command that is performed: one without a key, whose waits are over; one of key 5, no store of which is still buffered. -/
def performed (key : Option Nat) : State := { State.reset with mb := { Mailbox.reset with busy := true, performed := true, accs := [9], pends := [(7, 5)], reads := [(7, 6)], copies := [8], key := key } }
theorem witness_Mailbox_done : ∀ key ∈ [none, some 5], (performed key).mb.busy = true ∧ (performed key).mb.performed = true ∧ (∀ a ∈ (performed key).mb.accs, mget (performed key).accs a = none) ∧
    (∀ p ∈ (performed key).mb.pends, ∀ q ∈ ((performed key).hall p.1).pend, q.tag ≠ p.2) ∧ (∀ p ∈ (performed key).mb.reads, ∀ q ∈ ((performed key).hall p.1).reads, q.tag ≠ p.2) ∧
    (∀ i ∈ (performed key).mb.copies, ∀ p ∈ (performed key).cores, ∀ q ∈ p.2.chans, q.2.id ≠ i) ∧ (performed key).mb.key = key ∧ (performed key).warps = [] := by decide

theorem witness_HostPort_memory : State.reset.fw.ok = true ∧ 0x8FFFFFFFF8 + 8 ≤ 0x9000000000 ∧ 0x8FFFFFFFF8 % 128 + 8 ≤ 128 ∧ 0x9000000000 < 0x8FFFFFFFF9 + 8 := by decide
theorem witness_HostPort_registers : State.reset.powered = true ∧ State.reset.ctxsw.busy = false ∧ State.reset.mb.busy = false ∧ 0x7FF < 0x800 ∧
    0x7FF ∉ [0x10, 0x18, 0x20, 0x28, 0x30, 0x38, 0x400] ∧ 0x1000 ≤ 0x1FFF ∧ 0x1FFF < 0x2000 := by decide
def trained : State := { State.reset with cxl := true, gal := [(0x11FFFFFFF, galLine true)] }
theorem witness_HostPort_cxl : trained.cxl = true ∧ trained.fw.ok = true ∧ 128 * 0x11FFFFFFF + 128 ≤ 0x9000000000 ∧ (mget trained.gal 0x11FFFFFFF).isSome = true := by decide
def recorded : State := { entryState 0 with frecs := [{ ctx := 0, w0 := 1, info := 0, block := 0, handle := 0 }] }
theorem witness_HostPort_record : ∃ r c, recorded.frecs = r :: [] ∧ mget recorded.ctxs r.ctx = some c ∧ recorded.ringRoom c = true := ⟨_, _, rfl, rfl, by decide⟩
/-- A stop's record finds room. -/
theorem witness_HostPort_stop : ∃ c r, mget ({ entryState 0 with ctxs := [(0, { ctxNew oneCfg with stopped := true, stopRec := some ⟨0, 1, 0, 0, 0⟩ })] } : State).ctxs 0 = some c ∧ c.stopRec = some r ∧ r.ctx = 0 ∧
    ({ entryState 0 with ctxs := [(0, { ctxNew oneCfg with stopped := true, stopRec := some ⟨0, 1, 0, 0, 0⟩ })] } : State).stopsFit = [0] ∧ (entryState 0).frecs = [] := ⟨_, _, rfl, rfl, by decide⟩
theorem witness_HostPort_record_alone : (({ recorded with frecs := [], queues := [] } : State).writeRecord { ctx := 0, w0 := 1, info := 0, block := 0, handle := 0 }).queues = [] := by decide
def dueMsg (at_ : Option Nat) : State := { State.reset with time := 2000, ctxs := [(63, { ctxNew oneCfg with msixDue := true, msixAt := at_ })] }
theorem witness_HostPort_interrupt : ∃ c, mget (dueMsg (some 0)).ctxs 63 = some c ∧ c.msixDue = true ∧ ∀ x ∈ c.msixAt, x + 2000 ≤ (dueMsg (some 0)).time := ⟨_, rfl, by decide⟩

/-! ### Links between packages, errors and power -/

def message (k : HKind) : HMsg :=
  { kind := k, src := 3, dst := 0, tag := 1, ctx := 0, key := 0, pa := 0x8FFFFFFF80, size := 128, aop := 0, acas := false, af32 := false, data := 7, mask := 1, poisoned := false }
def hflit (n : Nat) : HFlit := { seq := n, msgs := [message .load], ack := none, nak := none }
def ported (t : Nat) (p : Port) : State := { entryState 0 with time := t, ports := [(63, p)] }
def expecting : State := ported 0 { Port.up0 with expect := 1023 }
theorem witness_PackageLinks_flit : PortUp expecting 63 ∧ (hflit 1023).msgs ≠ [] ∧ (hflit 1023).seq = (expecting.port 63).expect ∧ (hflit 1023).ack = none ∧ (hflit 1023).nak = none ∧
    (∀ m ∈ (expecting.port 63).accepted, isAnswer m.2 = false) ∧ ∀ m ∈ (hflit 1023).msgs, isAnswer m = false := by unfold PortUp; decide
/-- A port in training, at four lanes and at one; and one that carries traffic. -/
def training (lanes : Nat) : State := ported 0 { Port.up0 with lanes := lanes, training := true }
theorem witness_PackageLinks_degrade : ((training 4).port 63).lanes = 4 ∧ ((training 4).port 63).training = true ∧ ((ported 0 Port.up0).port 63).lanes ≠ 0 ∧
    ((ported 0 Port.up0).port 63).training = false ∧ ((training 1).port 63).lanes = 1 ∧ ((training 1).port 63).replay = [] ∧ ((training 1).port 63).waiting = [] ∧
    ((training 1).port 63).held = [] := by decide
/-- A port has accepted a request; another accepted one of the package to another line earlier. -/
def serving (k : HKind) : State :=
  { ported 0 { Port.up0 with accepted := [(9, message k)] } with ports := [(0, { Port.up0 with accepted := [(8, { message k with pa := 0 })] }), (63, { Port.up0 with accepted := [(9, message k)] })] }
theorem witness_PackageLinks_request : ∀ k ∈ [HKind.store, .load, .disc, .clean, .atomic], ((serving k).port 63).accepted = (9, message k) :: [] ∧ (message k).pa < 0x9000000000 ∧ (message k).kind = k ∧
    ∀ p ∈ (serving k).ports, ∀ q ∈ p.2.accepted, q.1 < 9 → q.2.src = (message k).src → q.2.pa / 128 = (message k).pa / 128 → False := by decide
def gone (k : HKind) : State :=
  { ported 10000000 Port.up0 with
    ext := [(1, { host := false, msg := message k, aid := some 9, copy := 0, hall := 7, wtag := 5, pref := none, port := 63, since := 0 })], accs := [(9, { acc (.load 6) 0x200078 8 with stat := .outside 1 })],
    halls := [(7, { Hall.idle with pend := [{ tag := 5, wid := 4, copy := 0, ctx := 0, pa := 0, data := 0, mask := 1, pois := 0, va := 0, blk := 0, slot := 0, lane := 0, level := 0, mode := 0, seq := 1 }] })] }
theorem witness_PackageLinks_timeout : ∃ r a p, mget (gone .load).ext 1 = some r ∧ mget (gone .load).accs 9 = some a ∧ ((gone .store).hall r.hall).pend.find? (fun p => p.tag == r.wtag) = some p ∧
    r.host = false ∧ r.since + (gone .load).timeout ≤ (gone .load).time ∧ (gone .load).postRoom r.msg.ctx = true ∧ ((gone .load).port r.port).training = false ∧
    (∀ p ∈ (gone .load).ports, 1 ∉ p.2.unsent) ∧ r.msg.kind = .load ∧ r.aid = some 9 ∧ a.stat = .outside 1 ∧ r.hall < 8 := ⟨_, _, _, rfl, rfl, rfl, by decide⟩
theorem witness_PackageLinks_timeout_store : ∃ r, mget (gone .store).ext 1 = some r ∧ r.msg.kind = .store ∧ r.host = false ∧ r.since + (gone .store).timeout ≤ (gone .store).time ∧
    (gone .store).postRoom r.msg.ctx = true ∧ ((gone .store).port r.port).training = false ∧ ∀ p ∈ (gone .store).ports, 1 ∉ p.2.unsent := ⟨_, rfl, by decide⟩

theorem witness_ErrorsAndPower_hall : State.reset.ctxs = [] ∧ State.reset.wgs = [] ∧ State.reset.bars = [] ∧ (7 : Nat) < 8 ∧ (State.reset.hall 7).fatal = false ∧ (2 = 2 ∨ 2 = 3) := by decide
/-- A hall with a workgroup of a context, a copy of it and a barrier object; and a stop without and with room. -/
theorem witness_ErrorsAndPower_hall_used : ∃ c, (placed 0x2003FE01 0 0 0).slices = [] ∧ (∀ p ∈ (placed 0x2003FE01 0 0 0).wgs, p.2.alcove = false) ∧ (placed 0x2003FE01 0 0 0).ctxs = [(0, c)] ∧
    c.stopped = false ∧ c.recipes = [] ∧ (placed 0x2003FE01 0 0 0).ringRoom c = true ∧ (placed 0x2003FE01 0 0 0).frecs = [] ∧ c.cfg.faultCtl % 128 + 8 ≤ 128 ∧
    ∃ p ∈ (placed 0x2003FE01 0 0 0).wgs, p.2.ctx = 0 ∧ hallOfCore p.2.core = 0 ∧ p.2.ended = false := ⟨_, rfl, by decide, rfl, by decide⟩
theorem witness_ErrorsAndPower_stop_full : ∃ c, mget fullRing.ctxs 0 = some c ∧ c.stopped = false ∧ c.recipes = [] ∧ fullRing.ringRoom c = false ∧ fullRing.frecs.length < 4096 := ⟨_, rfl, by decide⟩
theorem witness_ErrorsAndPower_break : ({ State.reset with bars := [(0x400000, 0)] } : State).ctxs = [] ∧ ({ State.reset with bars := [(0x400000, 0)] } : State).slices = [] ∧ 0x400000 % 128 + 16 ≤ 128 := by decide
theorem witness_ErrorsAndPower_context : ∃ w c, (placed 0x2003FE01 0 0 0).warp 4 = some w ∧ mget (placed 0x2003FE01 0 0 0).ctxs 0 = some c ∧ w.ctx = 0 ∧ c.stopped = false := ⟨_, _, rfl, rfl, by decide⟩
theorem witness_ErrorsAndPower_scratch : ∃ g, mget (placed 0x2003FE01 0 0 0).wgs 3 = some g ∧ 8 * 8191 < g.size := ⟨_, rfl, by decide⟩
theorem witness_ErrorsAndPower_hbm : State.reset.powered = true ∧ (3 : Nat) < 4 ∧ 128 * 0x11FFFFFFF < 0x9000000000 ∧ State.reset.tileAt 0x11FFFFFFF = none := by decide
theorem witness_ErrorsAndPower_corrected : State.reset.corr = [] ∧ (8 : Nat) < 9 := by decide
/-- A die at a temperature, at a power drawn. -/
def hot (t mw : Nat) (l : List Nat) : State := { State.reset with sensors := [(3, (t, mw))], throttled := l }
theorem witness_ErrorsAndPower_clock : (831 : Nat) < 832 ∧ 400 ≤ 1050 ∧ 1050 % 25 = 0 ∧ 831 / 104 ∉ (hot 0 2800000 [3]).throttled ∧
    (mvals (hot 0 2800000 [3]).sensors).foldl (fun a p => a + p.2) 0 ≤ 1000 * (hot 0 2800000 [3]).powerLimit := by decide
theorem witness_ErrorsAndPower_throttle : 3 ∉ (hot 100000 0 []).throttled ∧ 100000 ≤ (hot 100000 0 []).dieTemp 3 ∧ 3 ∈ (hot 95000 0 [3]).throttled ∧ (hot 95000 0 [3]).dieTemp 3 ≤ 95000 := by decide
theorem witness_ErrorsAndPower_thermal : ∃ p ∈ (hot 110000 0 []).sensors, 110000 ≤ p.2.1 := ⟨_, .head _, by decide⟩
theorem witness_ErrorsAndPower_reset : (hot 0 0 []).powered = true := rfl
theorem witness_ErrorsAndPower_power_on : (offState []).powered = false := rfl

/-! ## One step of branches, memory, commands and events -/

/-- The frame of the placed warp after the next step. -/
def frameAfter (s : State) : Option Frame := (after s).bind (fun t => t.fidFrame 4 5)
/-- The branch outputs of lane 0. -/
def bouts (s : State) : Option (List (Nat × Nat × BOut)) := (frameAfter s).map (·.bouts)
/-- The first target's token after the next step of a state. -/
def madeIn (s : State) : Option Tok := (frameAfter s).bind (·.tok 0 1 0)
/-- The state after an event; the state itself where the event does not happen. -/
def evented (i : Instr) (s : State) : State :=
  match exec i s with
  | .next t => t
  | _ => s

/-- R169: the worked word, five units back from block 0, within 57 bits. -/
theorem test_bri_back : bouts (placed 0x803FFFFB 0 0 0) = some [(0, 0, .succ 0x1FFFFFFFFFFFFB0)] := by decide
/-- R79, R168: predicated off, a branch records nothing. -/
theorem test_bri_off : bouts (placedTok 0x803FFFFB [(tokKey 3 0 0, .value 0)]) = some [] := by decide
/-- R169, R170: CALLI three units ahead; the link is past the block's padding (16 header bytes and three slots). -/
theorem test_calli : bouts (placed 0x81000601 0 0 0) = some [(0, 0, .succ 0x30)] ∧ madeIn (placed 0x81000601 0 0 0) = some (.value 0x20) := by decide
/-- R173. -/
theorem test_exit : bouts (placed 0x8283FFFF 0 0 0) = some [(0, 0, .exit)] := by decide
/-- R175: TRAP poisons its sink with SOFTWARE_TRAP and its immediate. -/
theorem test_trap : (frameAfter (placed 0x091FFFFF 0 0 0)).map (·.spois) = some [(0, 0, .poison 0 0x32 0xFFF)] := by decide

/-- A placed slot over a scratch memory whose last word is given. -/
def lastWord (w v : Nat) : State := (placed w 0xFFFF 0 0).updMem 3 (fun m => m.scrPut 0xFFF8 8 v)
/-- R66, R193: LDS of a signed byte. -/
theorem test_lds_signed_byte : madeIn (lastWord 0xA2000001 0x80FFFFFFFFFFFFFF) = some (.value 0x80) ∧ madeIn (lastWord 0xA2002001 0x80FFFFFFFFFFFFFF) = some (.value 0xFFFFFFFFFFFFFF80) := by decide
/-- R84, R196: a store is buffered and memory keeps its bytes. -/
theorem test_sts_buffered : (frameAfter (placed 0xA8808000 0x100 0x123456789 0)).map (fun f => f.sinks.map (fun k => (k.addr, k.size))) = some [(0x100, 4)] ∧
    (after (placed 0xA8808000 0x100 0x123456789 0)).map (fun t => (t.memOf 3).scr 0x100 8) = some 0 := by decide
def adding : State := (placed 0xB2800001 0x100 7 0).updMem 3 (fun m => m.scrPut 0x100 8 0x1FFFFFFFF)
/-- R202, R204: a scratch atomic answers the old value and writes at once. -/
theorem test_atoms_add : madeIn adding = some (.value 0xFFFFFFFF) ∧ (after adding).map (fun t => (t.memOf 3).scr 0x100 8) = some 0x100000006 := by decide
/-- R190: a scratch address past the allocation delivers SCRATCH_RANGE with the address; a misaligned one before its end delivers ALIGNMENT. -/
theorem test_lds_range : madeIn ldsOut = some (.poison 0 0x14 0x10000) ∧ madeIn ldsOdd = some (.poison 0 0x16 0xFFFC) := by decide

/-- The barrier object in scratch after the next step. -/
def objAfter (s : State) : Option BObj := (after s).map (fun t => bobjOf ((t.memOf 3).scr 0xFFF0 16))
/-- R180, R181: the second of two arrivals completes phase 65535, which the command answers. -/
theorem test_barv_completes : madeIn (withObj (obj 1) (placed 0x8483FE01 0xFFF0 0 0)) = some (.value 65535) ∧
    objAfter (withObj (obj 1) (placed 0x8483FE01 0xFFF0 0 0)) = some { obj 0 with phase := 0 } := by decide
/-- R180: BARD's arrival counts one that drops out. -/
theorem test_bard_drops : objAfter (withObj (obj 0) (placed 0x8503FFFF 0xFFF0 0 0)) = some { obj 1 with drops := 1 } := by decide
/-- R181: one arrival too many. -/
theorem test_barv_over : madeIn (withObj { obj 2 with pend := 1 } (placed 0x8483FE01 0xFFF0 0 0)) = some (.poison 0 0x20 0xFFF0) := by decide
/-- R178, R181: BINIT over an object of which every reserved bit is set leaves them zero. -/
theorem test_binit_reserved : (after ((placed 0x8403FFFF 0xFFF0 2 0).updMem 3 (fun m => m.scrPut 0xFFF0 16 (BitVec.allOnes 128).toNat))).map (fun t => fld (BitVec.ofNat 64 ((t.memOf 3).scr 0xFFF0 8)) 59 56) = some 0 := by decide
/-- R226: a reservation is granted; a follower's is refused on an even core. -/
theorem test_mres : madeIn (placed 0x6803FE01 0 0 0) = some (.value 1) ∧ madeIn (placed 0x680BFE01 0 0 0) = some (.value 0) := by decide
/-- R245: a queue of four with one record; a handle that names none. -/
theorem test_qstat : madeIn (withQueue .stage [.rcd 1 0 0 false] (placed 0x8D83FE01 1023 0 0)) = some (.value 0x400000001) ∧
    madeIn (placed 0x8D83FE01 1023 0 0) = some (.value 0x8000000000000000) := by decide
/-- R242: two records from scratch reach the queue in order. -/
theorem test_qput : (after ((withQueue .stage [] (placed 0x8C03FE01 1023 recs 0)).updMem 3 (fun m => (m.scrPut 0xFF80 8 5).scrPut 0xFFC0 8 6))).map (fun t =>
    (mgetD t.queues 1023 (queueOf .stage [])).items) = some [.rcd 5 0 0 false, .rcd 6 0 0 false] := by decide
/-- R250: a pin of a tile, and a drop of no entry. -/
theorem test_recpin : madeIn (placed 0x7083FE01 0x1000 0 0) = some (.value 0) ∧ madeIn (placed 0x7183FE01 0 0 0) = some (.value 0x8000000000000009) := by decide
/-- R220: a copy takes the lowest channel. -/
theorem test_cpy : (after (oneRes 0 (placed 0xBD0BFFFF 0xFFF0 0x7FF0 0))).map (fun t => mkeys (t.core 0).chans) = some [0] := by decide
/-- R130: a store to `ow.dkind` in a handler keeps bits 3:0 only. -/
theorem test_dkind_reserved : (({ vectored with cur := none }.warp 4).bind (fun w => (w.swreg 0 0x092 (BitVec.allOnes 64)).top.map (fun (lv : Level) => lv.win.dkind))) = some [(0, 15)] := by decide

/-- R345: a write's bytes are merged into the Gallery's line. -/
theorem test_hl_write : ((mget (evented (.hlWrite 7 11) (accepted true .write 0)).gal 0x8000).map (fun g => (g.data, g.dirty))) = some (9#1024, true) := by decide +kernel
/-- R345: an atomic answers the old value and adds. -/
theorem test_hl_atomic : ((evented (.hlAtomic 7 11) (accepted true .atomic 0)).galBytes 0x400078 8 0).1 = 7 := by decide +kernel
/-- R223: the barrier object counts the copy. -/
theorem test_copy_complete : ((evented (.copyComplete 0 7) ((copying { copy 2 0xFFE0 32 1 with acq := false }).updMem 3 (fun m => m.scrPut 0xFFF0 16 (bobjBytes { obj 2 with pend := 1 } 0)))).memOf 3).scr 0xFFF0 16 =
    bobjBytes { obj 0 with phase := 0 } 0 := by decide +kernel
/-- R315, R316: the walk's end fills the core's TLB. -/
theorem test_walk_done : ((evented (.translationWalkDone 0 32) parkedGood).core 0).tlb = [page] := by decide +kernel
/-- R338: an area too small. -/
theorem test_save_small : (evented (.ctxswSave saveWord) cramped).ctxsw.result = 1 := by decide +kernel
/-- R355: an unknown command. -/
theorem test_mailbox_unknown : (evented .mbUnknownCommand (mailed 0xFFFF 0 true)).mb.result = 1 := by decide +kernel
/-- R374: what powers on is a machine at time 0 that holds only the boot key. -/
theorem test_power_on : (((offState []).boot []).powered, ((offState []).boot []).time, mkeys ((offState []).boot []).keys) = (true, 0, [0]) := by decide +kernel

end Sys2Proof.Tests
end

section
/-! Every outcome of a meaning is a stop or a state closed over the state before it, so the fuse map (R6) and device time (R19) pass
from state to state but for the passing of time itself. -/
namespace Sys2Proof.Machine

/-! ## Outcomes closed over a state -/

/-- Performed in `s`: a stop, or, in a module with power, a state that `close` has given back what no meaning may change. -/
inductive ClosedOver (s : State) : Out → Prop
  | next (hp : s.powered = true) (t : State) : ClosedOver s (.next (close s t))
  | fault (r : Fault) : ClosedOver s (.fault r)
  | refused (r : Refusal) : ClosedOver s (.refused r)

theorem closedOver_refused (s : State) (r : Refusal) : ClosedOver s (.refused r) := .refused r

theorem closedOver_ran (s t : State) : ClosedOver s (ran s t) := by
  unfold ran
  split
  · exact .next ‹_› t
  · exact .fault _

theorem closedOver_event (s : State) (name : String) (ok : Bool) (t : State) : ClosedOver s (event s name ok t) := by
  unfold event
  split
  · exact closedOver_ran s t
  · exact .refused _

/-! ## The shared shapes of a meaning -/

theorem closedOver_slotL (s : State) (pm : BitVec 2) (reserved : Bool) (nops : Nat) (ts : List (BitVec 9)) (snk : Bool)
    (fn : Env → Frame → Nat → Word → Word → Word → LaneOut) : ClosedOver s (slotL s pm reserved nops ts snk fn) := by
  unfold slotL
  split <;> simp only [closedOver_refused, closedOver_ran]

theorem closedOver_aluOff (s : State) (pm : BitVec 2) (reserved : Bool) (nops : Nat) (tb ta : BitVec 9) :
    ClosedOver s (aluOff s pm reserved nops tb ta) := by
  unfold aluOff
  split <;> simp only [closedOver_refused, closedOver_ran]

theorem closedOver_slotX (s : State) (pm : BitVec 2) (reserved : Bool) (nops : Nat) (tb ta : BitVec 9) (k : Env → List Nat → Nat → Tok) :
    ClosedOver s (slotX s pm reserved nops tb ta k) := by
  unfold slotX
  split <;> simp only [closedOver_refused, closedOver_ran]

theorem closedOver_slotM (s : State) (pm : BitVec 2) (reserved : Bool) (nops : Nat) (ts : List (BitVec 9)) (snk : Bool)
    (ok : Env → State → Nat → Word → Word → Word → Bool) (k : Env → State → Nat → Word → Word → Word → State) :
    ClosedOver s (slotM s pm reserved nops ts snk ok k) := by
  unfold slotM
  split <;> simp only [closedOver_refused, closedOver_ran]

theorem closedOver_slotU (s : State) (pm : BitVec 2) (reserved disabled : Env → Bool) (nops : Nat) (ts : List (BitVec 9)) (allC drain : Bool)
    (perform : Env → State → Word → Word → Word → State × UOut) : ClosedOver s (slotU s pm reserved disabled nops ts allC drain perform) := by
  unfold slotU
  split
  · exact .refused _
  · exact closedOver_ran ..

theorem closedOver_txnEvent (s : State) (name : String) (hall m : Nat) (up : Bool) (ty : TxnType) (k : State → Txn → State) :
    ClosedOver s (txnEvent s name hall m up ty k) := by
  fun_cases txnEvent <;> simp only [closedOver_refused, closedOver_ran, closedOver_event]

theorem closedOver_execAccessResponse (aid : Nat) (s : State) : ClosedOver s (execAccessResponse aid s) := by
  unfold execAccessResponse
  cases mget s.accs aid with
  | none => exact .refused _
  | some a =>
    dsimp only
    cases a.stat with
    | got | queued => exact closedOver_event ..
    | walk | recipe | sent | outside => exact .refused _

/-! ## Every meaning -/

/-- Slots come to one of the shared shapes. An event is performed, or happens under its condition, at the end of each branch of its meaning that
does not refuse it. POWER_ON alone, which starts device time anew, is not closed over the state before it. -/
theorem closedOver_exec {i : Instr} (s : State) (h : ∀ image secver sigOk raise, i ≠ .powerOn image secver sigOk raise) : ClosedOver s (exec i s) := by
  cases i with
  -- class L slots whose effect lies within their frame
  | mov | void | genl | sreg | swreg | emret | trap | fresume | gen | genf | add | sub | addi | mul | mulh | mad | div | rem | min | max | abs | neg
  | and | or | xor | andn | not | shl | shr | sar | rotl | shli | shri | sari | bfx | bfi | popc | clz | ctz | brev | sel | cmpeq | cmpne | cmplt
  | cmple | cmpeqi | cmplti | lea | andi | ori | xori | sext | zext | byteperm | fadd | fsub | fmul | ffma | fdiv | fsqrt | fmin | fmax | fabs | fneg
  | fcmp | fclass | frnd | fscale | dadd | dsub | dmul | dfma | dcmp | dminmax | faddX2 | fsubX2 | fmulX2 | ffmaX2 | fdotX2 | haddX4 | hmulX4
  | hfmaX4 | baddX4 | bmulX4 | bfmaX4 | cvtF2i | cvtI2f | cvtF2f | cvtI2i | cvtH2f | cvtF2d | cvtD2f | ncvtH | ncvtB | ncvtE4 | ncvtE5 | ncvtF4
  | ncvtSc | ncvtI8 | ncvtI4 | rcp | rsq | exp2 | log2 | sin | cos | tanh | pack | unpack | bri | br | calli | call | ret | exit =>
    simp only [exec, execMov, execVoid, execGenl, execSreg, execSwreg, execEmret, execTrap, execFresume, execGen, execGenf, execAdd, execSub,
      execAddi, execMul, execMulh, execMad, execDiv, execRem, execMin, execMax, execAbs, execNeg, execAnd, execOr, execXor, execAndn, execNot,
      execShl, execShr, execSar, execRotl, execShli, execShri, execSari, execBfx, execBfi, execPopc, execClz, execCtz, execBrev, execSel, execCmpeq,
      execCmpne, execCmplt, execCmple, execCmpeqi, execCmplti, execLea, execAndi, execOri, execXori, execSext, execZext, execByteperm, execFadd,
      execFsub, execFmul, execFfma, execFdiv, execFsqrt, execFmin, execFmax, execFabs, execFneg, execFcmp, execFclass, execFrnd, execFscale,
      execDadd, execDsub, execDmul, execDfma, execDcmp, execDminmax, execFaddX2, execFsubX2, execFmulX2, execFfmaX2, execFdotX2, execHaddX4,
      execHmulX4, execHfmaX4, execBaddX4, execBmulX4, execBfmaX4, execCvtF2i, execCvtI2f, execCvtF2f, execCvtI2i, execCvtH2f, execCvtF2d, execCvtD2f,
      execNcvtH, execNcvtB, execNcvtE4, execNcvtE5, execNcvtF4, execNcvtSc, execNcvtI8, execNcvtI4, execRcp, execRsq, execExp2, execLog2, execSin,
      execCos, execTanh, execPack, execUnpack, execBri, execBr, execCalli, execCall, execRet, execExit, alu, aluT, narrow, branchSlot,
      closedOver_slotL]
  -- those that vector with EMU_DISABLED (R74, R158)
  | ddiv | dsqrt =>
    simp only [exec, execDdiv, execDsqrt, closedOver_aluOff]
  -- lane operations
  | shfl | vote | redx | scanx | elect =>
    simp only [exec, execShfl, execVote, execRedx, execScanx, execElect, closedOver_slotX]
  -- class L slots that act on memory
  | genk | ld | ldO | lda32 | lda64 | lds | ldsFe | ldc | ldt | ldk | st | sts | stsFe | stc | stt | strel32 | strel64 | atom32 | atom64 | atomf
  | cas32 | cas64 | atoms | red32 | fenceAcq | fenceRel | fenceAr | disc | clean | iinv | feset | feclr | pref | resid | ipref =>
    simp only [exec, execGenk, execLd, execLdO, execLda32, execLda64, execLds, execLdsFe, execLdc, execLdt, execLdk, execSt, execSts, execStsFe,
      execStc, execStt, execStrel32, execStrel64, execAtom32, execAtom64, execAtomf, execCas32, execCas64, execAtoms, execRed32, execFenceAcq,
      execFenceRel, execFenceAr, execDisc, execClean, execIinv, execFeset, execFeclr, execPref, execResid, execIpref, loadSlot, storeSlot, atomSlot,
      fenceSlot, hintSlot, closedOver_slotM]
  -- class U commands
  | mres | mrel | mma | mman | mmanp | mzero | mcom | mwait | mprog | mstat | recdef | recpin | recunpin | recdrop | recdone | recmat | binit | barv
  | bard | bwait | bar | bexpect | launch | trig | depwait | qput | qtake | qclose | qstat | qbind | cpy =>
    simp only [exec, execMres, execMrel, execMma, execMman, execMmanp, execMzero, execMcom, execMwait, execMprog, execMstat, execRecdef,
      execRecpin, execRecunpin, execRecdrop, execRecdone, execRecmat, execBinit, execBarv, execBard, execBwait, execBar, execBexpect, execLaunch,
      execTrig, execDepwait, execQput, execQtake, execQclose, execQstat, execQbind, execCpy, barSlot, closedOver_slotU]
  -- transactions of a hall link (R345)
  | hlRead | hlWrite | hlAtomic | hlReadData | hlWriteAck | hlAtomicResult | hlInvalidate | hlInvalidateAck =>
    simp only [exec, execHlRead, execHlWrite, execHlAtomic, execHlReadData, execHlWriteAck, execHlAtomicResult, execHlInvalidate,
      execHlInvalidateAck, closedOver_txnEvent]
  -- events that happen in every module with power
  | putWindowWrite | alcovePutWindowWrite | hostBar4Access | registerWrite | packageReset =>
    simp only [exec, execPutWindowWrite, execAlcovePutWindowWrite, execHostBar4Access, execRegisterWrite, execPackageReset, closedOver_ran]
  -- events under one condition
  | faultRecordDrain | translationWalkDone | ctxswSaveDone | ctxswRestoreDone | recRead | attestMake | attestRead | identRead | powerLimit
  | powerRead | mbCommandDone | hlinkAckTimer | hslFlitReceive | hslPortDegrade | contextDestroy | queueAllocate | xlinvPage | xlinvRange
  | xlinvContext | xlinvDone | ctxswSave | saveBoundaryTimeout | ctxswRestore | mbUnknownCommand | keyGen | keyClear | hlinkLaneFailure
  | hlinkRetrainDone | hallFatalError | uncorrectedError | correctedError | islandClockChange | thermalThrottleEnter | thermalThrottleExit
  | thermalPowerOff | contextCreate | cxlMemRequest =>
    simp only [exec, execFaultRecordDrain, execTranslationWalkDone, execCtxswSaveDone, execCtxswRestoreDone, execRecRead, execAttestMake,
      execAttestRead, execIdentRead, execPowerLimit, execPowerRead, execMbCommandDone, execHlinkAckTimer, execHslFlitReceive, execHslPortDegrade,
      execContextDestroy, execQueueAllocate, execXlinvPage, execXlinvRange, execXlinvContext, execXlinvDone, execCtxswSave, execSaveBoundaryTimeout,
      execCtxswRestore, execMbUnknownCommand, execKeyGen, execKeyClear, execHlinkLaneFailure, execHlinkRetrainDone, execHallFatalError,
      execUncorrectedError, execCorrectedError, execIslandClockChange, execThermalThrottleEnter, execThermalThrottleExit, execThermalPowerOff,
      execContextCreate, execCxlMemRequest, mbCommand, closedOver_event]
  -- slots with a rule of their own, and events whose meaning refuses them in some branches
  | accessResponse aid => exact closedOver_execAccessResponse aid s
  | hlinkFlitReceive => simp only [exec]; fun_cases execHlinkFlitReceive <;> simp only [closedOver_refused, closedOver_event]
  | pick => simp only [exec]; fun_cases execPick <;> simp only [closedOver_refused, closedOver_ran]
  | yield => simp only [exec]; fun_cases execYield <;> simp only [closedOver_refused, closedOver_ran]
  | emuVector => simp only [exec]; fun_cases execEmuVector <;> simp only [closedOver_refused, closedOver_ran]
  | emuMatrixDrainDone => simp only [exec]; fun_cases execEmuMatrixDrainDone <;> simp only [closedOver_refused, closedOver_event]
  | blockDecode => simp only [exec]; fun_cases execBlockDecode <;> simp only [closedOver_refused, closedOver_ran, closedOver_event]
  | icacheFillArrive => simp only [exec]; fun_cases execIcacheFillArrive <;> simp only [closedOver_refused, closedOver_ran]
  | blockCommit => simp only [exec]; fun_cases execBlockCommit <;> simp only [closedOver_refused, closedOver_ran, closedOver_event]
  | msixRateTimer => simp only [exec]; fun_cases execMsixRateTimer <;> simp only [closedOver_refused, closedOver_event]
  | frameShareHandoff => simp only [exec]; fun_cases execFrameShareHandoff <;> simp only [closedOver_refused, closedOver_event]
  | frameStarvationRaise => simp only [exec]; fun_cases execFrameStarvationRaise <;> simp only [closedOver_refused, closedOver_event]
  | engineQueueSpace => simp only [exec]; fun_cases execEngineQueueSpace <;> simp only [closedOver_refused, closedOver_ran]
  | barrierWaitEnd => simp only [exec]; fun_cases execBarrierWaitEnd <;> simp only [closedOver_refused, closedOver_event]
  | feWaitSatisfied => simp only [exec]; fun_cases execFeWaitSatisfied <;> simp only [closedOver_refused, closedOver_ran]
  | mwaitEnd => simp only [exec]; fun_cases execMwaitEnd <;> simp only [closedOver_refused, closedOver_event]
  | qtakeWaitEnd => simp only [exec]; fun_cases execQtakeWaitEnd <;> simp only [closedOver_refused, closedOver_event]
  | depwaitEnd => simp only [exec]; fun_cases execDepwaitEnd <;> simp only [closedOver_refused, closedOver_event]
  | iinvComplete => simp only [exec]; fun_cases execIinvComplete <;> simp only [closedOver_refused, closedOver_event]
  | copyComplete => simp only [exec]; fun_cases execCopyComplete <;> simp only [closedOver_refused, closedOver_event]
  | matrixOpRetire => simp only [exec]; fun_cases execMatrixOpRetire <;> simp only [closedOver_refused, closedOver_event]
  | recipeSlicePlace => simp only [exec]; fun_cases execRecipeSlicePlace <;> simp only [closedOver_refused, closedOver_ran, closedOver_event]
  | galleryEvict => simp only [exec]; fun_cases execGalleryEvict <;> simp only [closedOver_refused, closedOver_ran, closedOver_event]
  | entryQueueAccept => simp only [exec]; fun_cases execEntryQueueAccept <;> simp only [closedOver_refused, closedOver_event]
  | gridEligible => simp only [exec]; fun_cases execGridEligible <;> simp only [closedOver_refused, closedOver_event]
  | gangPlace => simp only [exec]; fun_cases execGangPlace <;> simp only [closedOver_refused, closedOver_event]
  | gangPatienceExpired => simp only [exec]; fun_cases execGangPatienceExpired <;> simp only [closedOver_refused, closedOver_event]
  | gangPlacementTimeout => simp only [exec]; fun_cases execGangPlacementTimeout <;> simp only [closedOver_refused, closedOver_event]
  | gridComplete => simp only [exec]; fun_cases execGridComplete <;> simp only [closedOver_refused, closedOver_event]
  | stageLingerExpired => simp only [exec]; fun_cases execStageLingerExpired <;> simp only [closedOver_refused, closedOver_event]
  | qbindMarkerHead => simp only [exec]; fun_cases execQbindMarkerHead <;> simp only [closedOver_refused, closedOver_ran]
  | stageWatchdog => simp only [exec]; fun_cases execStageWatchdog <;> simp only [closedOver_refused, closedOver_event]
  | alcoveRecordArrive => simp only [exec]; fun_cases execAlcoveRecordArrive <;> simp only [closedOver_refused, closedOver_event]
  | hlinkNakReceived => simp only [exec]; fun_cases execHlinkNakReceived <;> simp only [closedOver_refused, closedOver_event]
  | hlinkAckReceived => simp only [exec]; fun_cases execHlinkAckReceived <;> simp only [closedOver_refused, closedOver_event]
  | hlinkReplayTimeout => simp only [exec]; fun_cases execHlinkReplayTimeout <;> simp only [closedOver_refused, closedOver_event]
  | remoteRequest => simp only [exec]; fun_cases execRemoteRequest <;> simp only [closedOver_refused, closedOver_event]
  | remoteCompletionTimeout => simp only [exec]; fun_cases execRemoteCompletionTimeout <;> simp only [closedOver_refused, closedOver_event]
  | contextFatalError => simp only [exec]; fun_cases execContextFatalError <;> simp only [closedOver_refused, closedOver_event]
  | matrixKstepDone => simp only [exec]; fun_cases execMatrixKstepDone <;> simp only [closedOver_refused, closedOver_event]
  | copyBeat => simp only [exec]; fun_cases execCopyBeat <;> simp only [closedOver_refused, closedOver_event]
  | powerOn image secver sigOk raise => exact absurd rfl (h image secver sigOk raise)

theorem exec_powerOn_powered {s : State} (hp : s.powered = true) (image : List (BitVec 8)) (secver : BitVec 32) (sigOk : Bool)
    (raise : Option (BitVec 32)) : exec (.powerOn image secver sigOk raise) s = .refused (.notEnabled "POWER_ON") := by
  show execPowerOn image secver sigOk raise s = _
  exact if_pos (by rw [hp, Bool.true_or])

theorem closedOver_exec_powered {s : State} (hp : s.powered = true) (i : Instr) : ClosedOver s (exec i s) := by
  by_cases h : ∃ image secver sigOk raise, i = .powerOn image secver sigOk raise
  · obtain ⟨image, secver, sigOk, raise, rfl⟩ := h
    rw [exec_powerOn_powered hp]
    exact .refused _
  · exact closedOver_exec s (fun image secver sigOk raise e => h ⟨image, secver, sigOk, raise, e⟩)

/-! ## What is kept -/

theorem Keeps.refl (s : State) : Keeps s s := ⟨rfl, Nat.le_refl _⟩
theorem Keeps.trans {s t u : State} (h : Keeps s t) (k : Keeps t u) : Keeps s u := ⟨k.1.trans h.1, Nat.le_trans h.2 k.2⟩
theorem keeps_close (s t : State) : Keeps s (close s t) := ⟨rfl, Nat.le_refl _⟩

/-- Every next state keeps the fuse map and does not run time back. -/
def OutKeeps (s : State) (o : Out) : Prop := ∀ t, o = .next t → Keeps s t

theorem ClosedOver.outKeeps {s : State} {o : Out} (h : ClosedOver s o) : OutKeeps s o := by
  intro t e
  cases h with
  | next _ u => cases e; exact keeps_close s u
  | fault _ => cases e
  | refused _ => cases e

theorem outKeeps_ran (s t : State) : OutKeeps s (ran s t) := (closedOver_ran s t).outKeeps
theorem outKeeps_exec {s : State} (hp : s.powered = true) (i : Instr) : OutKeeps s (exec i s) := (closedOver_exec_powered hp i).outKeeps

theorem OutKeeps.after {s t : State} {o : Out} (k : OutKeeps t o) (h : Keeps s t) : OutKeeps s o := fun u e => h.trans (k u e)

/-! ## One turn -/

theorem keeps_setIsland (s : State) (island mhz : Nat) : Keeps s (s.setIsland island mhz) := by
  unfold State.setIsland
  split <;> exact Keeps.refl s

theorem keeps_coolDie (s : State) (die : Nat) : Keeps s (s.coolDie die) := by
  unfold State.coolDie
  refine List.foldlRecOn _ _ (Keeps.refl s) (fun t h island _ => h.trans ?_)
  dsimp only
  split
  · exact keeps_setIsland ..
  · exact Keeps.refl t

/-- Time passes, and nothing runs it back (R19). -/
theorem keeps_lapse (s : State) : Keeps s s.lapse := by
  have cooled : Keeps s (s.throttled.foldl (fun s d => s.coolDie d) s) :=
    List.foldlRecOn _ _ (Keeps.refl s) (fun t h die _ => h.trans (keeps_coolDie t die))
  exact cooled.trans ⟨rfl, by unfold State.lapse; dsimp only; omega⟩

theorem outKeeps_runSlot {s : State} (hp : s.powered = true) (c : Cursor) : OutKeeps s (runSlot c s) := by
  unfold runSlot
  split
  · exact outKeeps_ran s s
  · split
    · exact outKeeps_ran s s
    · split
      · exact outKeeps_exec hp _
      · exact outKeeps_exec hp _

theorem outKeeps_fireSlot {s : State} (hp : s.powered = true) (wid slot : Nat) : OutKeeps s (s.fireSlot wid slot) := by
  have go (q : Nat) : OutKeeps s (runSlot ⟨wid, q⟩ { s with cur := some ⟨wid, q⟩ }) := .after (outKeeps_runSlot (by exact hp) _) ⟨rfl, Nat.le_refl _⟩
  unfold State.fireSlot
  dsimp only
  split
  · exact go slot
  · split
    · split
      · exact go _
      · exact go slot
    · exact go slot

theorem outKeeps_orSkip {s : State} {o : Out} (h : OutKeeps s o) : OutKeeps s (orSkip s o) := by
  cases o with
  | next t => exact h
  | fault _ => exact outKeeps_ran s s
  | refused _ => exact outKeeps_ran s s

theorem outKeeps_takeInput {s : State} (hp : s.powered = true) : OutKeeps s s.takeInput := by
  unfold State.takeInput
  split
  · exact outKeeps_ran s s
  · exact .after (outKeeps_orSkip (outKeeps_exec (by exact hp) _)) ⟨rfl, Nat.le_refl _⟩
  · exact .after (outKeeps_ran _ _) ⟨rfl, Nat.le_refl _⟩

theorem outKeeps_perform1 {s : State} (hp : s.powered = true) (a : Act) : OutKeeps s (s.perform1 a) := by
  cases a with
  | fire wid slot => exact outKeeps_fireSlot hp wid slot
  | event i => exact outKeeps_exec hp i
  | input => exact outKeeps_takeInput hp
  | lapse => exact (outKeeps_ran s.lapse s.lapse).after (keeps_lapse s)
  | drop | resend | ahead | early => exact outKeeps_ran s _

theorem outKeeps_performDue {s : State} (hp : s.powered = true) (a : Act) : OutKeeps s (s.performDue a) := by
  unfold State.performDue
  split
  · split
    · exact outKeeps_exec hp _
    · exact outKeeps_ran s s
  · exact outKeeps_perform1 hp a

theorem outKeeps_step {s : State} (hp : s.powered = true) : OutKeeps s (step s) := by
  unfold step State.turn
  rw [if_neg (by rw [hp]; decide)]
  split
  · exact outKeeps_runSlot hp _
  · dsimp only
    split
    · exact .after (outKeeps_perform1 (by exact hp) _) ⟨rfl, Nat.le_refl _⟩
    · exact .after (outKeeps_performDue (by exact hp) _) ⟨rfl, Nat.le_refl _⟩
    · exact outKeeps_ran s _

/-- Settles O9: a meaning ends in a state closed over the one before it, and what a step adds to meanings only lets time pass. -/
theorem fusesAndTimeKept : Obligations.FusesAndTimeKept := by
  unfold Obligations.FusesAndTimeKept
  exact ⟨fun i s t hp h => outKeeps_exec hp i t h, fun s t hp h => outKeeps_step hp t h⟩

end Sys2Proof.Machine
end
